-- ==== Sys2Proof/Word.lean ====
section
/-! DEFINITION. Words and the index types of Table ARC-2 (01_architecture). -/

namespace Sys2Proof

/-- A 32-bit word (R10). -/
abbrev Word := BitVec 32
/-- One byte. -/
abbrev Byte := BitVec 8
/-- A Plaza number p, 0 to 15; also the number of AWGp and DGp (R19). -/
abbrev PlazaIx := Fin 16
/-- A context number, 0 to 4,095 (02_host_rings). -/
abbrev CtxId := Nat
/-- A ring number, 0 to 32,767 (R85). -/
abbrev RingId := Nat
/-- The number of an entry of the operation table, given at acceptance (R99). -/
abbrev OpId := Nat

end Sys2Proof
end

