-- ==== Sys2Proof/Syntax.lean ====
section
/-! DEFINITION. The commands of the block: one constructor per row of spec/opcode_table.json,
in the table's order, and the types of their operands. -/

namespace Sys2Proof

/-- The switchable engines (R40): Plaza, DPS, AWG, digitizer, TMU, raster engine, port M. -/
inductive Eng where
  | plaza (p : Fin 16) | dps (n : Fin 32) | awg (p : Fin 16) | dg (p : Fin 16)
  | tmu (n : Fin 64) | re (k : Fin 4) | portM
  deriving DecidableEq, Repr

/-- What reaches an engine in the same cycle of its clock as a request (R44): nothing else, a fault or an
expired timeout, a disable that wins over this enable, or another request of the same kind, taken
already, with which this one counts as one. -/
inductive Meet where
  | alone | withFault | withDisable | withSame
  deriving DecidableEq, Repr

/-- A host's access of a BAR that has no row of its own (Table HST-2, R57, R434): a read of up to 4096
bytes of BAR0 (len is one less), a 32-bit read of BAR4 or BAR2, a write to BAR4. A write to BAR2 is a doorbell's row. -/
inductive BarAccess where
  | bar0 (len : Fin 4096) | bar4 | bar2 | bar4Write (data : BitVec 64)
  deriving DecidableEq, Repr

/-- A read through the flash view (R396): a control core's, at a flash address, or a host's, at an offset in a
BAR. -/
inductive ViewAccess where
  | core | host (b : BarAccess)
  deriving DecidableEq, Repr

/-- The internal rails of Table PWR-2. -/
inductive Rail where
  | vlich | vio | vcore | vsram | vdd1 | vdd2 | vddq
  | vped (n : Fin 8) | vpep (n : Fin 8) | vpen (n : Fin 8)
  deriving DecidableEq, Repr

/-- How a fetch read ended (R96): every part arrived, or a part ended in Unsupported Request,
Completer Abort or a poisoned completion. -/
inductive ReadEnd where
  | ok | error
  deriving DecidableEq, Repr

/-- LAST and CLEN of a microword (Table UCS-1). -/
structure UHdr where
  clen : Fin 8
  last : Bool
  deriving DecidableEq, Repr

/-- What one comparator output showed in the self-test: its value with the bus at T + 20 mV and at T - 20 mV,
first as wired, then with the comparator's inputs swapped (Table PIN-13, steps 3 and 4). -/
structure StOut where
  hi   : Bool
  lo   : Bool
  hiSw : Bool
  loSw : Bool
  deriving DecidableEq, Repr

/-- What the comparator self-test observed on one channel (Table PIN-13): the monitor ADC's reading of the bus
at T in uV, both outputs in steps 3 and 4, and the B1 codes of the trip points that the searches of step 5
found, as wired and swapped. -/
structure SelfTestRes where
  chan : Fin 1024
  bus  : Int
  ch   : StOut
  cl   : StOut
  hTrip : BitVec 16
  hSwap : BitVec 16
  lTrip : BitVec 16
  lSwap : BitVec 16
  deriving DecidableEq, Repr

/-- A change of the voltage on a pin in a vector's cycle or in a window that reaches past it (R102, R222): the
channel, the time in ps from the cycle start, and the voltage in uV from then on. -/
structure PinStep where
  chan : Fin 1024
  t    : Int
  v    : Int
  deriving DecidableEq, Repr

/-- The conversions of one channel in a PMU measurement (R247, R252): its NAVG codes, and whether the PMU
stood at its limit (R119). -/
structure PmuReading where
  chan       : Fin 1024
  codes      : List Int
  compliance : Bool
  deriving DecidableEq, Repr

/-- Why an acquisition ended (R258): all samples taken, the sense switch opened, or the
digitizer's stop. The mask stop of R234 is found from the samples themselves. -/
inductive AcqEndWhy where
  | full | senseOpened | stopped
  deriving DecidableEq, Repr

/-- One unit that answered the Avenue probe (R354): its CHIPID, highest supported version and
owned lines, and the sums over the 16 exchanges of (t2-t1) and (t4-t3) in ps. -/
structure AvUnit where
  chipid   : Fin 64
  version  : Nat
  own      : BitVec 8
  sumT21   : Int
  sumT43   : Int
  deriving DecidableEq, Repr

/-- What a training reports: it has begun, it ended with these answers (the unit that reads this is
the follower with index self, if it is a follower), or a step failed. -/
inductive AvTrainRes where
  | begun | answers (units : List AvUnit) | stepFailed
  deriving DecidableEq, Repr

/-- What a calibration procedure measured for one entry (R374): of a source, what the monitor ADC read at its two
settings; of a converter, what stood at its input at the two points, as the monitor ADC read it, and the
converter's own readings; of a monitor ADC, its readings of REF_GND and REF_IN; all in the unit of O of the
entry, voltages as the ideal equations give them. Or of the self-test pulses of 150 ps, 160 ps to 400 ps, how many
of 16 tries counted, for each detection width; or the measured delays of a channel's edge classes in ps. -/
inductive CalMeas where
  | source (y1 y2 : Int)
  | converter (x1 y1 x2 y2 : Int)
  | reference (gnd ref : Int)
  | widths (high low : List Nat)
  | delays (r f z s : Int)
  deriving DecidableEq, Repr

/-- What a calibration procedure measured (R374, R375): each entry's measurement, the REF_IN reading in uV as the
monitor ADC's ideal equation gives it,
and whether repeated readings spread too far (check 6). -/
structure CalRes where
  meas       : List CalMeas
  refin      : Int
  spreadBad  : Bool
  deriving DecidableEq, Repr

/-- What a port M transaction met (R390): the words its in and poll units received, one a unit; after how
many units the select was released, where it was cut short (R391, R392); and what the boot flash holds
afterwards. -/
structure PmXferRes where
  words : List (BitVec 32) := []
  units : Nat := 0
  flash : Option (List (Nat × BitVec 8)) := none
  deriving DecidableEq, Repr

/-- What a monitor check read on one DPS (R332): the 16 monitor-ADC codes of each threshold VHI, VLO, ISRC_T and
ISNK_T, and whether the comparators answered the trip test. -/
structure MonCheckRes where
  dps    : Fin 32
  vhi    : List Int
  vlo    : List Int
  isrc   : List Int
  isnk   : List Int
  tripOk : Bool
  deriving DecidableEq, Repr

/-- The causes of a chip-level self-reset (R425). -/
inductive SelfCause where
  | watchdog | rail | internal | host
  deriving DecidableEq, Repr

/-- Who reads a register pair (R437). -/
inductive Requester where
  | host | portS | core
  deriving DecidableEq, Repr

/-- The snapshot pairs of Table MAP-11. -/
inductive SnapPair where
  | time | cyc (p : Fin 16) | tsValid (p : Fin 16)
  deriving DecidableEq, Repr

/-- The registers with a peak field (R438). -/
inductive PeakReg where
  | hifOptStat | capBuf (p : Fin 16) | pwrDut
  deriving DecidableEq, Repr

/-- The commands: operations and events, one constructor per row of the opcode table. -/
inductive Instr where
  | coldStart (refsel : Bool)
  | pllLock (chipid : BitVec 6) (psChain : Bool)
  | railGood (r : Rail)
  | railStartTimeout (r : Rail)
  | railOutOfTolerance (r : Rail)
  | firmwareRunning
  | bootManifestTimeout
  | patchLoadTimeout
  | perstNAssert
  | perstNDeassert (chipid : BitVec 6) (psChain : Bool)
  | vinUndervoltage
  | vinOvervoltage
  | vinRestored (refsel : Bool)
  | lichenPowerLoss
  | vinSample (vin10mV : BitVec 16) (iavgMA : Nat)
  | pllLockLoss
  | dieLinkCrcFail (n : Fin 8)
  | pwrReqActive
  | pwrReqStandby
  | pwrReqDeepSleep
  | powerStateChangeDone
  | linkL2L3Entry
  | deepSleepRequestTimeout
  | wakeNLow
  | ctlEnable (e : Eng) (m : Meet)
  | ctlDisable (e : Eng) (m : Meet)
  | engineStartDone (e : Eng)
  | engineStopDone (e : Eng)
  | heldEnableTakesEffect (e : Eng)
  | startTimeout (e : Eng)
  | stopTimeout (e : Eng)
  | flr
  | dlDown
  | hifVerOfferWrite (w : Word)
  | adminEnSet (readError : Bool)
  | adminEnClear
  | doorbell (page : BitVec 12) (off : BitVec 12) (size : Nat) (val : BitVec 64)
  | sqFetchComplete (ring : RingId) (n : Nat) (res : ReadEnd)
  | sqFetchTimeout (ring : RingId)
  | descriptorDispatch (op : OpId)
  | executionTimeout (op : OpId)
  | queueWaitTimeout (op : OpId)
  | hostReadError (op : OpId)
  | completionWrite (op : OpId)
  | interruptDelayExpiry (ring : RingId)
  | nop (op : OpId)
  | ctxOpen (op : OpId)
  | ctxClose (op : OpId)
  | ctxAbort (op : OpId)
  | ctxOpsDrained (ctx : CtxId)
  | resClaim (op : OpId)
  | resRelease (op : OpId)
  | ringAttach (op : OpId)
  | ringDetach (op : OpId)
  | ctxQuery (op : OpId)
  | lvlLoad (op : OpId)
  | chCfg (op : OpId)
  | parkRead (op : OpId)
  | cmpSelftest (op : OpId)
  | cmpSelftestDone (op : OpId) (res : List SelfTestRes)
  | settleEnd (p : PlazaIx)
  | driverOvercurrent (c : Fin 1024)
  | tsLoad (op : OpId)
  | dskLoad (op : OpId)
  | dskRead (op : OpId)
  | quietPoint (p : PlazaIx)
  | bandHoldExpiry (p : PlazaIx)
  | plzEnable (op : OpId) (m : Meet)
  | plzDisable (op : OpId) (m : Meet)
  | seqLoad (op : OpId)
  | segWrite (op : OpId)
  | segFill (op : OpId)
  | segFillDone (p : PlazaIx) (slot : Fin 64)
  | seqRun (op : OpId)
  | runTimingZero (p : PlazaIx)
  | seqJump (op : OpId)
  | jumpTakesEffect (p : PlazaIx)
  | sitedataLoad (op : OpId)
  | maskLoad (op : OpId)
  | holdLoad (op : OpId)
  | slotQuery (op : OpId)
  | vec (p : PlazaIx)
  | rpt (p : PlazaIx)
  | loop (p : PlazaIx)
  | endl (p : PlazaIx)
  | call (p : PlazaIx)
  | ret (p : PlazaIx)
  | jmp (p : PlazaIx)
  | jmpm (p : PlazaIx)
  | waitm (p : PlazaIx)
  | sync (p : PlazaIx)
  | evt (p : PlazaIx)
  | stepSd (p : PlazaIx)
  | mark (p : PlazaIx)
  | clrf (p : PlazaIx)
  | halt (p : PlazaIx)
  | vectorPlay (p : PlazaIx) (levels : List (Fin 1024 × Int)) (steps : List PinStep)
  | matchDecision (p : PlazaIx)
  | underrun (p : PlazaIx)
  | holdExit (p : PlazaIx)
  | holdTimeout (p : PlazaIx)
  | syncEvent (p : PlazaIx)
  | syncTimeout (p : PlazaIx)
  | microNop (p : PlazaIx) (h : UHdr)
  | fld (p : PlazaIx) (h : UHdr) (dst : Fin 8) (hi : Fin 64) (lo : Fin 64)
  | imm (p : PlazaIx) (h : UHdr) (dst : Fin 8) (val : BitVec 16)
  | alu (p : PlazaIx) (h : UHdr) (dst : Fin 8) (a : Fin 8) (b : Fin 8) (fn : Fin 8)
  | iss (p : PlazaIx) (h : UHdr) (a : Fin 8) (b : Fin 8) (burst : Bool)
  | act (p : PlazaIx) (h : UHdr) (kind : Fin 16) (a : Fin 8)
  | stk (p : PlazaIx) (h : UHdr) (kind : Fin 16) (a : Fin 8) (b : Fin 8) (dst : Fin 8)
  | lchk (p : PlazaIx) (h : UHdr) (a : Fin 8) (b : Fin 8)
  | br (p : PlazaIx) (h : UHdr) (ucond : Fin 16) (target : BitVec 12)
  | pcUpd (p : PlazaIx) (h : UHdr) (mode : Fin 4) (a : Fin 8)
  | mtch (p : PlazaIx) (h : UHdr) (a : Fin 8) (b : Fin 8) (c : Fin 8) (form : Bool)
  | syn (p : PlazaIx) (h : UHdr) (a : Fin 8) (b : Fin 8) (c : Fin 8)
  | trap (p : PlazaIx) (h : UHdr) (code : BitVec 8)
  | endRun (p : PlazaIx) (h : UHdr) (status : BitVec 8)
  | microcodeWatchdog (p : PlazaIx)
  | ucodeParityError (p : PlazaIx)
  | capCfg (op : OpId)
  | trigLoad (op : OpId)
  | fqRecordWrite (p : PlazaIx)
  | mqRecordWrite (ring : RingId)
  | stepOpen (op : OpId)
  | stepClose (op : OpId)
  | stepCloseEvaluate (op : OpId)
  | recMeas (op : OpId)
  | maskArm (op : OpId)
  | pmuMeas (op : OpId)
  | pmuMeasDone (op : OpId) (codes : List PmuReading)
  | acq (op : OpId)
  | acqTrigger (op : OpId) (codes : List Int)
  | acqEnd (op : OpId) (codes : List Int) (why : AcqEndWhy)
  | recRead (op : OpId)
  | recFree (op : OpId)
  | tmuMeas (op : OpId)
  | tmuGateRise (b : Fin 4)
  | tmuStampReference (n : Fin 64)
  | tmuStopEdge (n : Fin 64) (t : BitVec 48)
  | tmuMeasDone (n : Fin 64)
  | meaEngine (op : OpId) (m : Meet)
  | awgEngine (op : OpId) (m : Meet)
  | awgCfg (op : OpId)
  | awgWrite (op : OpId)
  | awgSeq (op : OpId)
  | awgRun (op : OpId)
  | awgTrigger (a : PlazaIx)
  | awgPlayEnd (a : PlazaIx)
  | awgDecisionPoint (a : PlazaIx)
  | awgUnderrun (a : PlazaIx) (clocks : Nat)
  | awgJump (op : OpId)
  | reEngine (op : OpId) (m : Meet)
  | reWrite (op : OpId)
  | reLayer (op : OpId)
  | reMap (op : OpId)
  | reRun (op : OpId)
  | reHalt (op : OpId)
  | reCommitWrite (k : Fin 4)
  | verticalBlanking (k : Fin 4)
  | frameComplete (k : Fin 4)
  | dpsEngine (op : OpId) (m : Meet)
  | dpsCfg (op : OpId)
  | dpsRampEnd (n : Fin 32)
  | dpsMeas (op : OpId)
  | senseLost (n : Fin 32)
  | monCfg (op : OpId)
  | monCheck (op : OpId)
  | windowMonitorTrip (n : Fin 32) (vout : Int) (iout : Int)
  | blankEnd (n : Fin 32)
  | offWatchCrossing (n : Fin 32)
  | budgetSample (mw : Nat)
  | psupCfg (op : OpId)
  | psupTrip (c : Fin 1024)
  | laneSourceEvent (src : BitVec 8)
  | plzEn (p : PlazaIx) (m : Meet)
  | plzDis (p : PlazaIx) (m : Meet)
  | seqSync (p : PlazaIx)
  | taskSeqJump (p : PlazaIx)
  | measTrig (p : PlazaIx)
  | tmuArm (p : PlazaIx)
  | awgStart (a : PlazaIx)
  | taskAwgJump (a : PlazaIx)
  | dpsEn (n : Fin 32) (m : Meet)
  | dpsDis (n : Fin 32) (m : Meet)
  | dpsBlank (n : Fin 32)
  | reStart (k : Fin 4)
  | cmArmOut
  | cmFireOut
  | cmHaltOut
  | avOut (line : Fin 8)
  | wake
  | host (lane : Fin 64)
  | andGate (lane : Fin 64)
  | laneCfg (op : OpId)
  | laneFire (op : OpId)
  | laneAck (op : OpId)
  | lanCfgWrite (n : Fin 64) (w : Word)
  | lanFireWrite (lanes : BitVec 64)
  | lanAckWrite (lanes : BitVec 64)
  | cmCtlArm (op : Option OpId)
  | cmCtlDisarm (op : Option OpId)
  | cmCtlFire (op : Option OpId)
  | cmCtlHalt (op : Option OpId)
  | cmPulseEnd (halt : Bool)
  | cmArmDetect
  | cmFireDetect (armLow : Bool)
  | cmHaltDetect
  | autodisarm
  | avTrain (op : Option OpId) (res : AvTrainRes)
  | avTrainTimeout
  | avSend (op : OpId)
  | avFrameReceive (line : Fin 8) (frame : BitVec 40)
  | avPulseReceive (line : Fin 8)
  | avEffect (line : Fin 8)
  | avLinkLost
  | avCfgEnClear
  | calRun (op : OpId)
  | calRunDone (op : OpId) (res : CalRes)
  | calLoad (op : OpId)
  | calRead (op : OpId)
  | parkWrite (op : OpId)
  | thermalSample (readings : List Int)
  | thermalTripClear (d : Fin 10)
  | thmLimWrite (c : Fin 3) (w : Word)
  | pmEngine (op : OpId) (m : Meet)
  | pmXfer (op : OpId)
  | pmXferWaitTimeout
  | pmInfo (op : OpId)
  | flashViewRead (addr : BitVec 28) (v : ViewAccess)
  | lineFillDone
  | flashViewReadTimeout
  | psFrameStart
  | psFrameEnd (nbits : Nat) (data : Nat)
  | psNop
  | psRead (addr : BitVec 16)
  | psWrite (addr : BitVec 16) (data : Word)
  | psWake
  | psFrameAbandon
  | psMbTomcWrite (w : Word)
  | attest (op : OpId)
  | idRead (op : OpId)
  | floorCommit (op : OpId)
  | keyRevoke (op : OpId)
  | fwWatchdogExpiry
  | firmwareRestart (watchdog : Bool)
  | selfResetWrite (w : Word)
  | chipLevelSelfReset (cause : SelfCause)
  | internalConsistencyFailure
  | faultReport (src : BitVec 8)
  | stormWindowClose
  | eqRecordWrite (ctx : CtxId)
  | diagView (op : OpId)
  | regDump (op : OpId)
  | snapshotLoRead (r : Requester) (pair : SnapPair)
  | snapshotHiRead (r : Requester) (pair : SnapPair)
  | peakRead (r : PeakReg)
  | registerWrite (off : BitVec 18) (bytes : List Byte)
  | awgWriteDone (op : OpId)
  | reWriteDone (op : OpId)
  | pmXferDone (res : PmXferRes)
  | monCheckDone (op : OpId) (res : List MonCheckRes)
  | dpsMeasDone (op : OpId) (codes : List Int) (limited : Bool)
  | recReadDone (op : OpId)
  | avFrameSent (line : Fin 8)
  | dpsDropout (n : Fin 32)
  | dpsDropoutEnd (n : Fin 32)
  | dpsDischarged (n : Fin 32)
  deriving DecidableEq, Repr

end Sys2Proof
end

