-- ==== Sys2Proof/Decode.lean ====
section
/-! DEFINITION. No row of the opcode table gives bits: a command reaches the block as an access or an
event, never as an instruction word. -/

namespace Sys2Proof

/-- The command a word spells: none, for every word. -/
def decodeTableWord (_nbits _w : Nat) : Option Instr := none

end Sys2Proof
end

