-- ==== Sys2Proof/Config.lean ====
section
/-! DEFINITION. What the spec leaves open: free values, the cryptographic functions it takes from
outside, and the contents of the eFuses. Nothing here has a body, so no proof can see a value. -/

namespace Sys2Proof.Config

/-- A value the spec leaves open, chosen by the state's counter (notes/assumptions/7.md). -/
opaque freeValue (w : Nat) : Nat → BitVec w

/-- SHAKE256 with an n-byte output; byte i of the output is bits 8i + 7 to 8i (R212, R416). -/
opaque shake256 (n : Nat) : List Byte → BitVec (8 * n)

/-- Pure ML-DSA-65 verification with an empty context: public key, message, signature (R212). -/
opaque mlDsaVerify : List Byte → List Byte → List Byte → Bool

/-- ML-DSA.KeyGen_internal from a seed: the public key, 1,952 bytes (R422). -/
opaque mlDsaPublic : List Byte → BitVec (8 * 1952)

/-- Pure ML-DSA-65 signature by the key of a seed over a message, 3,309 bytes; the last operand
picks among the signatures a randomised signer may give (R423). -/
opaque mlDsaSign : List Byte → List Byte → Nat → BitVec (8 * 3309)

/-- AES-256-GCM under the microcode key of the eFuses: nonce, associated data, ciphertext, tag; none
where the tag does not verify (R212, R419). -/
opaque aesGcmOpen : List Byte → List Byte → List Byte → List Byte → Option (List Byte)

/-- The 16-byte UID (R421, R422). -/
opaque uid : BitVec 128
/-- The 256-bit hash in key slot s (R419). -/
opaque keyHash : Fin 4 → BitVec 256
/-- The 256-bit device secret (R422). -/
opaque deviceSecret : BitVec 256
/-- The factory endorsement, 3,309 bytes (R422). -/
opaque endorsement : BitVec (8 * 3309)
/-- The slot of the key that gave the endorsement (R422). -/
opaque endorseSlot : Fin 4

/-- A boot flash is fitted on select code 0 of port M (R455, Table ELE-7; notes/assumptions/257.md). -/
opaque flashFitted : Bool

/-- What the full scale of an AWG's offset DAC has in uV beyond the 4 V that Table AWG-1 lets OFS reach; Table
CAL-6 uses that full scale and no table gives it. -/
opaque awgOffsetFs : Nat

end Sys2Proof.Config
end

