-- ==== Sys2Proof/Machine/State.lean ====
section
/-! DEFINITION. The state of one Phoxel W1024: every register, buffer, table and mode the spec
gives it, as plain data, and the queue of commands that wait. Reset values are those of the
register tables; a value the spec does not give is named in notes/assumptions/8.md. -/

namespace Sys2Proof.Machine

/-- Sparse bytes: addresses strictly rising, no entry equal to what an unlisted address reads as. -/
abbrev Mem := List Host.Cell

/-! ### The block state machine (R40 to R47) -/

/-- STATE[2:0] (R40). -/
inductive EngState where
  | off | starting | on | stopping | fault | pendingOn
  deriving DecidableEq, Repr

/-- The fields every switchable engine has (Tables ARC-7 and ARC-9), and the descriptors that wait
on it (R46). -/
structure EngCore where
  st          : EngState := .off
  faultCode   : BitVec 8 := 0
  reqRejected : Bool := false
  absorbed    : Bool := false
  timedOut    : Bool := false
  /-- The one cycle in which STATE reads OFF while a held enable is about to start (R42). -/
  offCycle    : Bool := false
  /-- Enabling descriptors of the start in force. -/
  startOps    : List OpId := []
  /-- Enabling descriptors of the held enable. -/
  heldOps     : List OpId := []
  /-- Disabling descriptors that wait for OFF. -/
  stopOps     : List OpId := []
  deriving DecidableEq, Repr

/-! ### Host link (02_host_rings) -/

/-- A completion not yet written (Table HST-6): status, result words and its TIME. -/
structure Completion where
  status : BitVec 8
  r4     : Word := 0
  r5     : Word := 0
  r6     : Word := 0
  r7     : Word := 0
  time   : BitVec 64 := 0
  deriving DecidableEq, Repr

/-- Where an accepted operation stands (R70 to R73, R99). -/
inductive OpPhase where
  | waiting | dispatched | running | completed (c : Completion)
  deriving DecidableEq, Repr

/-- An entry of the operation table (R99): the descriptor or chain in force and its progress. -/
structure Op where
  id     : OpId
  ring   : RingId
  ctx    : CtxId
  /-- The CQ its completion goes to: CQRING of its SQ (R85). -/
  cq     : RingId := 0
  /-- The descriptors still to run, sixteen words each; the head is in force. -/
  descs  : List (List Word)
  /-- The first descriptor of the chain (its TAG, FENCE, PRIORITY, TIMEOUT count, R70). -/
  first  : List Word
  /-- IRQ of the last descriptor (R70). -/
  irq    : Bool := false
  phase  : OpPhase := .waiting
  /-- Dispatch order (R71); 0 before dispatch. -/
  seq    : Nat := 0
  /-- Plazas an operation has already changed (R143), or its resources. -/
  mask   : BitVec 16 := 0
  /-- Counts an operation keeps: aborted operations (R83), records written (R240), slots. -/
  count  : Nat := 0
  /-- The record slot, sample count or converter an operation uses. -/
  aux    : Nat := 0
  /-- The MQs bound at dispatch to the Plazas it may write to (R241). -/
  mqs    : List (Fin 16 × RingId) := []
  /-- The completion to queue once its MQ records are written (R240). -/
  after  : Option Completion := none
  /-- Its entry in the operation table, 0 to 8,191 (R99, Table MAP-14). -/
  slot   : Nat := 0
  deriving DecidableEq, Repr

/-- Ring types (Table HST-12). -/
inductive RingTy where
  | sq | cq | fq | mq | eq
  deriving DecidableEq, Repr

/-- An attached ring: the copy of its ring table entry (R87) and its indices (R88 to R98). -/
structure Ring where
  num     : RingId
  ctx     : CtxId
  ty      : RingTy
  log2    : Nat
  base    : Nat
  cqring  : RingId := 0
  intEn   : Bool := false
  vector  : Nat := 0
  itime   : Nat := 0
  icnt    : Nat := 0
  /-- SQ: the host's tail. Others: the W1024's write index. -/
  tail    : Nat := 0
  /-- SQ: the W1024's fetch index. Others: the host's released head. -/
  head    : Nat := 0
  /-- PHASE of the next entry written (R91). -/
  phase   : Bool := true
  /-- Entries that call for an interrupt and are not yet reported (R98). -/
  intCount : Nat := 0
  /-- SQ stopped by a fetch error (R96). -/
  stopped : Bool := false
  /-- Reissues of the fetch read in progress (R96). -/
  retries : Nat := 0
  /-- SQ: a RING_DETACH waits for its fetched descriptors (R89). -/
  detach  : Option OpId := none
  /-- SQ: the chain whose last descriptor has not been fetched, and its descriptors so far (R70). -/
  chain   : Option (OpId × Nat) := none
  deriving DecidableEq, Repr

/-- A claimable resource (R81). -/
inductive Res where
  | plaza (p : Fin 16) | dps (n : Fin 32) | tmu (n : Fin 64) | re (k : Fin 4) | lane (n : Fin 64)
  | portM
  deriving DecidableEq, Repr

/-- What a context is going through (R83). -/
inductive CtxPhase where
  | normal | aborting (op : Option OpId) | closing (op : Option OpId) | closingEngines (op : Option OpId)
  deriving DecidableEq, Repr

/-- An open context (R76 to R84). -/
structure Ctx where
  num     : CtxId
  quota   : Nat := 0
  phase   : CtxPhase := .normal
  /-- Operations aborted by the CTX_ABORT or CTX_CLOSE in progress. -/
  aborted : Nat := 0
  /-- What it gives back once the engines among it are OFF (R59, R83 step 5). -/
  held    : List Res := []
  deriving DecidableEq, Repr

/-- Host-interface registers (Tables HST-3 to HST-21). -/
structure Hif where
  offerF1     : Bool := false
  offerF2     : Bool := false
  agreedF1    : Bool := false
  agreedF2    : Bool := false
  rtLo        : BitVec 20 := 0
  rtHi        : Word := 0
  adminEn     : Bool := false
  adminOn     : Bool := false
  rtBad       : Bool := false
  fmtNone     : Bool := false
  dbFormat    : Bool := false
  dbOverrun   : Bool := false
  dbClosed    : Bool := false
  dbForeign   : Bool := false
  lastBadPage : BitVec 12 := 0
  lastBadRing : BitVec 15 := 0
  optPeak     : Nat := 0
  qwait       : BitVec 16 := 0x2710
  retries     : BitVec 3 := 3
  fetchTo     : BitVec 12 := 0x032
  deriving DecidableEq, Repr

/-- One MSI-X table entry that is not in its reset form, and its pending bit (R58). -/
structure MsixEntry where
  vector  : Nat
  addrLo  : Word := 0
  addrHi  : Word := 0
  data    : Word := 0
  masked  : Bool := true
  pending : Bool := false
  deriving DecidableEq, Repr

/-- An EQ record (R429): CODE, INDEX, TIME, words 4 to 7. -/
structure EqRec where
  code  : BitVec 16
  index : BitVec 16
  time  : BitVec 64
  w4    : Word := 0
  w5    : Word := 0
  w6    : Word := 0
  w7    : Word := 0
  /-- Raised in DEEP SLEEP: kept in the Lichen domain until it is written (R330, R346). -/
  lich  : Bool := false
  deriving DecidableEq, Repr

/-- The pending entries of one context's EQ (R430), and the records lost since the last EQ_LOST. -/
structure EqPend where
  ctx  : CtxId
  recs : List EqRec := []
  lost : Nat := 0
  deriving DecidableEq, Repr

/-- A report to the fault aggregator (R427). -/
structure Report where
  src   : BitVec 8
  code  : BitVec 8
  stamp : BitVec 64
  /-- What a MASS_FAIL report carries: the cycle of the latest of the first fails, and the number of sites
  (R242). -/
  cycle : BitVec 48 := 0
  sites : Nat := 0
  deriving DecidableEq, Repr

/-- An open storm window (R428). -/
structure Window where
  bitmap : BitVec 256 := 0
  events : Nat := 0
  first  : Report
  merged : Bool := false
  /-- The window's time is up but no pending entry was free (R430). -/
  held   : Bool := false
  opened : BitVec 64
  deriving DecidableEq, Repr

/-- The fault aggregator (Tables BOOT-16 and BOOT-17). -/
structure Fag where
  windowUs : BitVec 16 := 0x000A
  fcode    : BitVec 8 := 0
  source   : BitVec 8 := 0
  merged   : Bool := false
  window   : Option Window := none
  map      : BitVec 256 := 0
  /-- Reports raised and not yet arrived (R427, R428). -/
  inFlight : List Report := []
  eqLost   : Nat := 0
  deriving DecidableEq, Repr

/-! ### Global, power and boot (01, 11, 15, 16) -/

/-- The power states of Table ARC-5; `deepReq` is DEEP SLEEP requested and awaiting L2 or L3. -/
inductive PwrState where
  | active | idle | standby | deepReq | deepSleep
  deriving DecidableEq, Repr

/-- One requester's held HI word of a pair (R437). -/
structure Snap where
  who  : Requester
  pair : SnapPair
  hi   : Word
  deriving DecidableEq, Repr

/-- Global registers (Tables MAP-2 to MAP-9, ARC-6) and the lines beside them. -/
structure Glb where
  chipid      : BitVec 6 := 0
  psChain     : Bool := false
  refsel      : Bool := false
  lock        : Bool := false
  lockLost    : Bool := false
  pwr         : PwrState := .active
  busy        : Bool := false
  refused     : Bool := false
  req         : BitVec 2 := 0
  heldReq     : Option (BitVec 2) := none
  /-- The state the change in progress leads to. -/
  target      : PwrState := .active
  fwVer       : Word := 0
  errLast     : BitVec 16 := 0
  errUnmapped : Bool := false
  errPartial  : Bool := false
  scratch     : Word := 0
  /-- Power-on reset in force (R413). -/
  por         : Bool := true
  /-- PERST_N asserted (R415). -/
  perst       : Bool := false
  /-- VIN between its thresholds (R309, R310). -/
  vinGood     : Bool := false
  /-- The PCIe link is in L2 or L3 (R37). -/
  linkL23     : Bool := false
  /-- This W1024 drives WAKE_N low (R38, R449). -/
  wakeNLow    : Bool := false
  snaps       : List Snap := []
  diagView    : BitVec 4 := 0
  diagPlaza   : BitVec 4 := 0
  deriving DecidableEq, Repr

/-- PWR_EVT (Table PWR-20). -/
structure PwrEvt where
  psupTrip   : Bool := false
  extV       : Bool := false
  railFault  : Bool := false
  vinOc      : Bool := false
  budgetTrip : Bool := false
  budgetWarn : Bool := false
  vinOvSeen  : Bool := false
  brownout   : Bool := false
  deriving DecidableEq, Repr

/-- Input power, rails and the DUT power budget (R309 to R314, R334). -/
structure Pwr where
  /-- Rails at 95 % of their value; index: VLICH VIO VCORE VSRAM VDD1 VDD2 VDDQ, VPED n at 7 + n,
  VPEP n at 15 + n, VPEN n at 23 + n (Table PWR-2). -/
  railUp     : Vector Bool 31 := Vector.replicate 31 false
  /-- Rails started and not yet good (R313). -/
  starting   : List Rail := []
  /-- The sequence stopped at a rail that failed (R314). -/
  seqStopped : Bool := false
  vin        : BitVec 16 := 0
  pMw        : BitVec 16 := 0
  peakMw     : BitVec 16 := 0
  limitMw    : BitVec 16 := 0x7D00
  /-- The last 100 samples of 10 us, newest first (R334). -/
  samples    : List Nat := []
  /-- A POWER_BUDGET_WARN may be raised (R334). -/
  warnArmed  : Bool := true
  evt        : PwrEvt := {}
  deriving DecidableEq, Repr

/-- RST_CAUSE (Table BOOT-13). -/
structure RstCause where
  restarts  : Nat := 0
  selfHost  : Bool := false
  selfRail  : Bool := false
  selfWdog  : Bool := false
  fwRestart : Bool := false
  wake      : Bool := false
  flr       : Bool := false
  perst     : Bool := false
  por       : Bool := true
  deriving DecidableEq, Repr

/-- STAGE[2:0] (Table BOOT-12). -/
inductive Stage where
  | reset | rom | fwLoad | fwInit | running | recovery | restarting
  deriving DecidableEq, Repr

/-- Boot, firmware and security (15). -/
structure Boot where
  stage      : Stage := .reset
  failP      : BitVec 4 := 0
  failS      : BitVec 4 := 0
  manifest   : BitVec 2 := 0
  keyslot    : BitVec 2 := 0
  /-- The manifest whose firmware runs or is about to (1 primary, 2 secondary, 0 none). -/
  trying     : Nat := 0
  /-- The bytes of the running manifest (Table BOOT-3). -/
  runMan     : List Byte := []
  fwWdogMs   : BitVec 16 := 0x0064
  /-- CCLK tick of the last firmware restart (R424). -/
  restartAt  : Option (BitVec 64) := none
  /-- Watchdog expired or a control-core read failed; a firmware restart follows (R424). -/
  restartDue : Option Bool := none
  rst        : RstCause := {}
  fwFloor    : Nat := 0
  patchFloor : Nat := 0
  revoked    : Vector Bool 4 := Vector.replicate 4 false
  deriving DecidableEq, Repr

/-- The microcode patch (06): Tables UCS-7 to UCS-10 and the patch RAM and map, equal in all Plazas. -/
structure Patch where
  /-- PATCH_STATE: 0 NONE, 1 LOADING, 2 APPLIED, 3 FAILED. -/
  st       : BitVec 3 := 1
  failCode : BitVec 4 := 0
  ver      : Word := 0
  ram      : List Word := []
  /-- The parity bit of each patch RAM word, written by the load (R207). -/
  par      : List Bool := []
  pageMap  : List Byte := []
  digest   : List Byte := []
  limit    : BitVec 7 := 0x40
  deriving DecidableEq, Repr

/-! ### Calibration sets (13) -/

/-- The calibration kinds (Table CAL-2) as names of sets. -/
inductive CalKey where
  | chDc (p : Fin 16) | deskew (p : Fin 16) (band : Fin 8) | dig (p : Fin 16) | awg (p : Fin 16)
  | dps (n : Fin 32) | mon (n : Fin 8)
  deriving DecidableEq, Repr

/-- A calibration set that is not its reset set (R367 to R370). -/
structure CalSet where
  key     : CalKey
  loaded  : Bool
  count   : Nat
  wall    : BitVec 64
  tick    : BitVec 64
  temp    : Word
  refin   : Word
  spans   : BitVec 15
  /-- NENT entries: GERR and O, or the words of Tables CAL-3 and TIM-7. -/
  entries : List (Word × Word)
  deriving DecidableEq, Repr

/-! ### Pins and timing (03, 04) -/

/-- One column entry of a level set, as requested (Table PIN-5): uV and nA. -/
structure LvlCol where
  vih     : Int := 0
  vil     : Int := 0
  voh     : Int := 0
  vol     : Int := 0
  vt      : Int := 0
  ioh     : Int := 0
  iol     : Int := 0
  clh     : Int := 0
  cll     : Int := 0
  clampEn : Bool := false
  loadEn  : Bool := false
  deriving DecidableEq, Repr

/-- Channel modes (Table PIN-7). -/
inductive ChMode where
  | off | pe | pmuFv | pmuFi | peMon
  deriving DecidableEq, Repr

/-- Judged values (Table CAP-1). -/
inductive JVal where
  | l | h | m | t
  deriving DecidableEq, Repr

/-- One pin channel (R101 to R124): configuration, switches, driver, codes. -/
structure Chan where
  mode    : ChMode := .off
  range   : Nat := 0
  force   : Int := 0
  vcHi    : Int := 0
  vcLo    : Int := 0
  /-- Size of the gang this channel leads (0: none; 2, 4 or 8). -/
  gang    : Nat := 0
  /-- The leader of the gang this channel is a member of (R122), as an index in the Plaza. -/
  leader  : Option (Fin 64) := none
  sDrv    : Bool := false
  sPmu    : Bool := false
  sSns    : Bool := false
  sSt     : Bool := false
  /-- Codes of VIH VIL VOH VOL VT IOH IOL CLH CLL and the PMU force-voltage and force-current DACs. -/
  codes   : Vector (BitVec 16) 11 := Vector.replicate 11 0
  /-- Codes of VIH to CLL for each level set, as last computed (R109). -/
  lvl     : Vector (Vector (BitVec 16) 9) 8 := Vector.replicate 8 (Vector.replicate 9 0)
  /-- The corrections of VOH and VOL with which each level set was last computed (R109, R372). -/
  lvlGo   : Vector (Vector (Int × Int) 2) 8 := Vector.replicate 8 (Vector.replicate 2 (0, 0))
  /-- Those of the VOH and VOL codes in force. -/
  cmpGo   : Vector (Int × Int) 2 := Vector.replicate 2 (0, 0)
  /-- The codes that a self-test in progress puts back at its end (step 7 of Table PIN-13). -/
  stSave  : Option (Vector (BitVec 16) 11) := none
  drvOn   : Bool := false
  /-- It is parked at its park code through the driver (R124). -/
  parked  : Bool := false
  /-- The level now driven while the driver is on: VIH (true) or VIL. -/
  drvBit  : Bool := false
  /-- The last data bit since the Plaza reached ON (Table SEQ-2, DK). -/
  lastBit : Option Bool := none
  /-- HIZ whatever the park mode (R123, R335). -/
  hiz     : Bool := false
  loadOn  : Bool := false
  clampOn : Bool := false
  /-- CV value of the site column (R159). -/
  cv      : Option JVal := none
  /-- The last drive transition and the last window closing, in ps of the run (R139). -/
  lastTr  : Option Int := none
  winEnd  : Option Int := none
  /-- The effective times at which the driver was last turned on and off, in ps of the run (R103, R146). -/
  onAt    : Option Int := none
  offAt   : Option Int := none
  deriving DecidableEq, Repr

/-- One column entry of a timing set (Table TIM-5), in ps. -/
structure TCol where
  don  : Nat := 0
  dat  : Nat := 0
  ret  : Nat := 0
  doff : Nat := 0
  sopn : Nat := 500000
  scls : Nat := 0
  win  : Bool := false
  dfmt : Nat := 0
  deriving DecidableEq, Repr

/-- A timing set (R140), with the defaults of R141. -/
structure TSet where
  period : Nat := 1000000
  ddm    : Bool := false
  cols   : Vector TCol 64 := Vector.replicate 64 {}
  deriving DecidableEq, Repr

/-- One channel's deskew (Table TIM-7), ps. -/
structure Dsk where
  r : Int := 0
  f : Int := 0
  z : Int := 0
  s : Int := 0
  deriving DecidableEq, Repr

/-- A load that waits for a quiet point (R143, R145, R148, R377). -/
inductive Staged where
  | ts (i : Fin 64) (set : TSet) (op : OpId)
  | dsk (band : Fin 8) (tab : Vector Dsk 64) (op : OpId) (hdr : Option CalSet)
  deriving DecidableEq, Repr

/-- A Plaza's pin registers (Tables PIN-15 to PIN-17). -/
structure Pin where
  drvSpan      : BitVec 3 := 5
  cmpSpan      : BitVec 3 := 5
  vtSpan       : BitVec 3 := 5
  clampSpan    : BitVec 3 := 5
  fvSpan       : BitVec 3 := 5
  settle       : BitVec 16 := 0x0320
  lsCur        : Fin 8 := 0
  ovcCh        : BitVec 6 := 0
  selftest     : Option OpId := none
  settling     : Bool := false
  spanConflict : Bool := false
  ovc          : Bool := false
  levels       : Vector (Vector LvlCol 64) 8 := Vector.replicate 8 (Vector.replicate 64 {})
  deriving DecidableEq, Repr

/-- A Plaza's timing (Tables TIM-12 to TIM-14, R140 to R152). -/
structure Tim where
  ts       : Vector TSet 64 := Vector.replicate 64 {}
  valid    : BitVec 64 := 0
  staged   : List Staged := []
  dsk      : Vector (Vector Dsk 64) 8 := Vector.replicate 8 (Vector.replicate 64 {})
  applied  : Fin 8 := 0
  forceEn  : Bool := false
  band     : Fin 8 := 0
  stale    : Bool := false
  edgeClip : Bool := false
  edgeFree : Nat := 0
  deriving DecidableEq, Repr

/-! ### Sequencer (05, 06) -/

/-- The common sequencer configuration PLZ_CFG (Table ARC-3). -/
structure PlzCfg where
  width  : BitVec 3 := 4
  linked : Bool := false
  leader : Fin 16 := 0
  deriving DecidableEq, Repr

/-- One of the 64 slots of a Plaza (R162). -/
structure Slot where
  /-- The segment resident here. -/
  seg     : Option Nat := none
  /-- The segment being filled in and its operation (R182). -/
  filling : Option (Nat × OpId) := none
  data    : Mem := []
  deriving DecidableEq, Repr

/-- In-stream actions (R169). -/
inductive Act where
  | evt (tag : BitVec 8) | mark (mid : BitVec 16) | step (set : Bool) (n : BitVec 15) | clrf
  deriving DecidableEq, Repr

/-- What an entry of the stream FIFO plays: a vector, or the repetitions of a RPT. -/
structure Entry where
  id    : Nat
  vaddr : Nat
  reps  : Nat
  acts  : List Act := []
  /-- It plays the hold vector: a shadow fill (R175). -/
  hold  : Bool := false
  /-- A RPT issued it: each repetition is a segment run of its own (R188). -/
  rpt   : Bool := false
  deriving DecidableEq, Repr

/-- A pushed loop level (R170). -/
structure LoopLvl where
  start : BitVec 16
  endPc : BitVec 16
  count : Nat
  segs  : List Nat
  /-- Call depth at which it was pushed (R171). -/
  depth : Nat
  deriving DecidableEq, Repr

/-- A pushed call level (R170). -/
structure CallLvl where
  ret   : BitVec 16
  depth : Nat
  deriving DecidableEq, Repr

/-- Issuing still to be done by a VEC, RPT or ISS (R184). -/
structure Issue where
  vaddr : Nat
  count : Nat
  /-- One entry of count repeats (RPT) or count consecutive addresses (VEC). -/
  rpt   : Bool
  /-- The instruction, not a microword, issues: the program counter advances at its end. -/
  instr : Bool
  deriving DecidableEq, Repr

/-- What the sequencer keeps of the last vector played of what it issued: its entry, the sites
that failed it, the match-fail flags as they stood with it, and the cycle start that followed. -/
structure Played where
  id    : Nat
  fails : BitVec 256 := 0
  flags : BitVec 256 := 0
  t1    : Nat := 0
  deriving DecidableEq, Repr

/-- What one strobe sees of a channel that answers, times in ps from the run's start: the expectation, the closing of
its window with and without deskew, the detection widths, both comparators' outputs as it opens and their changes after
that (R137, R139, R219 to R222). -/
structure Seen where
  exp   : Nat
  win   : Bool
  b     : Int
  close : Nat
  dwH   : Nat
  dwL   : Nat
  h0    : Bool
  l0    : Bool
  hs    : List (Int × Bool) := []
  ls    : List (Int × Bool) := []
  deriving DecidableEq, Repr

/-- One Plaza's part of a vector that is to be judged. -/
structure LatePlz where
  plaza : Fin 16
  /-- STALE of the Plaza as the vector played (R151). -/
  stale : Bool
  /-- Its MRK counts; its markers. -/
  mrk   : Bool
  mids  : List (BitVec 16)
  sees  : Vector (Option Seen) 64
  deriving DecidableEq, Repr

/-- A vector that has played and is to be judged: its entry where it is one, the number of the repetition where that
is a WAITM's, the cycle start that followed it, whether a CLRF came before it, and what its records carry. -/
structure LateVec where
  id      : Option Nat
  rep     : Option Nat := none
  t1      : Nat
  clrf    : Bool
  strobed : Bool
  cap     : Bool
  cyc     : BitVec 48
  user    : BitVec 16
  tag     : Word
  parts   : List LatePlz
  deriving DecidableEq, Repr

/-- What a run's records wait for, in their order (R139): a vector with a window that is open yet, and behind it later
vectors and the gap record of a HOLD with each Plaza's STALE. -/
inductive Late where
  | vec (v : LateVec)
  | gap (first : BitVec 48) (len : Nat) (stales : List (Fin 16 × Bool))
  deriving DecidableEq, Repr

/-- A pending JMPM or MTCH test (R173, R174). -/
structure MatchTest where
  cond     : Nat
  target   : BitVec 16
  /-- The entry whose last repetition is vector m. -/
  entry    : Nat
  /-- m's outcome, once m has been played. -/
  m        : Option Played := none
  /-- Shadow vectors played. -/
  played   : Nat := 0
  micro    : Bool := false
  deriving DecidableEq, Repr

/-- A WAITM in progress (R176). -/
structure WaitM where
  id     : Nat
  cond   : Nat
  vaddr  : Nat
  /-- T = TMO + 1. -/
  limit  : Nat
  acts   : List Act := []
  played : Nat := 0
  /-- A repetition has decided: it satisfied the condition, or it was the T-th. -/
  hit    : Option Bool := none
  /-- Cycle start that followed the deciding repetition, ps, and repetitions of its shadow played (R173). -/
  t1     : Nat := 0
  shadow : Nat := 0
  micro  : Bool := false
  deriving DecidableEq, Repr

/-- A SYNC that waits (R177). -/
structure SyncW where
  id     : Nat
  src    : Nat
  line   : Nat
  vaddr  : Nat
  acts   : List Act := []
  played : Nat := 0
  /-- The event has arrived; the pattern goes on at the next boundary. -/
  ready  : Bool := false
  /-- Entry of the last vector issued before it (R174). -/
  prev   : Option Nat := none
  micro  : Bool := false
  deriving DecidableEq, Repr

/-- A pending jump request (R188, R189). -/
structure JumpReq where
  target : BitVec 16
  op     : Option OpId
  /-- It arrived after the decision point of the segment run in play. -/
  late   : Bool := false
  deriving DecidableEq, Repr

/-- RUN[2:0] (Table SEQ-13). -/
inductive RunPhase where
  | none | armed | running | hold | waiting
  deriving DecidableEq, Repr

/-- The pattern run of a leader or stand-alone Plaza (R192 to R194). -/
structure Run where
  phase    : RunPhase := .none
  op       : Option OpId := none
  arm      : Nat := 0
  siteEn   : BitVec 256 := 0
  pc       : BitVec 16 := 0
  loops    : List LoopLvl := []
  calls    : List CallLvl := []
  acts     : List Act := []
  fifo     : List Entry := []
  issue    : Option Issue := none
  nextId   : Nat := 0
  /-- Entry of the last vector issued in the run and not discarded since. -/
  lastIss  : Option Nat := none
  /-- The entry in play and its repetitions left. -/
  cur      : Option Entry := none
  test     : Option MatchTest := none
  /-- The last vector played of what was issued; its outcome is there once it is judged. -/
  lastM    : Option Played := none
  /-- What has played and is not judged yet, the oldest first. -/
  late     : List Late := []
  /-- The hold vector as it stood at the last entry to HOLD or fill (R197). -/
  holdRec  : BitVec 320 := 0
  /-- The path has just turned to a VEC or RPT on a resident segment: no cycle is lost (R178). -/
  straight : Bool := false
  /-- The start event has come; RUN_TIMING_ZERO may follow (R192). -/
  go       : Bool := false
  waitm    : Option WaitM := none
  sync     : Option SyncW := none
  jump     : Option JumpReq := none
  /-- Jumps that took effect and wait for their first vector (R189). -/
  jumped   : Option OpId := none
  cyc      : BitVec 64 := 0
  ps       : Nat := 0
  /-- Address of the last vector played (R188). -/
  lastAddr : Option Nat := none
  /-- That vector was a repetition of a RPT or a WAITM (R188). -/
  lastRpt  : Bool := false
  /-- The program ended; the status to give once the FIFO is played out. -/
  ending   : Option (BitVec 8) := none
  lastPc   : BitVec 16 := 0
  holdAt   : BitVec 48 := 0
  holdLen  : Nat := 0
  sdWrap   : Bool := false
  setMiss  : Bool := false
  short    : Bool := false
  edgeClip : Bool := false
  stale    : Bool := false
  underrun : Bool := false
  /-- The timing zero's order among runs (R236). -/
  zero     : Nat := 0
  /-- Tick of the timing zero. -/
  zeroAt   : BitVec 64 := 0
  deriving DecidableEq, Repr

/-- What a microword needs resident before it goes on (R180, R184, R203): the segment set at SPTR of length SLEN,
or an idle vector's segment. -/
inductive UNeed where
  | set (sptr slen : Nat) | idle (vaddr : Nat)
  deriving DecidableEq, Repr

/-- A Plaza's control store registers (R201, R209). -/
structure Uc where
  k     : Vector Word 8 := Vector.replicate 8 0
  z     : Bool := false
  n     : Bool := false
  m     : Bool := false
  t     : Bool := false
  e     : Bool := false
  uaddr : BitVec 12 := 0
  /-- Microwords of the instruction in progress that have run (R209). -/
  count : Nat := 0
  /-- LIMIT taken at the dispatch word (R210). -/
  limit : Nat := 64
  /-- An instruction is in progress at microword level. -/
  busy  : Bool := false
  /-- The header of a microword that waits under R203. -/
  wait  : Option UHdr := none
  /-- What the microword that stands next was found to lack. -/
  need  : Option UNeed := none
  /-- SCLK cycles that the microwords of the instruction in progress have taken (R201, R208). -/
  cycles : Nat := 0
  /-- Words of this Plaza's patch RAM that no longer agree with their parity bits (R207). -/
  upset : List Nat := []
  /-- Segments that an LCHK has locked and no STK has pushed yet. -/
  segs  : List Nat := []
  fltUaddr : BitVec 12 := 0
  fltPc    : BitVec 16 := 0
  deriving DecidableEq, Repr

/-- A Plaza's sequencer memories (R160 to R167) and PLZ_STAT flags. -/
structure Seq where
  imem     : List (BitVec 64) := []
  sset     : List Word := []
  slots    : Vector Slot 64 := Vector.replicate 64 {}
  /-- Fills dispatched and waiting for the Plaza's fill engine, oldest first. -/
  fillQ    : List (Fin 64 × OpId) := []
  site     : Vector Mem 16 := Vector.replicate 16 []
  sdPtr    : BitVec 15 := 0
  masks    : Vector (BitVec 64) 16 := Vector.replicate 16 0
  /-- The hold vector, 40 bytes little-endian: header in bits 63:0, code k at 64 + 4k; DZ everywhere. -/
  holdVec  : BitVec 320 := 0x2222222222222222222222222222222222222222222222222222222222222222_0000000000000000#320
  matchFail : Vector Bool 16 := Vector.replicate 16 false
  sdWrap   : Bool := false
  setMiss  : Bool := false
  short    : Bool := false
  underrun : Bool := false
  sjtgt    : BitVec 16 := 0
  deriving DecidableEq, Repr

/-! ### Capture and verdicts (07) -/

/-- CAP_CFG (Table CAP-3), with the reset set-up of R224. -/
structure CapCfg where
  fqEn      : Bool := false
  fq        : RingId := 0
  mqEn      : Bool := false
  mq        : RingId := 0
  cmode     : Nat := 1
  failLimit : Nat := 16
  mfSuppr   : Bool := false
  mfSites   : Nat := 0
  mfWindow  : Nat := 0
  pre       : Nat := 0
  post      : Nat := 1
  deriving DecidableEq, Repr

/-- TRIG_LOAD (Table CAP-7). -/
structure TrigCfg where
  enable  : Bool := false
  occur   : Nat := 0
  any     : Bool := false
  site    : Nat := 0
  window  : Bool := false
  event   : Bool := false
  pattern : BitVec 128 := 0
  deriving DecidableEq, Repr

/-- The account of one site in a run (R223). -/
structure Acct where
  fcount  : Nat := 0
  first   : Option (BitVec 48) := none
  colfail : BitVec 64 := 0
  /-- A FAIL record of the site was lost or cut (Table CAP-14, LOST). -/
  lost    : Bool := false
  deriving DecidableEq, Repr

/-- An FQ record before it is written (Tables CAP-4 and CAP-5). -/
structure FqRec where
  ring   : RingId
  typ    : BitVec 8
  seqNo  : BitVec 16
  all    : Bool := false
  site   : Nat
  stale  : Bool := false
  cycle  : BitVec 48
  user   : BitVec 16 := 0
  w4     : Word := 0
  w5     : Word := 0
  w6     : Word := 0
  w7     : Word := 0
  /-- Order of the timing zero of the run that wrote it (R192, Table CAP-14 LOST). -/
  zero   : Nat := 0
  deriving DecidableEq, Repr

/-- The pending loss of a record buffer (R228); `stale`: the STALE flag as its first cycle played. -/
structure Loss where
  first : BitVec 48
  stale : Bool := false
  last  : BitVec 48
  count : Nat
  deriving DecidableEq, Repr

/-- Judged values of one strobed vector kept for the pre-trigger window (R230). -/
structure Hist where
  cycle : BitVec 48
  tag   : Word
  user  : BitVec 16
  /-- It was captured when it was played. -/
  taken : Bool := false
  stale : Bool := false
  /-- Two bits per channel of the Plaza (Table CAP-5, VALUES coding). -/
  vals  : BitVec 128
  deriving DecidableEq, Repr

/-- A Plaza's capture and trigger state (07). -/
structure Cap where
  next      : CapCfg := {}
  cur       : CapCfg := {}
  acct      : Vector Acct 16 := Vector.replicate 16 {}
  buf       : List FqRec := []
  seqNo     : BitVec 16 := 0
  loss      : Option Loss := none
  /-- STALE as the first cycle of the HOLD in progress played (Table CAP-4). -/
  holdStale : Bool := false
  lostTotal : Nat := 0
  lostRun   : Nat := 0
  peak      : Nat := 0
  massFail  : Bool := false
  limitHit  : Bool := false
  trigFired : Bool := false
  lost      : Bool := false
  suppr     : Bool := false
  /-- A mass fail was detected in the run (R242). -/
  mfRun     : Bool := false
  trigNext  : TrigCfg := {}
  trig      : TrigCfg := {}
  matches_  : Nat := 0
  fired     : Bool := false
  winLeft   : Nat := 0
  hist      : List Hist := []
  deriving DecidableEq, Repr

/-- An MQ record before it is written: Table CAP-4 and its words 2 to 15. -/
structure MqRec where
  typ   : BitVec 8
  hi    : BitVec 16
  bit12 : Bool := false
  plaza : Fin 16
  site  : Nat
  stale : Bool := false
  /-- Words 2 to 15, missing ones 0. -/
  words : List Word
  deriving DecidableEq, Repr

/-- A record that waits for room in its MQ (R240). -/
structure MqPend where
  ring : RingId
  op   : OpId
  rec_ : MqRec
  deriving DecidableEq, Repr

/-- An entry of a limit table (Table CAP-13). -/
structure Limit where
  test : Nat
  kind : Nat
  loEn : Bool
  hiEn : Bool
  lo   : Int
  hi   : Int
  failHard : BitVec 8
  failSoft : BitVec 16
  deriving DecidableEq, Repr

/-- What a step keeps for one site (R236). -/
structure SiteStep where
  site    : Nat
  runs    : Nat := 0
  fcount  : Nat := 0
  /-- Order of the run's timing zero and the cycle of the first failing vector. -/
  first   : Option (Nat × BitVec 48) := none
  lost    : Bool := false
  aborted : Bool := false
  deriving DecidableEq, Repr

/-- An open test step (R235 to R239). -/
structure TStep where
  num      : BitVec 16
  ctx      : CtxId
  group    : Bool
  plazas   : BitVec 16
  /-- Runs with a timing-zero order at or above this one count (R236). -/
  since    : Nat
  limits   : List Limit
  passHard : BitVec 8
  passSoft : BitVec 16
  noHard   : BitVec 8
  noSoft   : BitVec 16
  sites    : List SiteStep
  /-- Values delivered: test, site, value (R237). -/
  values   : List (Nat × Nat × Int) := []
  /-- The STEP_CLOSE whose row has run; which one closes the step is found from the operation table (R238). -/
  closing  : Option OpId := none
  deriving DecidableEq, Repr

/-! ### Measurement (08) -/

/-- An armed mask (R234). -/
structure MaskArm where
  op    : OpId
  /-- The acquisition it is armed for: the digitizer's next. -/
  acq   : Option OpId := none
  stop  : Bool
  site  : Nat
  test  : BitVec 16
  bounds : List (Int × Int)
  deriving DecidableEq, Repr

/-- One stored sample (R248): its calibrated value in uV and whether it was over range. -/
structure Sample where
  uv  : Int
  ovr : Bool
  deriving DecidableEq, Repr

/-- An acquisition in progress (R257, R258). -/
structure Acq where
  op    : OpId
  madc  : Bool
  plaza : Fin 16
  chan  : Fin 1024
  range : Nat
  trig  : Nat
  mid   : BitVec 16
  ofs   : Int
  level : Int
  n     : Nat
  pre   : Nat
  dec   : Nat
  slot  : Nat
  /-- Trigger entry, once triggered. -/
  trigAt : Option Nat := none
  /-- A trigger event that has reached the converter and not yet been placed at a sample. -/
  trigged : Bool := false
  /-- Samples taken since the arm, and the conversions of the one that is not whole (R248). -/
  got    : List Sample := []
  part   : List Int := []
  t0     : BitVec 64 := 0
  deriving DecidableEq, Repr

/-- A stamp of a TMU record (R261, R262). -/
structure Stamp where
  t        : BitVec 48
  boundary : Bool
  missed   : Bool
  k        : Word
  deriving DecidableEq, Repr

/-- Entries of a record (R253). -/
inductive RecData where
  | samples (xs : List Sample) | stamps (xs : List Stamp)
  deriving DecidableEq, Repr

/-- A record of the record area (R253, Table MEA-5). -/
structure Rec where
  slot     : Nat
  gen      : Nat
  ctx      : CtxId
  kind     : Nat
  data     : RecData
  /-- Bytes reserved (R254). -/
  bytes    : Nat
  complete : Bool
  delta    : Nat := 0
  chan     : Nat := 0
  tmu      : Nat := 0
  trigIdx  : Option Nat := none
  partial_ : Bool := false
  stopped  : Bool := false
  t0       : BitVec 64 := 0
  /-- REC_READs in progress (Table MEA-12), and REC_FREEs that wait for them. -/
  readers  : List OpId := []
  freeing  : Option OpId := none
  deriving DecidableEq, Repr

/-- A digitizer (Table MEA-6). -/
structure Dg where
  eng  : EngCore := {}
  /-- Entries of its calibration set in force since its last start (R372). -/
  corr : List (Word × Word) := []
  mask : Option MaskArm := none
  deriving DecidableEq, Repr

/-- Arm state of a TMU measurement (R260). -/
inductive TmuArm where
  | waitArm | waitRef | measuring | done
  deriving DecidableEq, Repr

/-- A TMU measurement in progress (R259 to R265). -/
structure TmuMeas where
  op      : OpId
  arm     : TmuArm
  slot    : Nat
  k       : Nat := 0
  /-- DSK_S that the stamp reference carries: of the start channel, where a comparator set it. -/
  refDsk  : Int := 0
  stamps  : List Stamp := []
  missed  : Nat := 0
  outside : Nat := 0
  last    : Option Nat := none
  missedSince : Bool := false
  deriving DecidableEq, Repr

/-- A time-measurement unit. -/
structure Tmu where
  eng  : EngCore := {}
  meas : Option TmuMeas := none
  /-- Measurements dispatched and waiting their turn (Table MEA-12). -/
  queue : List OpId := []
  deriving DecidableEq, Repr

/-! ### Waveform (09) -/

/-- A wave segment (R274); length 0 is undefined. -/
structure WSeg where
  off     : Nat := 0
  len     : Nat := 0
  /-- AWG_WRITEs of it in progress (R275). -/
  writing : List OpId := []
  deriving DecidableEq, Repr

/-- A sequence entry (Table AWG-3). -/
structure SeqEnt where
  stop  : Bool
  evt   : Bool
  next  : Nat
  wseg  : Fin 256
  rep   : Nat
  ftw   : Word
  phase : BitVec 16
  deriving DecidableEq, Repr

/-- RUN[1:0] (Table AWG-12). -/
inductive AwgPhase where
  | none | armed | playing | holding
  deriving DecidableEq, Repr

/-- A jump request on an AWG (R282, R283). -/
structure AJump where
  halt   : Bool
  target : Nat
  op     : Option OpId
  /-- It arrived after the decision point of the play in progress. -/
  late   : Bool := false
  deriving DecidableEq, Repr

/-- The run of an AWG (R278 to R283). -/
structure ARun where
  phase   : AwgPhase := .none
  op      : Option OpId := none
  trig    : Nat := 0
  mid     : BitVec 16 := 0
  entry   : Nat := 0
  /-- Plays left of the current entry after the one in progress. -/
  left    : Nat := 0
  /-- The request committed for this play's end (R282). -/
  commit  : Option AJump := none
  /-- The one pending request (R283). -/
  pend    : Option AJump := none
  /-- The decision point of this play has passed. -/
  decided : Bool := false
  /-- DAC clocks from the first output sample to this play's start, its length, and the source
  position's fraction in 2^-32 samples (R277, R278). -/
  clocks  : Nat := 0
  frac    : Nat := 0
  jumped  : Bool := false
  preset  : Bool := false
  under   : Bool := false
  /-- Wave segment, offset and length of the play in progress (R275). -/
  play    : Option (Fin 256 × Nat × Nat) := none
  /-- Those of the play that the prefetch reads, once its segment is ready. -/
  pre     : Option (Fin 256 × Nat × Nat) := none
  /-- The trigger has come; the output starts at the next AWG_TRIGGER. -/
  fired   : Bool := false
  deriving DecidableEq, Repr

/-- An arbitrary waveform source. -/
structure Awg where
  eng    : EngCore := {}
  range  : Nat := 2
  ofs    : Int := 0
  wsegs  : Vector WSeg 256 := Vector.replicate 256 {}
  seq    : List SeqEnt := []
  run    : ARun := {}
  /-- AWG_RUNs dispatched and waiting their turn (R279). -/
  queue  : List OpId := []
  sAwg   : Bool := false
  /-- The code held, and the one that the DAC takes for it after gain and offset (R271). -/
  code   : BitVec 16 := 0x8000
  dac    : BitVec 16 := 0x8000
  /-- What the DAC puts out in the play in progress, sample by sample: each code, and the one that the DAC takes for it
  (R271). -/
  wave   : List (BitVec 16 × BitVec 16) := []
  /-- Entries of its calibration set in force since its last start (R372). -/
  corr   : List (Word × Word) := []
  /-- The DAC holds its park code (R272). -/
  parked : Bool := true
  preset : Bool := false
  under  : Bool := false
  jHalt  : Bool := false
  jTgt   : BitVec 10 := 0
  /-- A run has ended since it reached ON. -/
  ran    : Bool := false
  deriving DecidableEq, Repr

/-! ### Raster (10) -/

/-- A layer set-up (R294). -/
structure Layer where
  en     : Bool := false
  alpha  : BitVec 8 := 0
  offset : Nat := 0
  stride : Nat := 0
  width  : Nat := 0
  height : Nat := 0
  x      : Nat := 0
  y      : Nat := 0
  deriving DecidableEq, Repr

/-- A shadow or active set (Tables RAS-8 to RAS-11). -/
structure RSet where
  hact  : BitVec 14 := 1
  hfp   : BitVec 13 := 1
  hsync : BitVec 13 := 1
  hbp   : BitVec 13 := 1
  vact  : BitVec 14 := 1
  vfp   : BitVec 13 := 1
  vsync : BitVec 13 := 1
  vbp   : BitVec 13 := 1
  fmt   : Bool := false
  cpp   : BitVec 4 := 0
  bg    : BitVec 30 := 0
  layers : Vector Layer 4 := Vector.replicate 4 {}
  deriving DecidableEq, Repr

/-- RUN[1:0] (Table RAS-7). -/
inductive RePhase where
  | none | armed | running
  deriving DecidableEq, Repr

/-- The run of a raster engine (R303 to R305). -/
structure RRun where
  phase  : RePhase := .none
  op     : Option OpId := none
  trig   : Nat := 0
  fired  : Bool := false
  frames : Nat := 0
  done   : Nat := 0
  x      : Nat := 0
  y      : Nat := 0
  sub    : Nat := 0
  stalls : Nat := 0
  late   : Nat := 0
  stalled : Bool := false
  /-- RE_HALTs that wait (R305). -/
  halts  : List OpId := []
  /-- Vertical blanking has begun, or a frame has completed, and its command is to come. -/
  vblankDue : Bool := false
  frameDue  : Bool := false
  /-- Period of the stream's last counted cycle, ps (R298). -/
  period : Nat := 0
  /-- Layers whose word for the present pixel has not arrived (R298). -/
  lateL  : BitVec 4 := 0
  /-- The present pixel has not been composed yet. -/
  fresh  : Bool := false
  /-- Each layer's visible words of the present line, as they were fetched (R298). -/
  line   : Vector (List Byte) 4 := Vector.replicate 4 []
  /-- A commit has come since: nothing was fetched for the present line under the active set (R291, R298). -/
  unfetched : Bool := false
  /-- The leader of its stream as it armed (Table RAS-5). -/
  leader : Option (Fin 16) := none
  deriving DecidableEq, Repr

/-- A raster engine. -/
structure Re where
  eng    : EngCore := {}
  shadow : RSet := {}
  active : RSet := {}
  commit : Bool := false
  commitBad : Bool := false
  deferred  : Bool := false
  fetchLate : Bool := false
  covered   : Vector Bool 4 := Vector.replicate 4 false
  committed : Bool := false
  /-- Ranges being written by RE_WRITEs: operation, offset, length (R300). -/
  writes : List (OpId × Nat × Nat) := []
  run    : RRun := {}
  deriving DecidableEq, Repr

/-! ### DPS (11) -/

/-- A DPS set-up (Table PWR-5), with the values after reset (R323). -/
structure DpsCfg where
  vset  : Nat := 0
  isrc  : Nat := 100000000
  isnk  : Nat := 100000000
  slew  : Nat := 10000
  range : Nat := 5
  sense : Bool := false
  deriving DecidableEq, Repr

/-- A window monitor's set-up (Table PWR-7), with the values after reset (R331). -/
structure Mon where
  en       : Bool := false
  offWatch : Bool := false
  vEn      : Bool := false
  iEn      : Bool := false
  mode     : Nat := 0
  vhi      : Nat := 0
  vlo      : Nat := 0
  isrcT    : Nat := 0
  isnkT    : Nat := 0
  blank    : Nat := 100
  deriving DecidableEq, Repr

/-- The steps of a DPS's STARTING and STOPPING: discharge, ramp, and at the start the 10 us within tolerance
(R320, R321). -/
inductive DpsStage where
  | none | discharge | ramp | settle
  deriving DecidableEq, Repr

/-- A device power supply. -/
structure Dps where
  eng        : EngCore := {}
  cfg        : DpsCfg := {}
  /-- The set-up of the start in force. -/
  live       : DpsCfg := {}
  tripCause  : BitVec 4 := 0
  senseLost  : Bool := false
  dropout    : Bool := false
  /-- A BLANK count runs (R329). -/
  blankCount : Bool := false
  discharged : Bool := true
  tripped    : Bool := false
  /-- S_DPS closed. -/
  sDps       : Bool := false
  /-- The discharge sink acts (R319, R321). -/
  sink       : Bool := false
  /-- Where a start or a stop stands (R320, R321). -/
  stage      : DpsStage := .none
  /-- A ramp caused by a DPS_CFG is in progress. -/
  ramping    : Bool := false
  /-- It holds its park code (R325). -/
  parked     : Bool := false
  /-- It regulates at the package point after SENSE_LOST (R318). -/
  pkgSense   : Bool := false
  mon        : Mon := {}
  /-- Codes of the voltage DAC and the two limit DACs (R316). -/
  vcode      : BitVec 18 := 0
  srcCode    : BitVec 18 := 0
  snkCode    : BitVec 18 := 0
  /-- Entries of its calibration set in force since its last start (R372). -/
  corr       : List (Word × Word) := []
  deriving DecidableEq, Repr

/-! ### Lanes, Commons, Avenue (12) -/

/-- A Lane (Tables LAN-4 and LAN-5). -/
structure Lane where
  en       : Bool := false
  async    : Bool := false
  andG     : Bool := false
  limitEn  : Bool := false
  task     : BitVec 8 := 0
  src      : BitVec 8 := 0
  count    : Nat := 0
  payload  : BitVec 8 := 0
  cfgBad   : Bool := false
  latchG   : Bool := false
  latchS   : Bool := false
  latched  : BitVec 8 := 0
  ignored  : Bool := false
  coalesced : Bool := false
  runaway  : Bool := false
  /-- A LANE_EVENT of this Lane is not yet written (Table LAN-2, HOST). -/
  hostPend : Bool := false
  deriving DecidableEq, Repr

/-- A trigger on its way to a task (R341): task, Lane, payload. -/
structure Trigger where
  task    : BitVec 8
  lane    : Fin 64
  payload : BitVec 8
  deriving DecidableEq, Repr

/-- The Commons (Tables LAN-10 and LAN-11) and its lines. -/
structure Cm where
  haltMask    : BitVec 16 := 0
  pulse       : BitVec 8 := 0x14
  autodisarm  : Bool := true
  master      : Bool := false
  en          : Bool := false
  fires       : BitVec 16 := 0
  armRefused  : Bool := false
  fireUnarmed : Bool := false
  armDriven   : Bool := false
  fireDriven  : Bool := false
  haltDriven  : Bool := false
  /-- A fire was accepted and AUTODISARM waits 1 us (R350). -/
  autoDue     : Bool := false
  deriving DecidableEq, Repr

/-- The Avenue's states (Table LAN-14). -/
inductive AvState where
  | off | training | trained | lost
  deriving DecidableEq, Repr

/-- An event on an Avenue line that waits for its effect time (R356 to R358). -/
structure AvEv where
  line    : Fin 8
  payload : BitVec 8
  effect  : Nat
  op      : Option OpId := none
  deriving DecidableEq, Repr

/-- The Avenue (Tables LAN-13 to LAN-15). -/
structure Av where
  own        : BitVec 8 := 0
  startLine  : Fin 8 := 0
  master     : Bool := false
  en         : Bool := false
  committed  : Bool := false
  ver        : Nat := 0
  st         : AvState := .off
  late       : Bool := false
  crcErr     : Bool := false
  ownerClash : Bool := false
  latNs      : BitVec 16 := 0x01F4
  ofs        : Int := 0
  dly        : Int := 0
  trainMs    : BitVec 16 := 5
  /-- Avenue time = 625 ps a CCLK tick plus this offset, in ps (R354). -/
  timeOfs    : Int := 0
  trainOp    : Option OpId := none
  /-- Lines on which this W1024 is sending: the line and, in version 2, the frame (R356, R359). -/
  sending    : List (Fin 8 × Option (BitVec 40)) := []
  /-- AV_SENDs that wait for a frame in progress: line and operation. -/
  waiting    : List (Fin 8 × OpId) := []
  events     : List AvEv := []
  deriving DecidableEq, Repr

/-! ### Calibration and temperature (13) -/

/-- A procedure in progress: its set, its CAL_RUN, the least and the greatest temperature of its die since it
began, in 1/600 degC (none before a sample; Table CAL-7, check 7). -/
structure CalJob where
  key  : CalKey
  op   : OpId
  span : Option (Int × Int) := none
  deriving DecidableEq, Repr

/-- CAL_STAT (Table CAL-16) and the procedures in progress. -/
structure Cal where
  sets     : List CalSet := []
  running  : List CalJob := []
  rejected : Bool := false
  check    : BitVec 3 := 0
  kind     : BitVec 8 := 0
  index    : BitVec 6 := 0
  deriving DecidableEq, Repr

/-- A die's temperature state (R381 to R383). -/
structure Die where
  /-- T of its register: the die temperature in 0.01 degC; none before the first sample. -/
  temp     : Option Int := none
  rate     : Int := 0
  /-- Die temperatures of the last samples since its sampling began, in 1/600 degC, newest first (11 kept). -/
  hist     : List Int := []
  /-- Temperature history: those of the last 11 samples through every state (Table ARC-5). -/
  past     : List Int := []
  warn     : Bool := false
  throttle : Bool := false
  trip     : Bool := false
  /-- Target band of a PE die; none before its first sample (R149). -/
  band     : Option (Fin 8) := none
  deriving DecidableEq, Repr

/-- Limits of a die class (Table CAL-19), degC. -/
structure ThmLim where
  warn     : BitVec 8
  throttle : BitVec 8
  trip     : BitVec 8
  deriving DecidableEq, Repr

/-- Temperature (Tables CAL-17 to CAL-21). -/
structure Thm where
  /-- Last reading of each sensor, none when not available (0x8000). -/
  t      : Vector (Option Int) 32 := Vector.replicate 32 none
  /-- THM_BAD. -/
  bad    : Vector Bool 32 := Vector.replicate 32 false
  /-- The sensors that are excluded (R380). -/
  excl   : Vector Bool 32 := Vector.replicate 32 false
  dies   : Vector Die 10 := Vector.replicate 10 {}
  lims   : Vector ThmLim 3 := #v[⟨95, 100, 105⟩, ⟨95, 100, 105⟩, ⟨110, 120, 125⟩]
  limBad : Bool := false
  deriving DecidableEq, Repr

/-! ### Serial ports (14) -/

/-- A flash-view read that waits for a line fill (R396, R399). -/
structure ViewRead where
  addr : Nat
  core : Bool
  deriving DecidableEq, Repr

/-- A unit entry of a transaction (Table SER-3). -/
structure PmUnit where
  wait  : Bool
  kind  : Nat
  width : Nat
  len   : Nat
  count : Nat
  mask  : Word
  match_ : Word
  lsbf  : Bool := false
  deriving DecidableEq, Repr

/-- PM_IO[3:0] in one cycle of PM_SCK (R386): the wires that port M drives, and their levels; the others are
high-impedance. -/
structure PmIo where
  en  : BitVec 4 := 0
  val : BitVec 4 := 0
  deriving DecidableEq, Repr

/-- How the flash view reads the boot flash (R394, R395): the instruction, the bytes of its address, the cycles
between address and data, how many of them carry mode bits, and PM_SCK at 25 MHz whatever DIV holds. -/
structure PmRead where
  instr     : BitVec 8 := 0x03
  addrBytes : Nat := 3
  dummy     : Nat := 0
  modes     : Nat := 0
  slow      : Bool := true
  deriving DecidableEq, Repr

/-- A read of the boot flash as port M sent it (R393, R394, R397): its instruction where it is not omitted, the
address and its bytes, whether its mode bits continue the read, the cycles before the data, DIV. -/
structure PmFetch where
  instr     : Option (BitVec 8)
  addr      : Nat
  addrBytes : Nat
  cont      : Bool
  dummy     : Nat
  div       : BitVec 8
  deriving DecidableEq, Repr

/-- Port M (Tables SER-11 to SER-16). -/
structure Pm where
  eng      : EngCore := {}
  mode     : BitVec 3 := 0
  omitOn   : Bool := false
  sfdpOk   : Bool := false
  /-- The chosen mode's continuous read is reported by the flash (R397). -/
  contRead : Bool := false
  xblock   : Bool := false
  viewMiss : Bool := false
  densKib  : Word := 0
  /-- The first 512 bytes of SFDP space read at the last STARTING (Table SER-4). -/
  sfdp     : List Byte := []
  xDiv     : BitVec 8 := 1
  prefetch : Bool := true
  omit_    : Bool := true
  modes    : BitVec 5 := 0x1F
  selDly   : BitVec 4 := 4
  /-- PM_SEL, with PM_SELEN_N low while a select is asserted (R387, R388). -/
  sel      : BitVec 5 := 0
  selOn    : Bool := false
  /-- PM_SCK's level while it idles, and DIV of what runs (R387, R388). -/
  sck      : Bool := false
  sckDiv   : BitVec 8 := 0
  /-- PM_IO[3:0] now, and in the PM_SCK cycles to come, one list for each entry (R386, R390). -/
  io       : PmIo := {}
  wave     : List (List PmIo) := []
  /-- The read mode chosen at the last STARTING, and the last flash read sent (R394, R397). -/
  rd       : PmRead := {}
  sent     : Option PmFetch := none
  /-- Line addresses held (address / 64), most recently used first (R396). -/
  lines    : List Nat := []
  /-- The line fill in progress: first line and number of lines. -/
  fill     : Option (Nat × Nat) := none
  reads    : List ViewRead := []
  /-- The transaction in progress (R390). -/
  xfer     : Option OpId := none
  /-- Its entries, read at its start. -/
  prog     : List PmUnit := []
  /-- What it has met up to the unit at which it stands, as its row last brought it (R391). -/
  met      : PmXferRes := {}
  /-- The status with which that transaction will end, where it has been cut short (R392). -/
  doom     : Option (BitVec 8) := none
  /-- PM_XFERs that wait for the port. -/
  queue    : List OpId := []
  deriving DecidableEq, Repr

/-- Port S (Tables SER-7, SER-9, SER-17, SER-18). -/
structure Ps where
  frames    : BitVec 16 := 0
  slow      : Bool := true
  toMcFull  : Bool := false
  toHostFull : Bool := false
  overclk   : Bool := false
  short     : Bool := false
  tuTmo     : Bool := false
  denied    : Bool := false
  /-- Bits 3 to 0 of the status byte since it was last sent (R403). -/
  sOver     : Bool := false
  sShort    : Bool := false
  sTuTmo    : Bool := false
  sDenied   : Bool := false
  toHost    : Word := 0
  toMc      : Word := 0
  inFrame   : Bool := false
  abandoned : Bool := false
  /-- The word loaded at PS_SEL_N falling (Table SER-9), or the status byte in command mode. -/
  resp      : BitVec 64 := 0
  lastAddr  : BitVec 16 := 0
  lastData  : Word := 0
  /-- Edges of an abandoned frame before port S ignored them (R409). -/
  cut       : Nat := 0
  /-- PS_SDO: none while it is high-impedance (R401). -/
  sdo       : Option Bool := none
  /-- What PS_SDO carried in the last frame, bit by bit (R403, R406, R408). -/
  shown     : List Bool := []
  /-- The word that the frame's READ took once its ADDR was complete (R404). -/
  taken     : Option Word := none
  deriving DecidableEq, Repr

/-! ### A Plaza, and the whole -/

/-- A Plaza with its 64 channels. -/
structure Plaza where
  eng   : EngCore := {}
  cfg   : PlzCfg := {}
  pin   : Pin := {}
  chans : Vector Chan 64 := Vector.replicate 64 {}
  tim   : Tim := {}
  seq   : Seq := {}
  run   : Run := {}
  /-- SEQ_RUNs dispatched and waiting their turn (R192). -/
  runQ  : List OpId := []
  uc    : Uc := {}
  cap   : Cap := {}
  psup  : BitVec 64 := 0
  psupHold : Nat := 0
  /-- The Plaza's raster map (R301), 16 bits per column. -/
  rmap  : Vector (BitVec 16) 64 := Vector.replicate 64 0
  deriving DecidableEq, Repr

/-- The park store (R125 to R127, Table PIN-18) and the copy of it that was loaded last. -/
structure Park where
  image  : Mem := []
  writes : Nat := 0
  loaded : Bool := false
  bad    : Bool := false
  /-- PARK_STORE_BAD stands (R51, R127). -/
  stands : Bool := false
  /-- Codes and modes taken at the last load. -/
  active : Mem := []
  deriving DecidableEq, Repr

/-- Who holds each resource (R81). -/
structure Owners where
  plaza : Vector (Option CtxId) 16 := Vector.replicate 16 none
  dps   : Vector (Option CtxId) 32 := Vector.replicate 32 none
  tmu   : Vector (Option CtxId) 64 := Vector.replicate 64 none
  re    : Vector (Option CtxId) 4 := Vector.replicate 4 none
  lane  : Vector (Option CtxId) 64 := Vector.replicate 64 none
  portM : Option CtxId := none
  deriving DecidableEq, Repr

/-- Timeout registers (Tables SEQ-16, SEQ-17, MEA-15, AWG-14, RAS-14, PWR-16, SER-16, TIM-11). -/
structure Tmos where
  holdMs   : BitVec 16 := 0x000A
  seqStart : BitVec 8 := 0x0A
  seqStop  : BitVec 8 := 0x0A
  syncMs   : BitVec 16 := 0x03E8
  meaStart : BitVec 8 := 0x14
  meaStop  : BitVec 8 := 0x0A
  awgStart : BitVec 8 := 0x0A
  awgStop  : BitVec 8 := 0x0A
  reStart  : BitVec 8 := 0x0A
  reStop   : BitVec 8 := 0x0A
  dpsStart : BitVec 8 := 0x14
  dpsStop  : BitVec 8 := 0x32
  serTu    : BitVec 8 := 0x0A
  serStart : BitVec 8 := 0x0A
  serStop  : BitVec 8 := 0x0A
  bandHold : BitVec 16 := 0x0064
  deriving DecidableEq, Repr

/-- The DRAM (R161, R273, R299) and the record area (R253). -/
structure Dram where
  mem       : Mem := []
  segCount  : Nat := 0xC0000
  committed : Bool := false
  recs      : List Rec := []
  /-- Generation of each slot that has been used (R253). -/
  gens      : List (Nat × Nat) := []
  acqs      : List Acq := []
  /-- PMU_MEASs in progress (R251). -/
  pmu       : List OpId := []
  /-- ACQs and PMU_MEASs that wait for a converter, in the order of R71 (R257). -/
  convWait  : List OpId := []
  /-- Monitor-ADC work in progress, and waiting in the order of R71 (R332, R333, R373). -/
  mon       : List OpId := []
  monWait   : List OpId := []
  deriving DecidableEq, Repr

/-- The machine stops for no command of this block (03 to 17: what the spec calls a fault is an
engine's state); no constructor is therefore needed, and none is raised. -/
inductive Fault where
  deriving DecidableEq, Repr

/-- Why a command is refused. -/
inductive Refusal where
  /-- Raised by an arm of exec whose command has no meaning yet. Safe: the model stops. -/
  | notModelled (mnemonic : String)
  deriving DecidableEq, Repr

/-- The whole W1024, and the commands that wait. -/
structure State where
  pending  : List Instr := []
  /-- Picks free values (notes/assumptions/7.md). -/
  freeCount : Nat := 0
  /-- CCLK ticks since the end of reset (Table MAP-7). -/
  now      : BitVec 64 := 0
  /-- Host memory (notes/assumptions/3.md). -/
  hostMem  : Mem := []
  /-- The boot flash (notes/assumptions/5.md): bytes that differ from 0xFF. -/
  flash    : Mem := []
  /-- The bytes that the last read on a BAR or a snapshot answered, in rising address order. -/
  rdata    : List Byte := []
  glb      : Glb := {}
  pwr      : Pwr := {}
  boot     : Boot := {}
  patch    : Patch := {}
  hif      : Hif := {}
  ctxs     : List Ctx := []
  rings    : List Ring := []
  ops      : List Op := []
  nextOp   : Nat := 0
  nextSeq  : Nat := 1
  own      : Owners := {}
  msix     : List MsixEntry := []
  /-- MSI-X messages sent on the link, newest first. -/
  msixSent : List Nat := []
  eqPend   : List EqPend := []
  fag      : Fag := {}
  park     : Park := {}
  tmo      : Tmos := {}
  plz      : Vector Plaza 16 := Vector.replicate 16 {}
  steps    : List TStep := []
  mqPend   : List MqPend := []
  dram     : Dram := {}
  dg       : Vector Dg 16 := Vector.replicate 16 {}
  tmu      : Vector Tmu 64 := Vector.replicate 64 {}
  /-- Present level of TMU_GATE[3:0] (Table MEA-17). -/
  gate     : Vector Bool 4 := Vector.replicate 4 false
  awg      : Vector Awg 16 := Vector.replicate 16 {}
  re       : Vector Re 4 := Vector.replicate 4 {}
  dps      : Vector Dps 32 := Vector.replicate 32 {}
  lanes    : Vector Lane 64 := Vector.replicate 64 {}
  lanLimit : BitVec 16 := 0xFFFF
  /-- Source events fired and not yet taken by LANE_SOURCE_EVENT: source, payload. -/
  fired    : List (BitVec 8 × BitVec 8) := []
  triggers : List Trigger := []
  cm       : Cm := {}
  av       : Av := {}
  cal      : Cal := {}
  thm      : Thm := {}
  pm       : Pm := {}
  ps       : Ps := {}
  /-- Order of the next timing zero (R236). -/
  nextZero : Nat := 0
  deriving DecidableEq, Repr

/-- The machine in power-on reset before VIN is applied (R413, R440): no rail up, every register at its
reset value, every switch open, no command waiting. -/
def State.reset : State := {}

end Sys2Proof.Machine
end

