-- ==== Sys2Proof/Machine/Mem.lean ====
section
/-! DEFINITION. Bytes: sparse memories in canonical form, little-endian words, bit fields, and the
update of one element of a vector. -/

namespace Sys2Proof.Machine

/-! ### Vectors -/

/-- Element i of v put through f. -/
def upd {α : Type} {n : Nat} (v : Vector α n) (i : Fin n) (f : α → α) : Vector α n :=
  v.set i (f v[i])

/-- Every element of v put through f with its index. -/
def updAll {α β : Type} {n : Nat} (v : Vector α n) (f : Fin n → α → β) : Vector β n :=
  ⟨⟨(List.finRange n).map fun i => f i v[i]⟩, by simp⟩

/-- The indices below n for which p holds, ascending. -/
def ixs (n : Nat) (p : Fin n → Bool) : List (Fin n) := (List.finRange n).filter p

/-! ### Bit fields -/

/-- Bits hi to lo of a word, as a number. -/
def bits {n : Nat} (w : BitVec n) (hi lo : Nat) : Nat := w.toNat / 2 ^ lo % 2 ^ (hi + 1 - lo)

/-- The signed reading of an n-bit number. -/
def sgn (n : Nat) (x : Nat) : Int := if x < 2 ^ (n - 1) then x else (x : Int) - 2 ^ n

/-- 1 for true. -/
def b2n (b : Bool) : Nat := if b then 1 else 0

/-- A field placed at bit lo. -/
def at_ (lo : Nat) (x : Nat) : Nat := x * 2 ^ lo

/-- An integer as a 32-bit two's-complement word. -/
def w32 (x : Int) : Word := BitVec.ofInt 32 x

/-- Division that rounds to the nearest, ties to even, of a non-negative divisor. -/
def divRne (a : Int) (b : Nat) : Int :=
  let q := a.fdiv b
  let r := a - q * b
  if 2 * r < b then q else if 2 * r > b then q + 1 else if q % 2 = 0 then q else q + 1

/-- x kept within lo to hi. -/
def clampInt (lo hi x : Int) : Int := if x < lo then lo else if x > hi then hi else x

/-- x kept within lo to hi. -/
def clampNat (lo hi x : Nat) : Nat := if x < lo then lo else if x > hi then hi else x

/-! ### Bytes -/

/-- The little-endian number of some bytes (R10, R75). -/
def leNat : List Byte → Nat
  | [] => 0
  | b :: bs => b.toNat + 256 * leNat bs

/-- The n low bytes of a number, the least significant first. -/
def leBytes : Nat → Nat → List Byte
  | 0, _ => []
  | n + 1, x => BitVec.ofNat 8 x :: leBytes n (x / 256)

/-- n bytes of bs from offset a; missing bytes are 0. -/
def sliceB (bs : List Byte) (a n : Nat) : List Byte :=
  let t := (bs.drop a).take n
  t ++ List.replicate (n - t.length) 0

/-- The number in n bytes of bs from offset a. -/
def numAt (bs : List Byte) (a n : Nat) : Nat := leNat (sliceB bs a n)

/-- The first n 32-bit words of some bytes. -/
def wordsOf : Nat → List Byte → List Word
  | 0, _ => []
  | n + 1, bs => BitVec.ofNat 32 (numAt bs 0 4) :: wordsOf n (bs.drop 4)

/-- The bytes of some words. -/
def bytesOf (ws : List Word) : List Byte := ws.flatMap fun w => leBytes 4 w.toNat

/-- The n bytes of a bit vector. -/
def bvBytes (n : Nat) {k : Nat} (v : BitVec k) : List Byte := leBytes n v.toNat

/-- The n low bits of a number, the most significant first. -/
def bitsOf (n x : Nat) : List Bool := (List.range n).map fun i => x.testBit (n - 1 - i)

/-- The number that some bits spell, the most significant first. -/
def ofBits (bs : List Bool) : Nat := bs.foldl (fun x b => 2 * x + b2n b) 0

/-- What a read of n bytes answers where nothing is served (R414). -/
def onesB (n : Nat) : List Byte := List.replicate n 0xFF

/-! ### Sparse memories -/

/-- The byte at address a; d is what an unlisted address reads as. -/
def Mem.read (d : Byte) (m : Mem) (a : Nat) : Byte :=
  match m with
  | [] => d
  | (a', b) :: r => if a = a' then b else Mem.read d r a

/-- m with byte b at address a, in canonical form. -/
def Mem.write (d : Byte) (m : Mem) (a : Nat) (b : Byte) : Mem :=
  match m with
  | [] => if b = d then [] else [(a, b)]
  | (a', b') :: r =>
    if a < a' then (if b = d then (a', b') :: r else (a, b) :: (a', b') :: r)
    else if a = a' then (if b = d then r else (a, b) :: r)
    else (a', b') :: Mem.write d r a b

/-- m with the bytes bs from address a on. -/
def Mem.writeBytes (d : Byte) (m : Mem) (a : Nat) (bs : List Byte) : Mem :=
  match bs with
  | [] => m
  | b :: r => Mem.writeBytes d (Mem.write d m a b) (a + 1) r

/-- n bytes from address a. -/
def Mem.readBytes (d : Byte) (m : Mem) (a n : Nat) : List Byte :=
  (List.range n).map fun i => Mem.read d m (a + i)

/-- Addresses strictly rising, no entry equal to d. -/
def Mem.wf (d : Byte) (m : Mem) : Bool :=
  match m with
  | [] => true
  | (a, b) :: r =>
    b != d && (match r with | [] => true | (a', _) :: _ => decide (a < a')) && Mem.wf d r

/-! ### Host memory, DRAM and boot flash -/

/-- n bytes of host memory; addresses wrap at 2^64 (notes/assumptions/3.md). -/
def hostRead (s : State) (a n : Nat) : List Byte :=
  (List.range n).map fun i => Mem.read 0 s.hostMem ((a + i) % 2 ^ 64)

/-- Host memory with the bytes bs written from address a. -/
def hostWriteM (m : Mem) (a : Nat) (bs : List Byte) : Mem :=
  match bs with
  | [] => m
  | b :: r => hostWriteM (Mem.write 0 m (a % 2 ^ 64) b) (a + 1) r

def hostWrite (s : State) (a : Nat) (bs : List Byte) : State :=
  { s with hostMem := hostWriteM s.hostMem a bs }

/-- n bytes of DRAM. -/
def dramRead (s : State) (a n : Nat) : List Byte := Mem.readBytes 0 s.dram.mem a n

def dramWrite (s : State) (a : Nat) (bs : List Byte) : State :=
  { s with dram := { s.dram with mem := Mem.writeBytes 0 s.dram.mem a bs } }

/-- n bytes of the boot flash; an unlisted byte reads as erased (notes/assumptions/5.md). -/
def flashRead (s : State) (a n : Nat) : List Byte := Mem.readBytes 0xFF s.flash a n

end Sys2Proof.Machine
end

