-- ==== Sys2Proof/Machine/Ops.lean ====
section
/-! DEFINITION. The operations every command shares: reaching into the state, the operation table
and its completions, rings and interrupts, EQ records, fault reports, source events, ownership. -/

namespace Sys2Proof.Machine

/-- What a meaning answers. -/
abbrev Out := Host.Outcome State Fault Refusal

/-! ### Status codes (Table HST-10) -/

abbrev stOk : BitVec 8 := 0x00
abbrev stPartial : BitVec 8 := 0x01
abbrev eOpcode : BitVec 8 := 0x10
abbrev eFormat : BitVec 8 := 0x11
abbrev eContext : BitVec 8 := 0x12
abbrev eNoContext : BitVec 8 := 0x13
abbrev eArg : BitVec 8 := 0x14
abbrev eOwned : BitVec 8 := 0x15
abbrev eTimeout : BitVec 8 := 0x20
abbrev eAborted : BitVec 8 := 0x21
abbrev eHostMem : BitVec 8 := 0x22
abbrev eUnderrun : BitVec 8 := 0x30
abbrev eResidency : BitVec 8 := 0x32
abbrev eTrip : BitVec 8 := 0x40
abbrev eThermal : BitVec 8 := 0x41
abbrev eCalReject : BitVec 8 := 0x50
abbrev eAuth : BitVec 8 := 0x60
abbrev eLink : BitVec 8 := 0x70
abbrev eInternal : BitVec 8 := 0xFF

/-! ### Fault codes (Table BOOT-7) -/

abbrev fcTimeout : BitVec 8 := 0x01
abbrev fcOvercurrent : BitVec 8 := 0x02
abbrev fcSeqStack : BitVec 8 := 0x03
abbrev fcUcodeIllegal : BitVec 8 := 0x04
abbrev fcUcodeParity : BitVec 8 := 0x05
abbrev fcUcodeWdog : BitVec 8 := 0x06
abbrev fcLinkSet : BitVec 8 := 0x07
abbrev fcDieLink : BitVec 8 := 0x08
abbrev fcPllLock : BitVec 8 := 0x09
abbrev fcPeRail : BitVec 8 := 0x0A
abbrev fcDpsTrip : BitVec 8 := 0x0B
abbrev fcThermal : BitVec 8 := 0x0C
abbrev fcMassFail : BitVec 8 := 0x20
abbrev fcFwWdog : BitVec 8 := 0x21
abbrev fcFwFault : BitVec 8 := 0x22
abbrev fcInternal : BitVec 8 := 0x23
abbrev fcParkStore : BitVec 8 := 0x24

/-! ### Reaching into the state -/

def modPlz (s : State) (p : Fin 16) (f : Plaza → Plaza) : State := { s with plz := upd s.plz p f }
def modDps (s : State) (n : Fin 32) (f : Dps → Dps) : State := { s with dps := upd s.dps n f }
def modAwg (s : State) (a : Fin 16) (f : Awg → Awg) : State := { s with awg := upd s.awg a f }
def modDg (s : State) (a : Fin 16) (f : Dg → Dg) : State := { s with dg := upd s.dg a f }
def modTmu (s : State) (n : Fin 64) (f : Tmu → Tmu) : State := { s with tmu := upd s.tmu n f }
def modRe (s : State) (k : Fin 4) (f : Re → Re) : State := { s with re := upd s.re k f }
def modLane (s : State) (n : Fin 64) (f : Lane → Lane) : State := { s with lanes := upd s.lanes n f }

def modPin (s : State) (p : Fin 16) (f : Pin → Pin) : State :=
  modPlz s p fun P => { P with pin := f P.pin }
def modTim (s : State) (p : Fin 16) (f : Tim → Tim) : State :=
  modPlz s p fun P => { P with tim := f P.tim }
def modSeq (s : State) (p : Fin 16) (f : Seq → Seq) : State :=
  modPlz s p fun P => { P with seq := f P.seq }
def modRun (s : State) (p : Fin 16) (f : Run → Run) : State :=
  modPlz s p fun P => { P with run := f P.run }
def modUc (s : State) (p : Fin 16) (f : Uc → Uc) : State :=
  modPlz s p fun P => { P with uc := f P.uc }
def modCap (s : State) (p : Fin 16) (f : Cap → Cap) : State :=
  modPlz s p fun P => { P with cap := f P.cap }
def modChanIn (s : State) (p : Fin 16) (k : Fin 64) (f : Chan → Chan) : State :=
  modPlz s p fun P => { P with chans := upd P.chans k f }

/-- The Plaza of channel c (Table ARC-2). -/
def chPlaza (c : Fin 1024) : Fin 16 := ⟨c.val / 64, by omega⟩
/-- The index of channel c in its Plaza. -/
def chIx (c : Fin 1024) : Fin 64 := ⟨c.val % 64, by omega⟩
/-- Channel k of Plaza p. -/
def chOf (p : Fin 16) (k : Fin 64) : Fin 1024 := ⟨64 * p.val + k.val, by omega⟩
/-- The Plaza of DPS n. -/
def dpsPlaza (n : Fin 32) : Fin 16 := ⟨n.val / 2, by omega⟩
/-- The Plaza of TMU n. -/
def tmuPlaza (n : Fin 64) : Fin 16 := ⟨n.val / 4, by omega⟩
/-- The PE die of Plaza p. -/
def peOf (p : Fin 16) : Fin 8 := ⟨p.val / 2, by omega⟩
/-- The raster engine that serves Plaza p. -/
def reOf (p : Fin 16) : Fin 4 := ⟨p.val / 4, by omega⟩

def getChan (s : State) (c : Fin 1024) : Chan := (s.plz[chPlaza c]).chans[chIx c]
def modChan (s : State) (c : Fin 1024) (f : Chan → Chan) : State :=
  modChanIn s (chPlaza c) (chIx c) f

/-- A free value of width w, and the counter advanced (notes/assumptions/7.md). -/
def takeFree (s : State) (w : Nat) : BitVec w × State :=
  (Config.freeValue w s.freeCount, { s with freeCount := s.freeCount + 1 })

/-! ### Start-up and power states -/

/-- BARs are served: STAGE has reached RUNNING or RECOVERY (R414). -/
def barsOn (s : State) : Bool :=
  !s.glb.perst && !s.glb.por &&
    (match s.boot.stage with | .running | .recovery | .restarting => true | _ => false)

/-- PE dies are powered and set up: ACTIVE or IDLE, no change in progress (Table ARC-5). -/
def peUp (s : State) : Bool :=
  !s.glb.busy && (match s.glb.pwr with | .active | .idle => true | _ => false)

/-- The PE rails of die n are good (Table PWR-21). -/
def peGood (s : State) (n : Fin 8) : Bool :=
  s.pwr.railUp[7 + n.val] && s.pwr.railUp[15 + n.val] && s.pwr.railUp[23 + n.val]

/-- Start-up has ended: STAGE has reached RUNNING or RECOVERY (R413, R414). -/
def startedUp (s : State) : Bool :=
  match s.boot.stage with
  | .running | .recovery | .restarting => true
  | _ => false

/-- A whole reset is in force, or what it began has not reached the boot (Table BOOT-2); DEEP SLEEP is none. -/
def inReset (s : State) : Bool := s.glb.por || (s.boot.stage == .reset && s.glb.pwr != .deepSleep)

/-- Outputs of PE die n may hold a level: powered, out of reset and in ACTIVE or IDLE, no rail ramping (R48,
R52). -/
def dieLive (s : State) (n : Fin 8) : Bool :=
  peUp s && startedUp s && s.pwr.starting.isEmpty && peGood s n

/-- Every PE die whose rails are good has taken a first temperature sample (R36, R150;
notes/assumptions/229.md). -/
def peSampled (s : State) : Bool :=
  (List.finRange 8).all fun n => !peGood s n || ((s.thm.dies[Fin.ofNat 10 n.val]).band).isSome

/-- The lower 16 bits name Plazas: those named, ascending. -/
def plazasOf (m : BitVec 16) : List (Fin 16) := ixs 16 fun p => m.getLsbD p.val

/-! ### The operation table -/

def op? (s : State) (id : OpId) : Option Op := s.ops.find? fun o => o.id == id

def modOp (s : State) (id : OpId) (f : Op → Op) : State :=
  { s with ops := s.ops.map fun o => if o.id = id then f o else o }

/-- The descriptor in force. -/
def Op.cur (o : Op) : List Word := o.descs.headD []

/-- Word i of a descriptor. -/
def wd (ws : List Word) (i : Nat) : Word := ws.getD i 0

/-- Two words as one number, the low word first. -/
def wd64 (ws : List Word) (i : Nat) : Nat := (wd ws i).toNat + (wd ws (i + 1)).toNat * 2 ^ 32

/-- OPCODE of a descriptor (Table HST-5). -/
def opcodeOf (ws : List Word) : Nat := bits (wd ws 0) 7 0

/-- CHAIN, FENCE and PRIORITY of a descriptor (Table HST-5). -/
def chainOf (d : List Word) : Bool := (wd d 0).getLsbD 14
def fenceOf (d : List Word) : Bool := (wd d 0).getLsbD 13
def prioOf (d : List Word) : Nat := bits (wd d 1) 15 12

/-! ### Link sets, dies, and what closes an engine to a descriptor (R23 to R27, R34, R383) -/

/-- The Plaza whose stream a Plaza plays: itself, or its leader while it is linked. -/
def leaderOf (s : State) (p : Fin 16) : Fin 16 :=
  let c := (s.plz[p]).cfg
  if c.linked then c.leader else p

/-- The members of the set that p leads, p first (p alone where p is itself a member). DESIGN CHOICE (R24
and R25 do not name it, notes/assumptions/212.md): a Plaza that is OFF and writes LINKED and LEADER while
that leader is not OFF belongs to the set at once, and goes with its leader's next request. -/
def setOf (s : State) (p : Fin 16) : List (Fin 16) :=
  if (s.plz[p]).cfg.linked then [p]
  else p :: ixs 16 fun q => (s.plz[q]).cfg.linked && (s.plz[q]).cfg.leader == p && q != p

/-- The engines that act together with e: the members of the link set that a Plaza leads (R25). -/
def together (s : State) (e : Eng) : List Eng :=
  match e with
  | .plaza p => (setOf s p).map .plaza
  | e => [e]

/-- The dies that serve an engine (R383): indices of Table CAL-18. -/
def diesOf : Eng → List (Fin 10)
  | .plaza p => [Fin.ofNat 10 (p.val / 2), 8]
  | .awg p => [Fin.ofNat 10 (p.val / 2), 8]
  | .dg p => [Fin.ofNat 10 (p.val / 2), 8]
  | .tmu n => [Fin.ofNat 10 (n.val / 8), 8]
  | .dps _ => [9, 8]
  | .re _ => [8]
  | .portM => [8]

/-- A throttled die serves the engine (R383). -/
def hotServed (s : State) (e : Eng) : Bool := (diesOf e).any fun d => (s.thm.dies[d]).throttle

/-- A throttled die serves an engine that acts together with e (R383, Table CAL-12). -/
def throttled (s : State) (e : Eng) : Bool := (together s e).any (hotServed s)

/-- The set of a KIND, INDEX and BAND, if they name one (Table CAL-2). -/
def calKeyOf (kind index band : Nat) : Option CalKey :=
  if h : index < 16 then
    match kind with
    | 0 => if band = 0 then some (.chDc ⟨index, h⟩) else none
    | 1 => some (.deskew ⟨index, h⟩ (Fin.ofNat 8 band))
    | 2 => if band = 0 then some (.dig ⟨index, h⟩) else none
    | 3 => if band = 0 then some (.awg ⟨index, h⟩) else none
    | 4 => if band = 0 then some (.dps ⟨index, by omega⟩) else none
    | 5 => if h8 : index < 8 then (if band = 0 then some (.mon ⟨index, h8⟩) else none) else none
    | _ => none
  else if h : index < 32 then
    (if kind = 4 && band = 0 then some (.dps ⟨index, h⟩) else none)
  else none

/-- The set that a CAL_RUN or CAL_READ names in word 2. -/
def calNamed (d : List Word) : Option CalKey :=
  calKeyOf (bits (wd d 2) 23 16) (bits (wd d 2) 5 0) (bits (wd d 2) 26 24)

/-- The engine, or a Plaza of the die, that a calibration set belongs to. -/
def calEng : CalKey → Eng
  | .chDc p => .plaza p
  | .deskew p _ => .plaza p
  | .dig p => .dg p
  | .awg p => .awg p
  | .dps n => .dps n
  | .mon n => .plaza (Fin.ofNat 16 (2 * n.val))

/-- The engines whose dies a throttle closes to an operation (R383). -/
def coolEngs (d : List Word) : List Eng :=
  let p : Fin 16 := Fin.ofNat 16 (bits (wd d 2) 3 0)
  match opcodeOf d with
  | 0x15 => [.plaza p]
  | 0x50 => (plazasOf (BitVec.ofNat 16 (bits (wd d 2) 15 0))).map .plaza
  | 0x51 => [.dg p]
  | 0x54 => [.tmu (Fin.ofNat 64 (bits (wd d 2) 5 0))]
  | 0x64 => [.awg p]
  | 0x74 => [.re (Fin.ofNat 4 (bits (wd d 2) 1 0))]
  | 0x80 => ((calNamed d).map calEng).toList
  | _ => []

/-- A descriptor names an engine that a throttled die serves (Table CAL-11); a SEQ_RUN names the members of the set
that its Plaza leads too (Table CAL-12). -/
def tooHot (s : State) (d : List Word) : Bool :=
  (coolEngs d).any (if opcodeOf d = 0x15 then throttled s else hotServed s)

/-- A descriptor addresses an engine on a PE die (R34, Table ARC-1): the electronics of channels, a digitizer
or measurement ADC, an AWG, a TMU. Plazas with their sequencers, segment slots and capture are on the core
die, and a request that enables an engine is rejected as R35 says (notes/assumptions/193.md). -/
def onPeDie (d : List Word) : Bool :=
  match opcodeOf d with
  | 0x39 | 0x3B | 0x45 | 0x50 | 0x51 | 0x54 | 0x61 | 0x62 | 0x63 | 0x64 | 0x65 | 0x7D => true
  | 0x55 | 0x60 => bits (wd d 2) 31 30 == 2
  | _ => false

/-- STANDBY, from the acceptance of its request to the return (R34, R35). -/
def standingBy (s : State) : Bool :=
  match s.glb.pwr with
  | .active => s.glb.busy
  | .idle => s.glb.busy
  | _ => true

/-- The status with which a descriptor ends at its dispatch although its checks passed: STANDBY closes the PE
dies (R34), a throttled die its engines (R383). -/
def dispatchBar (s : State) (d : List Word) : Option (BitVec 8) :=
  if standingBy s && onPeDie d then some eArg
  else if tooHot s d then some eThermal
  else none

/-- x goes before o on an engine they share: a higher priority, or the older among equals (R71). -/
def before (x o : Op) : Bool :=
  prioOf o.first < prioOf x.first || (prioOf o.first == prioOf x.first && x.id < o.id)

/-- The operation is not yet completed. -/
def Op.live (o : Op) : Bool := match o.phase with | .completed _ => false | _ => true

/-- The operations of a queue that have not ended and have no older one of their own SQ in it for an engine that they
use: `uses` names the engines of one. -/
def heads (s : State) (q : List OpId) (uses : OpId → List Nat) : List Op :=
  let os := (q.filterMap (op? s)).filter (·.live)
  os.filter fun o => os.all fun x =>
    x.ring != o.ring || o.id ≤ x.id || !((uses x.id).any fun u => (uses o.id).contains u)

/-- The first operation of a queue: of the oldest of each SQ the one that goes before the others (R71). -/
def firstOf (s : State) (q : List OpId) (uses : OpId → List Nat) : Option Op :=
  (heads s q uses).foldl (fun b o =>
    match b with
    | some x => if before o x then some o else b
    | none => some o) none

/-- The first n operations of a queue in their order, then the rest. -/
def firstN (s : State) (uses : OpId → List Nat) : Nat → List OpId → List OpId
  | 0, q => q
  | n + 1, q =>
    match firstOf s q uses with
    | some o => o.id :: firstN s uses n (q.filter (· != o.id))
    | none => q

/-- Operations that wait in the order in which they are taken: for each engine the order of an SQ stands, and among
SQs the priority decides (R71; notes/assumptions/20.md). -/
def inOrder (s : State) (q : List OpId) (uses : OpId → List Nat := fun _ => [0]) : List OpId :=
  firstN s uses q.length q

/-- Operation id joins those that wait for one engine (R71). -/
def enqueue (s : State) (id : OpId) (q : List OpId) : List OpId := inOrder s (q ++ [id])

def modCtx (s : State) (c : CtxId) (f : Ctx → Ctx) : State :=
  { s with ctxs := s.ctxs.map fun x => if x.num = c then f x else x }

def ctx? (s : State) (c : CtxId) : Option Ctx := s.ctxs.find? fun x => x.num == c

/-- An operation that ends with E_ABORTED while its context aborts or closes counts there (Table HST-11). -/
def countAbort (s : State) (id : OpId) (st : BitVec 8) : State :=
  match op? s id with
  | some o =>
    if st = eAborted && o.live then
      modCtx s o.ctx fun x => if x.phase = .normal then x else { x with aborted := x.aborted + 1 }
    else s
  | none => s

/-- Entry id completes with this status and these result words, once (R65, R100). -/
def completeOp (s : State) (id : OpId) (st : BitVec 8) (r : List Word) : State :=
  let c : Completion :=
    { status := st, r4 := wd r 0, r5 := wd r 1, r6 := wd r 2, r7 := wd r 3, time := s.now }
  modOp (countAbort s id st) id fun o => if o.live then { o with phase := .completed c } else o

/-- The descriptor in force ends with this status: a chain goes on with its next descriptor while
all goes well, and completes otherwise (R70; notes/assumptions/15.md); the next is dispatched as any other. -/
def finishOp (s : State) (id : OpId) (st : BitVec 8) (r : List Word) : State :=
  match op? s id with
  | none => s
  | some o =>
    if st = stOk && o.live && 1 < o.descs.length then
      let s := modOp s id fun o =>
        { o with descs := o.descs.tail, phase := .dispatched, mask := 0, count := 0, aux := 0,
                 after := none }
      match dispatchBar s (o.descs.tail.headD []) with
      | some st => completeOp s id st []
      | none => s
    else completeOp s id st r

/-- Several entries complete alike. -/
def completeAll (s : State) (ids : List OpId) (st : BitVec 8) : State :=
  ids.foldl (fun s id => completeOp s id st []) s

/-- Several descriptors end alike. -/
def finishAll (s : State) (ids : List OpId) (st : BitVec 8) : State :=
  ids.foldl (fun s id => finishOp s id st []) s

/-- The row of an opcode: where entry id is dispatched and its descriptor carries the opcode, it is
run, from a state in which it is running; otherwise nothing changes (notes/assumptions/1.md). In STANDBY a
descriptor for a PE die gets E_ARG and no other effect, however early it was dispatched (R34). -/
def runDesc (s : State) (id : OpId) (opc : Nat) (f : State → Op → List Word → State) : State :=
  match op? s id with
  | none => s
  | some o =>
    if o.phase = .dispatched && opcodeOf o.cur = opc then
      if standingBy s && onPeDie o.cur then completeOp s id eArg []
      else f (modOp s id fun o => { o with phase := .running }) o o.cur
    else s

/-- A later happening of a running operation of this opcode. -/
def onRunning (s : State) (id : OpId) (opc : Nat) (f : Op → List Word → State) : State :=
  match op? s id with
  | none => s
  | some o => if o.phase = .running && opcodeOf o.cur = opc then f o o.cur else s

/-! ### Interrupts (R55, R58, R98) -/

/-- A message of vector v: sent, or pending where the vector is masked (notes/assumptions/14.md). -/
def msixSend (s : State) (v : Nat) : State :=
  match s.msix.find? fun e => e.vector == v with
  | none => { s with msix := { vector := v, pending := true } :: s.msix }
  | some e =>
    if e.masked then
      { s with msix := s.msix.map fun e => if e.vector = v then { e with pending := true } else e }
    else { s with msixSent := v :: s.msixSent }

/-! ### Rings (R85 to R98) -/

def ring? (s : State) (n : RingId) : Option Ring := s.rings.find? fun r => r.num == n

def modRing (s : State) (n : RingId) (f : Ring → Ring) : State :=
  { s with rings := s.rings.map fun r => if r.num = n then f r else r }

/-- Entry size in bytes (Table HST-13). -/
def entrySize : RingTy → Nat
  | .sq | .mq => 64
  | .cq | .fq | .eq => 32

/-- 2^k entries. -/
def Ring.size (r : Ring) : Nat := 2 ^ r.log2

/-- The next write would meet the host's released head (R92). -/
def Ring.full (r : Ring) : Bool := (r.tail + 1) % r.size == r.head

/-- An entry is counted for the interrupt, and the vector sent when R98 says so. -/
def countInterrupt (s : State) (n : RingId) : State :=
  match ring? s n with
  | none => s
  | some r =>
    if !r.intEn then s
    else if r.intCount + 1 ≥ max r.icnt 1 || r.itime = 0 then
      msixSend (modRing s n fun r => { r with intCount := 0 }) r.vector
    else modRing s n fun r => { r with intCount := r.intCount + 1 }

/-- An entry goes into a ring with room: context c and phase in word 1, one write, the index on, the
phase inverted at the wrap (R55, R65, R91). `irq`: the entry calls for an interrupt. -/
def ringPutAs (s : State) (n : RingId) (c : CtxId) (ws : List Word) (irq : Bool) : State :=
  match ring? s n with
  | none => s
  | some r =>
    let w1 := wd ws 1 ||| BitVec.ofNat 32 (at_ 31 (b2n r.phase) + c % 4096)
    let ws' := ws.take 1 ++ w1 :: ws.drop 2
    let bs := sliceB (bytesOf ws') 0 (entrySize r.ty)
    let wrap : Bool := r.tail + 1 == r.size
    let s := hostWrite s (r.base + entrySize r.ty * r.tail) bs
    let s := modRing s n fun r =>
      { r with tail := (r.tail + 1) % r.size, phase := if wrap then !r.phase else r.phase }
    if irq then countInterrupt s n else s

/-- A record goes into an FQ, MQ or EQ with room, with the ring's context (R66). DESIGN CHOICE (R66 and R429
say only "its context", notes/assumptions/213.md): a record of a context without an EQ, written to
context 0's, carries context 0. -/
def ringPut (s : State) (n : RingId) (ws : List Word) (irq : Bool) : State :=
  match ring? s n with
  | none => s
  | some r => ringPutAs s n r.ctx ws irq

/-! ### EQ records and fault reports (R427 to R430) -/

/-- The attached EQ of a context (R90). -/
def eqOf (s : State) (c : CtxId) : Option Ring := s.rings.find? fun r => r.ctx == c && r.ty == .eq

/-- The context whose EQ takes a record that concerns a context, or none (R90). -/
def eqTarget (s : State) (c : Option CtxId) : CtxId :=
  match c with
  | none => 0
  | some c => if (eqOf s c).isSome then c else 0

/-- The pending entries of a context's EQ. -/
def eqPendOf (s : State) (c : CtxId) : EqPend :=
  (s.eqPend.find? fun e => e.ctx == c).getD { ctx := c }

def setEqPend (s : State) (e : EqPend) : State :=
  { s with eqPend := e :: s.eqPend.filter fun x => x.ctx != e.ctx }

/-- An entry is free: 64 in all, 8 of them for FAULT records only (R430). -/
def eqRoom (e : EqPend) (fault : Bool) : Bool :=
  e.recs.length < 64 &&
    (fault || (e.recs.filter fun r => r.code != 1).length < 56)

/-- A record for a context's EQ takes a pending entry, or is lost and counted (R430). -/
def postEq (s : State) (c : Option CtxId) (r : EqRec) : State :=
  let e := eqPendOf s (eqTarget s c)
  if eqRoom e (r.code == 1) then setEqPend s { e with recs := e.recs ++ [r] }
  else
    let s := setEqPend s { e with lost := e.lost + 1 }
    { s with fag := { s.fag with eqLost := min (s.fag.eqLost + 1) (2 ^ 32 - 1) } }

/-- A record of a code, index and words, stamped now (R429). -/
def mkEq (s : State) (code : BitVec 16) (index : Nat) (w4 w5 : Word) : EqRec :=
  { code := code, index := BitVec.ofNat 16 index, time := s.now, w4 := w4, w5 := w5,
    lich := s.glb.pwr == .deepSleep }

/-- A source reports to the fault aggregator (R427); FAULT_REPORT brings it in. -/
def postReport (s : State) (r : Report) : State :=
  { s with fag := { s.fag with inFlight := s.fag.inFlight ++ [r] } }

/-- A source reports a code, stamped now. -/
def report (s : State) (src : Nat) (code : BitVec 8) : State :=
  postReport s { src := BitVec.ofNat 8 src, code := code, stamp := s.now }

/-! ### Lane sources (Table LAN-1) -/

/-- A source fires with a payload; LANE_SOURCE_EVENT takes it to the Lanes. -/
def fire (s : State) (src : Nat) (payload : Nat) : State :=
  { s with fired := s.fired ++ [(BitVec.ofNat 8 src, BitVec.ofNat 8 payload)] }

/-! ### Ownership (R68 step 5, R81) -/

def holder (s : State) : Res → Option CtxId
  | .plaza p => s.own.plaza[p]
  | .dps n => s.own.dps[n]
  | .tmu n => s.own.tmu[n]
  | .re k => s.own.re[k]
  | .lane n => s.own.lane[n]
  | .portM => s.own.portM

def setHolder (s : State) (r : Res) (c : Option CtxId) : State :=
  let o := s.own
  { s with own := match r with
    | .plaza p => { o with plaza := o.plaza.set p c }
    | .dps n => { o with dps := o.dps.set n c }
    | .tmu n => { o with tmu := o.tmu.set n c }
    | .re k => { o with re := o.re.set k c }
    | .lane n => { o with lane := o.lane.set n c }
    | .portM => { o with portM := c } }

/-- The engine that must be held to act on an engine: DGp and AWGp go with Plaza p (R81). -/
def resOf : Eng → Res
  | .plaza p => .plaza p
  | .dps n => .dps n
  | .awg p => .plaza p
  | .dg p => .plaza p
  | .tmu n => .tmu n
  | .re k => .re k
  | .portM => .portM

/-- E_OWNED where another context holds a named resource, else E_ARG where none holds one (R68). -/
def claimCheck (s : State) (c : CtxId) (rs : List Res) : Option (BitVec 8) :=
  if rs.any fun r => match holder s r with | some x => x != c | none => false then some eOwned
  else if rs.any fun r => (holder s r).isNone then some eArg
  else none

/-! ### Engines, as data (R40, R47) -/

def getEng (s : State) : Eng → EngCore
  | .plaza p => (s.plz[p]).eng
  | .dps n => (s.dps[n]).eng
  | .awg p => (s.awg[p]).eng
  | .dg p => (s.dg[p]).eng
  | .tmu n => (s.tmu[n]).eng
  | .re k => (s.re[k]).eng
  | .portM => s.pm.eng

def modEng (s : State) (e : Eng) (f : EngCore → EngCore) : State :=
  match e with
  | .plaza p => modPlz s p fun P => { P with eng := f P.eng }
  | .dps n => modDps s n fun D => { D with eng := f D.eng }
  | .awg p => modAwg s p fun A => { A with eng := f A.eng }
  | .dg p => modDg s p fun D => { D with eng := f D.eng }
  | .tmu n => modTmu s n fun T => { T with eng := f T.eng }
  | .re k => modRe s k fun R => { R with eng := f R.eng }
  | .portM => { s with pm := { s.pm with eng := f s.pm.eng } }

/-- Fault source index of an engine (Table BOOT-8). -/
def srcIx : Eng → Nat
  | .plaza p => p.val
  | .dps n => 16 + n.val
  | .awg p => 48 + p.val
  | .dg p => 64 + p.val
  | .tmu n => 80 + n.val
  | .re k => 144 + k.val
  | .portM => 148

/-- Every switchable engine. -/
def allEngs : List Eng :=
  (List.finRange 16).map .plaza ++ (List.finRange 32).map .dps ++ (List.finRange 16).map .awg ++
  (List.finRange 16).map .dg ++ (List.finRange 64).map .tmu ++ (List.finRange 4).map .re ++ [.portM]

/-- The engine counts as OFF: STATE reads OFF outside the one cycle of R42. DESIGN CHOICE (R42 settles it
for IDLE only, notes/assumptions/211.md): that cycle counts as OFF for no rule, neither for the RL fields
of PLZ_CFG (R28) nor for the acceptance of STANDBY and DEEP SLEEP (R33). -/
def isOff (s : State) (e : Eng) : Bool := (getEng s e).st == .off && !(getEng s e).offCycle

def isOn (s : State) (e : Eng) : Bool := (getEng s e).st == .on

/-! ### Site widths -/

/-- W of a Plaza: 4, 8, 16, 32 or 64 (Table ARC-3). -/
def widthOf (s : State) (p : Fin 16) : Nat := min (2 ^ ((s.plz[p]).cfg.width.toNat + 2)) 64

/-! ### Pairs of Lanes (R343) -/

/-- The other Lane of the pair 2m, 2m + 1. -/
def partner (n : Fin 64) : Fin 64 :=
  Fin.ofNat 64 (if n.val % 2 = 0 then n.val + 1 else n.val - 1)

/-- The even Lane of the pair. -/
def evenOf (n : Fin 64) : Fin 64 := Fin.ofNat 64 (n.val / 2 * 2)

end Sys2Proof.Machine
end

