-- ==== Sys2Proof/Machine/CalOps.lean ====
section
/-! DEFINITION. Calibration sets as they are held and used (13_calibration_thermal, R367 to R372),
and the conversion of a requested value into a DAC code (03_pin_channels, R105 to R107). -/

namespace Sys2Proof.Machine

/-! ### Sets -/

/-- NENT (Table CAL-2). -/
def calNent : CalKey → Nat
  | .chDc _ => 1408
  | .deskew _ _ => 64
  | .dig _ => 3
  | .awg _ => 4
  | .dps _ => 21
  | .mon _ => 1

/-- KIND (Table CAL-2). -/
def calKind : CalKey → Nat
  | .chDc _ => 0
  | .deskew _ _ => 1
  | .dig _ => 2
  | .awg _ => 3
  | .dps _ => 4
  | .mon _ => 5

/-- INDEX (Table CAL-2). -/
def calIndex : CalKey → Nat
  | .chDc p => p.val
  | .deskew p _ => p.val
  | .dig p => p.val
  | .awg p => p.val
  | .dps n => n.val
  | .mon n => n.val

/-- BAND of a header. -/
def calBand : CalKey → Nat
  | .deskew _ b => b.val
  | _ => 0

/-- The reset set of R370; a DESKEW set's entries are the held table. -/
def resetSet (k : CalKey) : CalSet :=
  { key := k, loaded := false, count := 0, wall := 0, tick := 0, temp := 0, refin := 0, spans := 0,
    entries := [] }

def calSet (s : State) (k : CalKey) : CalSet :=
  (s.cal.sets.find? fun c => c.key == k).getD (resetSet k)

def setCal (s : State) (c : CalSet) : State :=
  { s with cal := { s.cal with sets := c :: s.cal.sets.filter fun x => x.key != c.key } }

/-- A set is valid while COUNT is not 0 or LOADED is 1 (R370). -/
def calValid (s : State) (k : CalKey) : Bool :=
  (calSet s k).count != 0 || (calSet s k).loaded

/-- Words 0 and 1 of entry i: those of the set, else those of the reset set (R368, R370). -/
def calEntry (s : State) (k : CalKey) (i : Nat) : Word × Word :=
  match (calSet s k).entries[i]? with
  | some e => e
  | none =>
    match k with
    | .chDc _ => if i % 22 = 21 then (BitVec.ofNat 32 (400 + at_ 16 400), 0) else (0, 0)
    | _ => (0, 0)

/-- DW_H and DW_L of a detection-width entry (R368). -/
def dwOf (e : Word × Word) : Nat × Nat := (bits e.1 15 0, bits e.1 31 16)

/-- GERR and O of an entry, signed. -/
def calGO (s : State) (k : CalKey) (i : Nat) : Int × Int :=
  ((calEntry s k i).1.toInt, (calEntry s k i).2.toInt)

/-- A reading of MONADCn of x units of 0.1 uV, as its ideal equation gives it, corrected by its set (R368). -/
def monRead (s : State) (n : Fin 8) (x : Int) : Int :=
  let go := calGO s (.mon n) 0
  (2 * (x * (2 ^ 31 + go.1)) + 2 ^ 31).fdiv (2 * 2 ^ 31) + go.2

/-! ### Codes (R105 to R107) -/

/-- V_LO and V_HI of a span in uV (Table PIN-3); codes 6 and 7 are invalid. -/
def spanRange (c : BitVec 3) : Option (Int × Int) :=
  match c.toNat with
  | 0 => some (0, 2500000)
  | 1 => some (0, 5000000)
  | 2 => some (0, 10000000)
  | 3 => some (-2500000, 2500000)
  | 4 => some (-5000000, 5000000)
  | 5 => some (-2000000, 7000000)
  | _ => none

/-- The code nearest 0 V (Table PIN-3). -/
def spanZero (c : BitVec 3) : BitVec 16 :=
  match c.toNat with
  | 3 => 0x8000
  | 4 => 0x8000
  | 5 => 0x38E4
  | _ => 0

/-- round(num / den), halves upward (R107). -/
def roundUp (num : Int) (den : Nat) : Int := (2 * num + den).fdiv (2 * den)

/-- a / b rounded to the nearest, halves away from zero (R252, R265). -/
def divAway (a : Int) (b : Nat) : Int :=
  let q : Int := ((2 * a.natAbs + b) / (2 * b) : Nat)
  if a < 0 then -q else q

/-- A code within 0 to 2^w - 1, or none (R107 step 3). -/
def inCode (w : Nat) (n : Int) : Option (BitVec w) :=
  if 0 ≤ n ∧ n < 2 ^ w then some (BitVec.ofInt w n) else none

/-- X' = G X + O in units of 1/(u 2^31), u units of O making one unit of X (R368). -/
def corrected (u : Nat) (x : Int) (go : Int × Int) : Int :=
  u * x * (2 ^ 31 + go.1) + go.2 * 2 ^ 31

/-- Code of a voltage of x uV in a span, with a correction (R107). -/
def voltCode (span : BitVec 3) (go : Int × Int) (x : Int) : Option (BitVec 16) :=
  match spanRange span with
  | none => none
  | some (lo, hi) =>
    let k : Nat := 10 * 2 ^ 31
    inCode 16 (roundUp (65536 * (corrected 10 x go - lo * k)) ((hi - lo).toNat * k))

/-- Code of a load current of x nA (R106, R107). -/
def loadCode (go : Int × Int) (x : Int) : Option (BitVec 16) :=
  inCode 16 (roundUp (65536 * corrected 100 x go) (25600000 * (100 * 2 ^ 31)))

/-- Full scale R of a PMU range in nA (Table PIN-10). -/
def pmuScale (r : Nat) : Nat :=
  match r with
  | 0 => 2000
  | 1 => 20000
  | 2 => 200000
  | 3 => 2000000
  | _ => 64000000

/-- Code of a PMU current of x / n nA in a range (R106, R107, R122). -/
def pmuCode (r : Nat) (go : Int × Int) (x : Int) (n : Nat) : Option (BitVec 16) :=
  let k : Nat := 100 * 2 ^ 31
  let num := 100 * x * (2 ^ 31 + go.1) + n * go.2 * 2 ^ 31
  inCode 16 (32768 + roundUp (32768 * 4 * num) (5 * pmuScale r * n * k))

/-- The value in uV nearest to what a code stands for in a span (R105; notes/assumptions/16.md). -/
def codeVolt (span : BitVec 3) (n : BitVec 16) : Int :=
  match spanRange span with
  | none => 0
  | some (lo, hi) => lo + roundUp ((hi - lo) * n.toNat) 65536

/-- The value in nA nearest to what a load code stands for (R106). -/
def codeLoad (n : BitVec 16) : Int := roundUp (25600000 * (n.toNat : Int)) 65536

/-- The correction of quantity q of channel c: the CH_DC set's while the span of the quantity's
group is the one recorded with the set, else none (R371). -/
def chanGO (s : State) (c : Fin 1024) (q : Nat) : Int × Int :=
  let p := chPlaza c
  let pin := (s.plz[p]).pin
  let sp := (calSet s (.chDc p)).spans
  let same : Bool :=
    if q ≤ 1 then bits sp 2 0 == pin.drvSpan.toNat
    else if q ≤ 3 then bits sp 5 3 == pin.cmpSpan.toNat
    else if q = 4 then bits sp 8 6 == pin.vtSpan.toNat
    else if q ≤ 6 then true
    else if q ≤ 8 then bits sp 11 9 == pin.clampSpan.toNat
    else if q = 9 then bits sp 14 12 == pin.fvSpan.toNat
    else true
  if same then calGO s (.chDc p) (22 * (chIx c).val + q) else (0, 0)

end Sys2Proof.Machine
end

