-- ==== Sys2Proof/Machine/PinOps.lean ====
section
/-! DEFINITION. The park store and parking, level codes, and what a Plaza's channels do as the
Plaza changes state (03_pin_channels, R107 to R127). -/

namespace Sys2Proof.Machine

/-! ### CRC-32C and the park store (R125 to R127) -/

/-- Eight steps of the reflected CRC-32C register (R125). -/
def crcByte (c : BitVec 32) (b : Byte) : BitVec 32 :=
  (List.range 8).foldl (fun c _ => if c.getLsbD 0 then (c >>> 1) ^^^ 0x82F63B78#32 else c >>> 1)
    (c ^^^ b.zeroExtend 32)

def crc32c (bs : List Byte) : BitVec 32 := (bs.foldl crcByte 0xFFFFFFFF#32) ^^^ 0xFFFFFFFF#32

/-- n bytes of an image from offset a are 0. -/
def zeroAt (img : Mem) (a n : Nat) : Bool := (Mem.readBytes 0 img a n).all (· == 0)

def imgNum (img : Mem) (a n : Nat) : Nat := leNat (Mem.readBytes 0 img a n)

/-- The reserved bits and bytes of a park image are 0 (Table PIN-11). -/
def parkZeros (img : Mem) : Bool :=
  zeroAt img 2 2 && zeroAt img 8 8 &&
  (List.range 32).all (fun n =>
    imgNum img (0x890 + 8 * n) 4 < 2 ^ 18 && imgNum img (0x894 + 8 * n) 4 < 2) &&
  (List.range 16).all (fun p => zeroAt img (0x990 + 32 * p + 22) 10) &&
  (List.range 16).all (fun a => imgNum img (0xB90 + 4 * a) 4 < 2 ^ 17) &&
  zeroAt img 0xBD0 1068

/-- The integrity check of R126 on a park image. -/
def parkGood (img : Mem) : Bool :=
  imgNum img 0xFFC 4 == (crc32c (Mem.readBytes 0 img 0 0xFFC)).toNat && imgNum img 0 2 == 1 && parkZeros img

/-- Park mode of channel c: PARK_LEVEL (R51, R125). -/
def parkLevelCh (s : State) (c : Fin 1024) : Bool :=
  !s.park.bad && (Mem.read 0 s.park.active (0x810 + c.val / 8)).getLsbD (c.val % 8)

/-- Park code of channel c, in O1 (R51, R125). -/
def parkCodeCh (s : State) (c : Fin 1024) : BitVec 16 :=
  if s.park.bad then 0x38E4 else BitVec.ofNat 16 (imgNum s.park.active (0x010 + 2 * c.val) 2)

/-- The span in force of quantity q of a Plaza's DACs, where it is a voltage (R108). -/
def spanOf (n : Pin) (q : Nat) : BitVec 3 :=
  if q ≤ 1 then n.drvSpan else if q ≤ 3 then n.cmpSpan else if q = 4 then n.vtSpan
  else if q ≤ 8 then n.clampSpan else n.fvSpan

/-- Default code q of Plaza p: VIH VIL VOH VOL VT IOH IOL CLH CLL, PMU voltage, PMU current; where the store
fails its check, the code for 0 V in the DAC's span (R51, R105). -/
def defaultCode (s : State) (p : Fin 16) (q : Nat) : BitVec 16 :=
  if s.park.bad then
    (if q = 5 ∨ q = 6 then 0 else if q = 10 then 0x8000 else spanZero (spanOf (s.plz[p]).pin q))
  else BitVec.ofNat 16 (imgNum s.park.active (0x990 + 32 * p.val + 2 * q) 2)

/-- Park code and mode of DPSn; code 0 is 0 V (R51, R125, R316). -/
def parkCodeDps (s : State) (n : Fin 32) : BitVec 18 :=
  if s.park.bad then 0 else BitVec.ofNat 18 (imgNum s.park.active (0x890 + 8 * n.val) 4)
def parkLevelDps (s : State) (n : Fin 32) : Bool :=
  !s.park.bad && imgNum s.park.active (0x894 + 8 * n.val) 4 % 2 == 1

/-- Park code and mode of AWGa (R125, R272). -/
def parkCodeAwg (s : State) (a : Fin 16) : BitVec 16 :=
  if s.park.bad then 0x8000 else BitVec.ofNat 16 (imgNum s.park.active (0xB90 + 4 * a.val) 2)
def parkLevelAwg (s : State) (a : Fin 16) : Bool :=
  !s.park.bad && imgNum s.park.active (0xB92 + 4 * a.val) 1 % 2 == 1

/-! ### Parking a channel (R124) -/

/-- All four switches open (R48, R124). -/
def openChan (ch : Chan) : Chan :=
  { ch with sDrv := false, sPmu := false, sSns := false, sSt := false, drvOn := false,
            loadOn := false, clampOn := false, parked := false }

/-- A channel as its park mode sets: HIZ, or its park code on the VIL DAC through the driver; high-impedance in
the conditions of R48 whatever its park mode. -/
def parkChan (s : State) (c : Fin 1024) (ch : Chan) : Chan :=
  if parkLevelCh s c && !ch.hiz && dieLive s (peOf (chPlaza c)) then
    { openChan ch with sDrv := true, drvOn := true, drvBit := false, parked := true,
                       codes := ch.codes.set 1 (parkCodeCh s c) }
  else openChan ch

/-- The channel forces through its PMU: a PMU mode. -/
def pmuMode (ch : Chan) : Bool := ch.mode == .pmuFv || ch.mode == .pmuFi

/-- A channel as it stands while its Plaza is neither ON nor in FAULT (Table PIN-7). -/
def restChan (s : State) (c : Fin 1024) (ch : Chan) : Chan :=
  if pmuMode ch && dieLive s (peOf (chPlaza c)) then { openChan ch with sPmu := true, sSns := true }
  else parkChan s c ch

def mapChans (s : State) (p : Fin 16) (f : Fin 1024 → Chan → Chan) : State :=
  modPlz s p fun P => { P with chans := updAll P.chans fun k ch => f (chOf p k) ch }

/-- Plaza p's outputs park (R45, R124, R190). -/
def parkPlaza (s : State) (p : Fin 16) : State := mapChans s p (restChan s)

/-- On FAULT: channels in a PMU mode take MODE OFF, gangs dissolve, supply channels leave the set,
and every output parks (R45, R115). -/
def faultChans (s : State) (p : Fin 16) : State :=
  let gone : BitVec 64 := (List.finRange 64).foldl
    (fun m k => if pmuMode (s.plz[p]).chans[k] then m ||| (1#64 <<< k.val) else m) 0
  let s := mapChans s p fun c ch =>
    parkChan s c (if pmuMode ch then { ch with mode := .off, gang := 0, leader := none } else ch)
  modPlz s p fun P => { P with psup := P.psup &&& ~~~gone }

/-! ### Level codes (R107, R109, R114) -/

/-- The nine codes of a column entry on channel c, if every value converts. -/
def levelCodes (s : State) (c : Fin 1024) (e : LvlCol) : Option (List (BitVec 16)) :=
  let pin := (s.plz[chPlaza c]).pin
  let v (sp : BitVec 3) (q : Nat) (x : Int) := voltCode sp (chanGO s c q) x
  [v pin.drvSpan 0 e.vih, v pin.drvSpan 1 e.vil, v pin.cmpSpan 2 e.voh, v pin.cmpSpan 3 e.vol,
   v pin.vtSpan 4 e.vt, loadCode (chanGO s c 5) e.ioh, loadCode (chanGO s c 6) e.iol,
   v pin.clampSpan 7 e.clh, v pin.clampSpan 8 e.cll].mapM id

/-- The column of channel k in a Plaza of width W. -/
def colOf (w : Nat) (k : Fin 64) : Fin 64 := Fin.ofNat 64 (k.val % w)

/-- Nine level codes put over the first of eleven. -/
def overCodes (v : Vector (BitVec 16) 11) (cs : Vector (BitVec 16) 9) : Vector (BitVec 16) 11 :=
  updAll v fun i old => if h : i.val < 9 then cs[i.val] else old

/-- A channel's DACs take level codes; a parked channel keeps its park code, and one in a self-test takes them
at its end (R109, R124, R128). -/
def setCodes (ch : Chan) (cs : Vector (BitVec 16) 9) : Chan :=
  match ch.stSave with
  | some v => { ch with stSave := some (overCodes v cs) }
  | none =>
    let v := overCodes ch.codes cs
    { ch with codes := if ch.parked then v.set 1 ch.codes[1] else v }

/-- A channel's DACs take the codes of level set ls, with the corrections they were computed with. -/
def takeLevel (ls : Fin 8) (ch : Chan) : Chan := { setCodes ch ch.lvl[ls] with cmpGo := ch.lvlGo[ls] }

/-- Channel c with the codes of level set ls computed from its requested values in the spans in force; where
they do not convert, those it had (R109). -/
def compLevel (s : State) (c : Fin 1024) (ls : Fin 8) (ch : Chan) : Chan :=
  let p := chPlaza c
  let e := ((s.plz[p]).pin.levels[ls])[colOf (widthOf s p) (chIx c)]
  match levelCodes s c e with
  | none => ch
  | some cs =>
    { ch with lvl := ch.lvl.set ls (updAll ch.lvl[ls] fun i old => cs.getD i.val old),
              lvlGo := ch.lvlGo.set ls #v[chanGO s c 2, chanGO s c 3] }

/-- The codes of level set ls of Plaza p are computed (R109). -/
def storeLevel (s : State) (p : Fin 16) (ls : Fin 8) : State := mapChans s p fun c ch => compLevel s c ls ch

/-- Level set ls goes into the DACs of Plaza p, with the codes last computed for it (R109, R114). -/
def applyLevels (s : State) (p : Fin 16) (ls : Fin 8) : State :=
  mapChans s p fun _ => takeLevel ls

/-- The settle count starts (R114). -/
def startSettle (s : State) (p : Fin 16) : State :=
  modPin s p fun n => { n with settling := n.settle != 0 }

/-- The code of the PMU force DAC of channel c for its mode, range and force; n members (R122). -/
def forceCode (s : State) (c : Fin 1024) (mode : ChMode) (range : Nat) (force : Int) (n : Nat) :
    Option (BitVec 16) :=
  match mode with
  | .pmuFv => voltCode (s.plz[chPlaza c]).pin.fvSpan (chanGO s c 9) force
  | .pmuFi => pmuCode range (chanGO s c (10 + range)) force n
  | _ => some 0

/-- The channel of Plaza P whose entry rules channel k: the leader of its gang, or itself (R122). -/
def ruledBy (P : Plaza) (k : Fin 64) : Chan :=
  match P.chans[k].leader with
  | some l => P.chans[l]
  | none => P.chans[k]

/-- The force code of channel k of Plaza p under the entry that rules it; 0 for a mode that forces nothing. -/
def forceOf (s : State) (p : Fin 16) (k : Fin 64) : Option (BitVec 16) :=
  let r := ruledBy (s.plz[p]) k
  forceCode s (chOf p k) r.mode r.range r.force (max r.gang 1)

/-- A channel with the code of its PMU force-voltage or force-current DAC (R106, R108); one in a self-test takes
it at the test's end (R128). -/
def setForceCode (mode : ChMode) (v : Option (BitVec 16)) (ch : Chan) : Chan :=
  let put (i : Fin 11) (v : BitVec 16) : Chan :=
    match ch.stSave with
    | some c => { ch with stSave := some (c.set i v) }
    | none => { ch with codes := ch.codes.set i v }
  match mode, v with
  | .pmuFv, some v => put 9 v
  | .pmuFi, some v => put 10 v
  | _, _ => ch

/-- Every stored level set and channel configuration of Plaza p converts in the spans in force
(R109). -/
def convertible (s : State) (p : Fin 16) : Bool :=
  let P := s.plz[p]
  (List.finRange 64).all fun k =>
    let c := chOf p k
    let r := ruledBy P k
    ((List.finRange 8).all fun l =>
      (levelCodes s c (P.pin.levels[l])[colOf (widthOf s p) k]).isSome) &&
    (forceOf s p k).isSome &&
    (r.mode != .pmuFi ||
      ((voltCode P.pin.fvSpan (chanGO s c 9) r.vcHi).isSome &&
       (voltCode P.pin.fvSpan (chanGO s c 9) r.vcLo).isSome))

/-- A Plaza is committed: every level set's codes and every force code are computed in the spans in force
(R28, R109). -/
def commitCodes (s : State) (p : Fin 16) : State :=
  let s := (List.finRange 8).foldl (fun s l => storeLevel s p l) s
  mapChans s p fun c ch => setForceCode ch.mode (forceOf s p (chIx c)) ch

/-- A channel as it stands when its Plaza reaches ON: S_DRV of PE channels closed with the driver off,
S_SNS of PE_MON closed; other modes are as they were (Table PIN-7, R191). -/
def onChan (ch : Chan) : Chan :=
  if pmuMode ch || ch.mode == .off then ch
  else { ch with sDrv := true, sSns := ch.mode == .peMon, sPmu := false, sSt := false,
                 drvOn := false, hiz := false, parked := false, loadOn := false, clampOn := false }

/-- A Plaza reaches ON: channels, DACs at the level set in use, the settle count (R114, R191). -/
def onChans (s : State) (p : Fin 16) : State :=
  let s := mapChans s p fun _ ch => { onChan ch with lastBit := none }
  startSettle (applyLevels s p (s.plz[p]).pin.lsCur) p

/-- The level sets of Plaza p as its default codes stand for (R112). -/
def defaultLevels (s : State) (p : Fin 16) : Vector (Vector LvlCol 64) 8 :=
  let v (q : Nat) := codeVolt (if s.park.bad then spanOf (s.plz[p]).pin q else 5) (defaultCode s p q)
  let e : LvlCol :=
    { vih := v 0, vil := v 1, voh := v 2, vol := v 3, vt := v 4,
      ioh := codeLoad (defaultCode s p 5), iol := codeLoad (defaultCode s p 6),
      clh := v 7, cll := v 8 }
  Vector.replicate 8 (Vector.replicate 64 e)

/-- Every DAC of Plaza p at its code from the park store, switches open, level sets at their defaults (R49,
R112). `restore`: the codes of the level set in use are then computed in the spans in force (R36,
R109). -/
def loadDacs (s : State) (p : Fin 16) (restore : Bool) : State :=
  let raw : Vector (BitVec 16) 9 :=
    updAll (Vector.replicate 9 (0 : BitVec 16)) fun i _ => defaultCode s p i.val
  let t := mapChans s p fun c ch =>
    { openChan ch with codes := updAll ch.codes fun i _ => defaultCode s p i.val,
                       lvl := Vector.replicate 8 raw, stSave := none,
                       cmpGo := #v[chanGO s c 2, chanGO s c 3] }
  let t := modPin t p fun n => { n with levels := defaultLevels s p, lsCur := 0 }
  let t := (List.finRange 8).foldl (fun t l => storeLevel t p l) t
  if restore && !s.park.bad then applyLevels t p 0 else t

/-! ### The comparator self-test's switches and DACs (R128) -/

/-- A channel takes part in a self-test (R128). -/
def stTested (ch : Chan) : Bool := !pmuMode ch && ch.leader.isNone && ch.gang == 0

/-- Steps 1 and 2 of Table PIN-13 on a channel: S_ST alone closed, VT in B1 at T = 1 V, VOH = VOL = T. DESIGN CHOICE
(R128 does not say whether R107 corrects the code of VT, whose span B1 need not be the calibrated one,
notes/assumptions/252.md): VT takes the ideal code 0xB333, VOH and VOL the corrected ones. -/
def stBegin (s : State) (c : Fin 1024) (ch : Chan) : Chan :=
  let n := (s.plz[chPlaza c]).pin
  let th (q : Nat) (old : BitVec 16) : BitVec 16 := (voltCode n.cmpSpan (chanGO s c q) 1000000).getD old
  { openChan ch with sSt := true, stSave := some ch.codes,
                     codes := ((ch.codes.set 2 (th 2 ch.codes[2])).set 3 (th 3 ch.codes[3])).set 4 0xB333 }

/-- Step 7 of Table PIN-13: a tested channel's DACs and switches are restored. -/
def stEnd (s : State) (c : Fin 1024) (ch : Chan) : Chan :=
  match ch.stSave with
  | some v => restChan s c { ch with codes := v, stSave := none }
  | none => ch

/-- The self-test of operation id ends on every Plaza it runs on. -/
def endSelftest (s : State) (id : OpId) : State :=
  (List.finRange 16).foldl (fun s q =>
    if (s.plz[q]).pin.selftest = some id then
      modPin (mapChans s q (stEnd s)) q fun n => { n with selftest := none }
    else s) s

/-! ### What the comparators see (R102, R222) -/

/-- How far a pin at v uV stands above compare DAC q (2 VOH, 3 VOL) of channel c at code n, in units that only
its sign matters of: the DAC's voltage is that of R105, brought to the pin by the correction that the code was
computed with (R107, R109, R372). -/
def aboveDac (s : State) (c : Fin 1024) (q : Nat) (n : BitVec 16) (go : Int × Int) (v : Int) : Int :=
  match spanRange (spanOf (s.plz[chPlaza c]).pin q) with
  | none => 0
  | some (lo, hi) =>
    let k : Int := 10 * 2 ^ 31
    65536 * (corrected 10 v go - lo * k) - n.toNat * (hi - lo) * k

/-- CH and CL of a channel for a pin at v uV (R102). -/
def outH (s : State) (c : Fin 1024) (ch : Chan) (v : Int) : Bool := decide (0 < aboveDac s c 2 ch.codes[2] ch.cmpGo[0] v)
def outL (s : State) (c : Fin 1024) (ch : Chan) (v : Int) : Bool := decide (aboveDac s c 3 ch.codes[3] ch.cmpGo[1] v < 0)

/-- The voltage on one pin through a vector's cycle and the windows that reach past it: v0 in uV up to the first
step, then what each step sets, at a time in ps from the cycle start. -/
structure PinWave where
  chan  : Fin 1024
  v0    : Int
  steps : List (Int × Int)

/-- The waves of the pins that a VECTOR_PLAY gives voltages for; every other pin stands at 0 V
(notes/assumptions/216.md). -/
def pinWaves (levels : List (Fin 1024 × Int)) (steps : List PinStep) : List PinWave :=
  (levels.map (·.1) ++ steps.map (·.chan)).eraseDups.map fun c =>
    { chan := c, v0 := ((levels.find? (·.1 == c)).map (·.2)).getD 0,
      steps := (steps.filter (·.chan == c)).map fun x => (x.t, x.v) }

/-- The voltage of a pin at time t: a change at t itself has come (R222). -/
def pinAt (w : PinWave) (t : Int) : Int :=
  ((w.steps.filter fun x => decide (x.1 ≤ t)).getLast?.map (·.2)).getD w.v0

/-- An excursion from r to f in a window that closes at b counts: 400 ps of overlap, or the detection width dw
(R222). -/
def excursion (dw : Nat) (r f b : Int) : Bool :=
  decide (0 < min f b - r ∧ min (dw : Int) 400 ≤ min f b - r)

/-- An excursion that begins inside a window is counted; `up` is the one in progress, the list the output's changes
(R222). -/
def excursions (dw : Nat) (b : Int) : Option Int → List (Int × Bool) → Bool
  | none, [] => false
  | some r, [] => excursion dw r b b
  | up, (t, v) :: rest =>
    match up, v with
    | none, true => excursions dw b (some t) rest
    | none, false => excursions dw b none rest
    | some r, true => excursions dw b (some r) rest
    | some r, false => excursion dw r t b || excursions dw b none rest

/-- What a strobe reports of an output: the output as it stands (edge), or whether it was 1 in the window that b closes
(window) (R137, R222). -/
def strobeSees (dw : Nat) (win : Bool) (b : Int) (out0 : Bool) (xs : List (Int × Bool)) : Bool :=
  out0 || (win && excursions dw b none xs)

/-- The value that a strobe judges (Table CAP-1). -/
def judge (h l : Bool) : JVal :=
  match h, l with
  | false, true => .l
  | true, false => .h
  | false, false => .m
  | true, true => .t

def Seen.val (x : Seen) : JVal :=
  judge (strobeSees x.dwH x.win x.b x.h0 x.hs) (strobeSees x.dwL x.win x.b x.l0 x.ls)

/-- The park store is read and checked: its codes and modes are taken, or R51 applies (R126). -/
def parkLoad (s : State) : State :=
  let ok := parkGood s.park.image
  let s := { s with park := { s.park with
      loaded := true, bad := !ok, stands := !ok, active := if ok then s.park.image else [] } }
  if ok then s
  else postEq (report s 177 fcParkStore) none (mkEq s 0x0013 0 0 0)

end Sys2Proof.Machine
end

