-- ==== Sys2Proof/Machine/AwgOps.lean ====
section
/-! DEFINITION. The arbitrary waveform sources' shared operations: plays and their clocks, prefetch and
active segments, jump requests, the end of a run (09_waveform, R269 to R286). -/

namespace Sys2Proof.Machine

/-! ### Plays (R275, R277, R278) -/

/-- Source step of an entry, in 2^-32 samples. -/
def SeqEnt.step (e : SeqEnt) : Nat := if e.ftw = 0 then 2 ^ 32 else e.ftw.toNat

/-- Output samples of a play of len samples from a position of frac 2^-32 samples. -/
def playClocks (len frac step : Nat) : Nat := (len * 2 ^ 32 - frac + step - 1) / max step 1

/-- First DRAM address of AWGa's region (R273). -/
def awgBase (a : Fin 16) : Nat := 0xF00000000 + a.val * 0xC000000

/-- Sequence entry i of AWGa. -/
def seqEnt (A : Awg) (i : Nat) : SeqEnt :=
  A.seq.getD i { stop := true, evt := false, next := 0, wseg := 0, rep := 0, ftw := 0, phase := 0 }

/-- FS in uV (Table AWG-8). -/
def awgFs (r : Nat) : Nat :=
  match r with
  | 0 => 500000
  | 1 => 2500000
  | _ => 5000000

/-- What the prefetch holds of an entry's segment: none while it is being written (R275). -/
def fetchOf (A : Awg) (i : Nat) : Option (Fin 256 × Nat × Nat) :=
  let w := (seqEnt A i).wseg
  let g := A.wsegs[w]
  if !g.writing.isEmpty || g.len = 0 then none else some (w, g.off, g.len)

/-- The entry that follows the play in progress, where one does. -/
def nextEntry (A : Awg) : Option Nat :=
  match A.run.commit with
  | some j => if j.halt then none else some j.target
  | none =>
    if A.run.left ≠ 0 then some A.run.entry
    else if (seqEnt A A.run.entry).stop then none else some (seqEnt A A.run.entry).next

/-- The prefetch turns to the play that follows (R281). -/
def refetch (A : Awg) : Awg :=
  match A.run.phase with
  | .armed => { A with run := { A.run with pre := fetchOf A A.run.entry } }
  | .playing => { A with run := { A.run with pre := (nextEntry A).bind (fetchOf A) } }
  | _ => A

/-- An AWG_WRITE of wave segment w has ended: a prefetch that waited for it goes on (R275). -/
def endWrite (A : Awg) (w : Fin 256) (id : OpId) : Awg :=
  let g := A.wsegs[w]
  let A := { A with wsegs := A.wsegs.set w { g with writing := g.writing.filter (· != id) } }
  if A.run.pre.isNone then refetch A else A

/-- The decision point of the play in progress: the pending request, which came at or before it, is committed
(R282). Where its command has not come by the play's end, the end passes it. -/
def decideNow (A : Awg) : Awg :=
  if A.run.phase = .playing && !A.run.decided then
    refetch { A with run := { A.run with decided := true, commit := A.run.pend, pend := none } }
  else A

/-- Wave segment w, or a range, is active (R275). -/
def wsegActive (A : Awg) (w : Fin 256) : Bool :=
  (A.run.play.toList ++ A.run.pre.toList).any fun x => x.1 == w
def rangeActive (A : Awg) (off len : Nat) : Bool :=
  (A.run.play.toList ++ A.run.pre.toList).any fun x => off < x.2.1 + x.2.2 && x.2.1 < off + len

/-! ### Runs (R279, R280) -/

/-- AWG_RUN may start (R279). -/
def awgReady (s : State) (a : Fin 16) (d : List Word) : Bool :=
  isOn s (.awg a) && !((s.awg[a]).seq.isEmpty) && bits (wd d 3) 9 0 < (s.awg[a]).seq.length

/-- An AWG_RUN arms; the prefetch of its first play begins. -/
def armAwg (s : State) (a : Fin 16) (id : OpId) (d : List Word) : State :=
  let trig := bits (wd d 3) 17 16
  let e := bits (wd d 3) 9 0
  modAwg s a fun A => refetch
    { A with run :=
      { phase := .armed, op := some id, trig := trig, mid := BitVec.ofNat 16 (bits (wd d 4) 15 0),
        entry := e, left := (seqEnt A e).rep, fired := trig == 0 } }

/-- The next AWG_RUN that waits arms; one that cannot start ends with E_ARG (notes/assumptions/20.md). -/
def awgNext : List OpId → State → Fin 16 → State
  | [], s, a => modAwg s a fun A => { A with queue := [] }
  | id :: r, s, a =>
    match op? s id with
    | some o =>
      if o.live then
        if awgReady s a o.cur then
          armAwg (modAwg s a fun A => { A with queue := r }) a id o.cur
        else awgNext r (finishOp s id eArg []) a
      else awgNext r s a
    | none => awgNext r s a

/-- A pending request is discarded: its AWG_JUMP ends with E_ABORTED (R283). -/
def dropJump (s : State) (j : Option AJump) : State :=
  finishAll s ((j.bind (·.op)).toList) eAborted

/-! ### The DAC (R271, R286) -/

/-- The entries of AWGa's calibration set. -/
def awgCal (s : State) (a : Fin 16) : List (Word × Word) := (List.range 4).map (calEntry s (.awg a))

/-- Gain error and offset of an entry of those in force. -/
def Awg.go (A : Awg) (i : Nat) : Int × Int :=
  let e := (A.corr[i]?).getD (0, 0)
  (e.1.toInt, e.2.toInt)

/-- The code that the DAC takes for code n in a range: the output FS (n - 32,768) / 32,768 with gain and offset
(R107, R271, notes/assumptions/149.md). -/
def awgDac (go : Int × Int) (range : Nat) (n : BitVec 16) : Option (BitVec 16) :=
  let fs := awgFs range
  inCode 16 (32768 + roundUp (10 * fs * (n.toNat - 32768) * (2 ^ 31 + go.1) + 32768 * go.2 * 2 ^ 31)
    (10 * fs * 2 ^ 31))

/-- The code that AWGa's DAC takes for code n in range r. Where the corrected code lies beyond the DAC's, the spec gives
none and it is a free value (R271, notes/assumptions/149.md). -/
def dacCode (s : State) (a : Fin 16) (r : Nat) (n : BitVec 16) : BitVec 16 × State :=
  match awgDac ((s.awg[a]).go r) r n with
  | some c => (c, s)
  | none => takeFree s 16

/-- AWGa holds a code: parked in RANGE 2, else in the range of its set-up (R271, R272). -/
def holdCode (s : State) (a : Fin 16) (n : BitVec 16) (parked : Bool) : State :=
  let s := modAwg s a fun A => { A with code := n, parked := parked }
  let c := dacCode s a (if parked then 2 else (s.awg[a]).range) n
  modAwg c.2 a fun A => { A with dac := c.1 }

/-- Full scale of the offset DAC in uV. -/
def awgOffsetScale : Nat := 4000000 + Config.awgOffsetFs

/-- The offset converts under the calibration in force, or where the AWG is OFF under the one that its next
start takes (R286, R372). -/
def awgOfsOk (s : State) (a : Fin 16) (ofs : Int) : Bool :=
  let A := s.awg[a]
  let e := (if isOff s (.awg a) then (awgCal s a)[3]? else A.corr[3]?).getD (0, 0)
  decide ((corrected 10 ofs (e.1.toInt, e.2.toInt)).natAbs ≤ awgOffsetScale * (10 * 2 ^ 31))

/-- The set-up of an AWG_CFG applies at once: an output that is not parked moves with it (R286). -/
def setRange (s : State) (a : Fin 16) (range : Nat) (ofs : Int) : State :=
  let s := modAwg s a fun A => { A with range := range, ofs := ofs }
  holdCode s a (s.awg[a]).code (s.awg[a]).parked

/-- The code of source sample i of the play in progress. -/
def sampleCode (s : State) (a : Fin 16) (off i : Nat) : BitVec 16 :=
  BitVec.ofNat 16 (leNat (dramRead s (awgBase a + 2 * (off + i)) 2)) + 0x8000

/-- Some codes, each with the one that AWGa's DAC takes for it in the range of its set-up. -/
def dacCodes (a : Fin 16) : List (BitVec 16) → State → List (BitVec 16 × BitVec 16) × State
  | [], s => ([], s)
  | n :: l, s =>
    let c := dacCode s a (s.awg[a]).range n
    let r := dacCodes a l c.2
    ((n, c.1) :: r.1, r.2)

/-- What the DAC puts out in the play in progress: its source samples where every one passes unchanged, and free codes
where the resampler's filter makes them (R271, R277; notes/assumptions/40.md). -/
def waveOf (s : State) (a : Fin 16) : List (BitVec 16 × BitVec 16) × State :=
  let A := s.awg[a]
  let e := seqEnt A A.run.entry
  match A.run.play with
  | none => ([], s)
  | some (_, off, len) =>
    if e.ftw = 0 && A.run.frac == 0 then dacCodes a ((List.range len).map (sampleCode s a off)) s
    else
      let n := playClocks len A.run.frac e.step
      let f := takeFree s (16 * n)
      dacCodes a ((List.range n).map fun i => f.1.extractLsb' (16 * i) 16) f.2

/-- The code put out last after `n` clocks of the play in progress. -/
def codeAfter (s : State) (a : Fin 16) (n : Nat) : BitVec 16 :=
  let A := s.awg[a]
  if n = 0 then A.code else ((A.wave[min n A.wave.length - 1]?).map (·.1)).getD A.code

/-- The code of the last sample of the play in progress. -/
def lastCode (s : State) (a : Fin 16) : BitVec 16 := codeAfter s a (s.awg[a]).wave.length

/-- The run of AWGa ends (R280): results, requests, the held output, the next AWG_RUN. `clocks`: DAC clocks
from the first output sample; `code`: what the output holds. -/
def awgStop (s : State) (a : Fin 16) (status : BitVec 8) (clocks : Nat) (code : BitVec 16) : State :=
  let r := (s.awg[a]).run
  let under : Bool := status == eUnderrun
  let s := modAwg s a fun A =>
    { A with run := { phase := if r.phase = .playing ∨ A.ran then .holding else .none,
                      entry := r.entry },
             wave := [], ran := A.ran || r.phase == .playing, under := A.under || under }
  let s := if r.phase = .playing then holdCode s a code false else s
  let s := dropJump (dropJump s r.commit) r.pend
  let c := BitVec.ofNat 64 clocks
  let s := r.op.toList.foldl (fun s i => finishOp s i status
    [c.setWidth 32, (c >>> 32).setWidth 32, BitVec.ofNat 32 r.entry,
     BitVec.ofNat 32 (4 * b2n r.jumped + 2 * b2n r.preset + b2n under)]) s
  awgNext (inOrder s (s.awg[a]).queue) s a

/-- A run that is armed or playing ends at an instant that no command gives: the clocks of the play in
progress are free, and with them which sample is held (notes/assumptions/40.md). -/
def awgAbort (s : State) (a : Fin 16) (status : BitVec 8) : State :=
  let r := (s.awg[a]).run
  match r.phase with
  | .armed => awgStop s a status 0 (s.awg[a]).code
  | .playing =>
    let f := takeFree s 32
    let n := f.1.toNat % ((s.awg[a]).wave.length + 1)
    awgStop f.2 a status (r.clocks + n) (codeAfter s a n)
  | _ => s

/-- A play of entry e begins, and with it what the DAC puts out (R271, R278, Table AWG-3). `first`: it is the run's first. -/
def playBegin (s : State) (a : Fin 16) (e left frac : Nat) (first reset : Bool)
    (g : Fin 256 × Nat × Nat) : State :=
  let ent := seqEnt s.awg[a] e
  let s := modAwg s a fun A =>
    let late : Bool := ent.stop && left == 0 && (A.run.pend.map (·.late)).getD false
    refetch
      { A with preset := A.preset || (reset && !first),
               run := { A.run with
                 phase := .playing, entry := e, left := left, decided := false, commit := none,
                 frac := if reset then ent.phase.toNat * 2 ^ 16 else frac,
                 preset := A.run.preset || (reset && !first), play := some g,
                 pend := if late then none
                   else A.run.pend.map fun j => { j with late := false } } }
  let w := waveOf s a
  let s := modAwg w.2 a fun A => { A with wave := w.1 }
  if ent.evt then fire s (0x71 + a.val) (e % 256) else s

/-- A late request that would take effect after the last play of a STOP entry (R282). -/
def lateStop (A : Awg) (e left : Nat) : Option AJump :=
  if (seqEnt A e).stop ∧ left = 0 then A.run.pend.filter (·.late) else none

/-- AWGa takes a jump request (R283). -/
def requestAJump (s : State) (a : Fin 16) (j : AJump) : State :=
  let s := dropJump s (s.awg[a]).run.pend
  modAwg s a fun A => { A with run := { A.run with pend := some { j with late := A.run.decided } } }

/-! ### Output (R269, R272) -/

/-- AWGa parks as its park-store entry sets, and holds no run's output any more (R272, R280); its switch opens
in the conditions of R48. -/
def parkAwg (s : State) (a : Fin 16) : State :=
  let lvl := parkLevelAwg s a && dieLive s (peOf a)
  let s := modAwg s a fun A =>
    { A with sAwg := A.sAwg && lvl, ran := false,
             run := if A.run.phase = .holding then { A.run with phase := .none } else A.run }
  holdCode s a (parkCodeAwg s a) true

/-- AWGa is OFF: powered down, S_AWG open whatever its park mode (Table AWG-7, notes/assumptions/105.md). -/
def offAwg (s : State) (a : Fin 16) : State :=
  modAwg (parkAwg s a) a fun A => { A with sAwg := false }

/-- AWGa enters STARTING: the set-up at code 0x8000, with the calibration set as it now stands (Table AWG-7,
R372). -/
def awgStarting (s : State) (a : Fin 16) : State :=
  let c := awgCal s a
  holdCode (modAwg s a fun A => { A with corr := c }) a 0x8000 false

/-- AWGa reaches ON: S_AWG closes (Table AWG-7). -/
def onAwg (s : State) (a : Fin 16) : State :=
  modAwg s a fun A => { A with sAwg := true, ran := false, run := {} }

end Sys2Proof.Machine
end

