-- ==== Sys2Proof/Machine/Awg.lean ====
section
/-! DEFINITION. The waveform commands (09_waveform, R269 to R288). -/

namespace Sys2Proof.Machine

/-- The AWG a descriptor names in word 2. -/
def awgIx (d : List Word) : Fin 16 := Fin.ofNat 16 (bits (wd d 2) 3 0)

/-- A run is armed or in progress. -/
def ARun.busy (r : ARun) : Bool :=
  match r.phase with | .armed | .playing => true | _ => false

def execAwgCfg (op : OpId) (s : State) : Out :=
  .next (runDesc s op 0x61 fun s _ d =>
    let a := awgIx d
    let r := bits (wd d 3) 1 0
    let ofs := (wd d 4).toInt
    if r = 3 || ofs < -4000000 || 4000000 < ofs || 7000000 < ofs.natAbs + awgFs r ||
        !awgOfsOk s a ofs || (s.awg[a]).run.busy then finishOp s op eArg []
    else finishOp (setRange s a r ofs) op stOk [])

def execAwgWrite (op : OpId) (s : State) : Out :=
  .next (runDesc s op 0x62 fun s _ d =>
    let a := awgIx d
    let w : Fin 256 := Fin.ofNat 256 (bits (wd d 2) 15 8)
    let off := bits (wd d 3) 26 0
    let len := bits (wd d 4) 26 0
    if off % 32 ≠ 0 || len % 32 ≠ 0 || len < 64 || 100663296 < off + len then
      finishOp s op eArg []
    else if wsegActive s.awg[a] w || rangeActive s.awg[a] off len then finishOp s op eResidency []
    else modAwg s a fun A =>
      { A with wsegs := A.wsegs.set w { off := off, len := len, writing := op :: (A.wsegs[w]).writing } })

def execAwgWriteDone (op : OpId) (s : State) : Out :=
  .next (onRunning s op 0x62 fun _ d =>
    let a := awgIx d
    let w : Fin 256 := Fin.ofNat 256 (bits (wd d 2) 15 8)
    let off := bits (wd d 3) 26 0
    let len := bits (wd d 4) 26 0
    let s := dramWrite s (awgBase a + 2 * off) (hostRead s (wd64 d 5) (2 * len))
    finishOp (modAwg s a fun A => endWrite A w op) op stOk [])

/-- A sequence entry from its 16 bytes; none where Table AWG-3 or R276 refuses it. -/
def parseSeqEnt (A : Awg) (nent : Nat) (b : List Byte) : Option SeqEnt :=
  let w := wordsOf 4 b
  let w0 := wd w 0
  let e : SeqEnt :=
    { stop := w0.getLsbD 29, evt := w0.getLsbD 28, next := bits w0 25 16,
      wseg := Fin.ofNat 256 (bits w0 7 0), rep := bits (wd w 1) 23 0, ftw := wd w 2,
      phase := BitVec.ofNat 16 (bits (wd w 3) 15 0) }
  if w0 &&& 0xCC00FF00#32 != 0 || bits (wd w 1) 31 24 ≠ 0 || bits (wd w 3) 31 16 ≠ 0 ||
      nent ≤ e.next || (A.wsegs[e.wseg]).len = 0 || (1 ≤ e.ftw.toNat && e.ftw.toNat ≤ 17179) then none
  else some e

def execAwgSeq (op : OpId) (s : State) : Out :=
  .next (runDesc s op 0x63 fun s _ d =>
    let a := awgIx d
    let n := bits (wd d 3) 10 0
    if (s.awg[a]).run.busy || n = 0 || 1024 < n then finishOp s op eArg []
    else
      let bs := hostRead s (wd64 d 4) (16 * n)
      match (List.range n).mapM fun i => parseSeqEnt s.awg[a] n (sliceB bs (16 * i) 16) with
      | none => finishOp s op eArg []
      | some es => finishOp (modAwg s a fun A => { A with seq := es }) op stOk [])

def execAwgRun (op : OpId) (s : State) : Out :=
  .next (runDesc s op 0x64 fun s _ d =>
    let a := awgIx d
    if (s.awg[a]).run.busy then modAwg s a fun A => { A with queue := enqueue s op A.queue }
    else if awgReady s a d then armAwg s a op d
    else finishOp s op eArg [])

def execAwgTrigger (a : PlazaIx) (s : State) : Out :=
  let A := s.awg[a]
  if A.run.phase = .armed ∧ A.run.fired then
    match A.run.pre with
    | some g => .next (playBegin s a A.run.entry A.run.left 0 true true g)
    | none => .next (awgStop s a eUnderrun 0 A.code)
  else .next s

def execAwgDecisionPoint (a : PlazaIx) (s : State) : Out :=
  let A := s.awg[a]
  if A.run.phase = .playing ∧ !A.run.decided then
    .next (modAwg s a decideNow)
  else .next s

def execAwgPlayEnd (a : PlazaIx) (s : State) : Out :=
  let s := modAwg s a decideNow
  let A := s.awg[a]
  let r := A.run
  match r.phase, r.play with
  | .playing, some (_, _, len) =>
    let e := seqEnt A r.entry
    let n := playClocks len r.frac e.step
    let frac := r.frac + n * e.step - len * 2 ^ 32
    let clocks := r.clocks + n
    let lc := lastCode s a
    match nextEntry A with
    | none =>
      let s := (r.commit.bind (·.op)).toList.foldl (fun s i => finishOp s i stOk
        [BitVec.ofNat 32 clocks, BitVec.ofNat 32 (clocks / 2 ^ 32)]) s
      let s := modAwg s a fun A =>
        { A with run := { A.run with commit := none, jumped := r.jumped || r.commit.isSome } }
      .next (awgStop s a stOk clocks lc)
    | some i =>
      match r.pre with
      | none => .next (awgStop s a eUnderrun clocks lc)
      | some g =>
        let ops := (r.commit.bind (·.op)).toList
        let s := ops.foldl (fun s i => finishOp s i stOk
          [BitVec.ofNat 32 clocks, BitVec.ofNat 32 (clocks / 2 ^ 32)]) s
        let s := modAwg (holdCode s a lc false) a fun A =>
          { A with run := { A.run with clocks := clocks, jumped := r.jumped || r.commit.isSome } }
        let left := if r.commit.isNone && r.left != 0 then r.left - 1 else (seqEnt A i).rep
        let reset : Bool := (seqEnt A i).ftw != e.ftw || (seqEnt A i).phase != e.phase
        let gone := lateStop s.awg[a] i left
        .next (dropJump (playBegin s a i left frac false reset g) gone)
  | _, _ => .next s

def execAwgUnderrun (a : PlazaIx) (clocks : Nat) (s : State) : Out :=
  let r := (s.awg[a]).run
  if r.phase = .playing then
    .next (awgStop s a eUnderrun (r.clocks + clocks) (codeAfter s a clocks))
  else .next s

def execAwgJump (op : OpId) (s : State) : Out :=
  .next (runDesc s op 0x65 fun s _ d =>
    let a := awgIx d
    let halt := (wd d 3).getLsbD 16
    let t := bits (wd d 3) 9 0
    if !(s.awg[a]).run.busy || (!halt && (s.awg[a]).seq.length ≤ t) then finishOp s op eArg []
    else requestAJump s a { halt := halt, target := t, op := some op })

/-- The AWG's Lane start task (Table LAN-2): a run armed with TRIG 1 is triggered. -/
def awgLaneStart (s : State) (a : Fin 16) : State :=
  modAwg s a fun A =>
    if A.run.phase = .armed ∧ A.run.trig = 1 then { A with run := { A.run with fired := true } } else A

/-- The AWG's Lane jump task: a request to AWG_JTGT on a run in progress (R283); a target beyond the
sequence is none (notes/assumptions/41.md). -/
def awgLaneJump (s : State) (a : Fin 16) : State :=
  let A := s.awg[a]
  if A.run.phase = .playing ∧ (A.jHalt ∨ A.jTgt.toNat < A.seq.length) then
    requestAJump s a { halt := A.jHalt, target := A.jTgt.toNat, op := none }
  else s

end Sys2Proof.Machine
end

