-- ==== Sys2Proof/Machine/DpsOps.lean ====
section
/-! DEFINITION. The device power supplies' shared operations: codes, set-ups, start and stop, parking,
window monitors, trips and blanking (11_power, R315 to R335). The engine's states are in EngOps. -/

namespace Sys2Proof.Machine

/-! ### Codes (R315, R316, R325) -/

/-- R of a current range in nA (Table PWR-3). -/
def dpsScale (r : Nat) : Nat :=
  match r with
  | 0 => 5000
  | 1 => 50000
  | 2 => 500000
  | 3 => 5000000
  | 4 => 50000000
  | _ => 2000000000

/-- GERR and O of an entry of a list of entries; none listed is no correction. -/
def goOf (es : List (Word × Word)) (i : Nat) : Int × Int :=
  let e := es.getD i (0, 0)
  (e.1.toInt, e.2.toInt)

/-- Code of a voltage of x uV (R107, R316). -/
def dpsVolt (go : Int × Int) (x : Int) : Option (BitVec 18) :=
  inCode 18 (roundUp (262144 * corrected 10 x go) (16384000 * 10 * 2 ^ 31))

/-- Code of a current limit of x nA in range r (R107, R316). -/
def dpsAmp (r : Nat) (go : Int × Int) (x : Int) : Option (BitVec 18) :=
  inCode 18 (roundUp (262144 * 4 * corrected 100 x go) (5 * dpsScale r * 100 * 2 ^ 31))

/-- The entries of DPSn's calibration set (Table CAL-3). -/
def dpsCal (s : State) (n : Fin 32) : List (Word × Word) :=
  (List.range 21).map fun i => calEntry s (.dps n) i

/-- A set-up converts under some entries. -/
def DpsCfg.converts (c : DpsCfg) (es : List (Word × Word)) : Bool :=
  (dpsVolt (goOf es 0) c.vset).isSome && (dpsAmp c.range (goOf es (1 + c.range)) c.isrc).isSome &&
    (dpsAmp c.range (goOf es (1 + c.range)) c.isnk).isSome

/-- Code of the set voltage of a set-up; one that does not convert leaves the DAC (R316). -/
def Dps.code (D : Dps) (c : DpsCfg) : BitVec 18 := (dpsVolt (goOf D.corr 0) c.vset).getD D.vcode

/-- Code of the linear stage at 0 V. -/
def Dps.zeroCode (D : Dps) : BitVec 18 := (dpsVolt (goOf D.corr 0) 0).getD 0

/-- A set-up comes into force: its range and its limit codes; the voltage code follows its ramp. -/
def Dps.setLimits (D : Dps) (c : DpsCfg) : Dps :=
  let go := goOf D.corr (1 + c.range)
  { D with live := c, srcCode := (dpsAmp c.range go c.isrc).getD D.srcCode,
           snkCode := (dpsAmp c.range go c.isnk).getD D.snkCode }

/-- Blanking is in force: throughout STARTING, during the ramp of a DPS_CFG, and while a BLANK count runs
(R329). -/
def Dps.blanked (D : Dps) : Bool := D.eng.st == .starting || D.ramping || D.blankCount

/-- Highest voltage an output can hold, in uV: the lower of 15.0 V and VIN - 2.5 V (Table PWR-3). -/
def dpsTop (s : State) : Int := min 15000000 ((s.pwr.vin.toNat : Int) * 10000 - 2500000)

/-- The STARTING timeout in ms (Table PWR-16). -/
def dpsStartMs (s : State) : Nat := max s.tmo.dpsStart.toNat 1

/-! ### Parking (R325) -/

/-- The park code of DPSn, at most that of the highest voltage its output can hold. -/
def parkVcode (s : State) (n : Fin 32) : BitVec 18 :=
  BitVec.ofNat 18 (min (parkCodeDps s n).toNat (dpsTop s * 16 / 1000).toNat)

/-- DPSn holds its park code in RANGE 3 with limits of 5 mA, S_DPS closed. -/
def dpsHold (s : State) (n : Fin 32) (D : Dps) : Dps :=
  { D with sDps := true, sink := false, parked := true, vcode := parkVcode s n, srcCode := 209715,
           snkCode := 209715, live := { D.live with range := 3, isrc := 5000000, isnk := 5000000 } }

/-- DPSn parks: tripped, it is isolated; in PARK_LEVEL it holds its park code while power dies and PE
dies are up and no rail ramps (R48, R52); in HIZ S_DPS opens. -/
def parkDps (s : State) (n : Fin 32) : State :=
  modDps s n fun D =>
    if !D.tripped && parkLevelDps s n && peUp s && startedUp s && s.pwr.starting.isEmpty then dpsHold s n D
    else { D with sDps := false, sink := false, parked := false }

/-- A new VIN reading moves the bound of the parked codes (R325). -/
def reparkDps (s : State) : State :=
  (List.finRange 32).foldl (fun s n =>
    modDps s n fun D => if D.parked then { D with vcode := parkVcode s n } else D) s

/-! ### Start and stop (R319 to R323) -/

/-- STARTING begins with the discharge; the set-up and the calibration set come into force. -/
def dpsStarting (s : State) (n : Fin 32) : State :=
  let es := dpsCal s n
  modDps s n fun D =>
    { D with corr := es, live := D.cfg, sDps := false, sink := true, parked := false, stage := .discharge,
             ramping := false, dropout := false, discharged := false }

/-- The output is discharged in STARTING: the buck starts, S_DPS closes at 0 V and the ramp begins (R320). -/
def dpsRampUp (D : Dps) : Dps :=
  { D.setLimits D.live with sDps := true, sink := false, vcode := D.zeroCode, stage := .ramp }

/-- DPSn reaches ON: it regulates at VSET, and the BLANK count starts. -/
def dpsOn (s : State) (n : Fin 32) : State :=
  modDps s n fun D => { D with stage := .none, blankCount := true }

/-- STOPPING begins: the output ramps down, or a start that has not closed S_DPS goes on discharging. The ramp
of a DPS_CFG is over, which starts the BLANK count (R321, R329). -/
def dpsStopping (s : State) (n : Fin 32) : State :=
  modDps s n fun D =>
    { D with ramping := false, blankCount := D.blankCount || D.ramping,
             stage := if D.sDps then .ramp else .discharge, sink := !D.sDps }

/-- The output has reached 0 V in STOPPING: S_DPS opens, the buck stops, the sink acts (R321). -/
def dpsIsolate (D : Dps) : Dps :=
  { D with sDps := false, sink := true, vcode := D.zeroCode, stage := .discharge }

/-- DPSn reaches OFF: the trip latch clears, and it rests in its park mode. -/
def dpsOff (s : State) (n : Fin 32) : State :=
  parkDps (modDps s n fun D =>
    { D with tripped := false, tripCause := 0, stage := .none, ramping := false, dropout := false }) n

/-- DPSn enters FAULT: buck off, S_DPS open, the sink on until it is discharged (Table PWR-4). -/
def dpsFault (s : State) (n : Fin 32) : State :=
  modDps s n fun D =>
    { D with ramping := false, blankCount := D.blankCount || D.ramping, dropout := false, discharged := false,
             stage := .none, sDps := false, sink := true, parked := false }

/-- The output is at 100 mV or below. In FAULT a DPS that has not tripped then takes its park mode (R325, R45,
notes/assumptions/105.md). -/
def dpsDischarged (s : State) (n : Fin 32) : State :=
  let D := s.dps[n]
  match D.eng.st with
  | .fault =>
    if D.sink then parkDps (modDps s n fun D => { D with discharged := true, sink := false }) n else s
  | .starting => if D.stage = .discharge then modDps s n dpsRampUp else s
  | .stopping | .pendingOn =>
    if D.stage = .discharge then
      modDps s n fun D => { D with discharged := true, sink := false, stage := .none }
    else s
  | _ => s

/-! ### Window monitors (R326 to R331) -/

/-- A threshold of x uV at its DAC's step, in uV: the nearest, halves upward, within 12 bits. -/
def monVolt (go : Int × Int) (x : Nat) : Int :=
  4000 * clampInt 0 4095 (roundUp (corrected 10 x go) (4000 * 10 * 2 ^ 31))

/-- A current threshold of x nA in range r at its step, in units of R / 32768 x 10, that is nA times
32768 / (10 R); a value above 1.25 R acts at 1.25 R (4096 steps). -/
def monAmp (r : Nat) (go : Int × Int) (x : Nat) : Int :=
  clampInt 0 4096 (roundUp (32768 * corrected 100 x go) (10 * dpsScale r * 100 * 2 ^ 31))

/-- A current of x nA above n threshold steps in range r. -/
def aboveStep (r : Nat) (x n : Int) : Bool := decide (x * 32768 > n * (10 * dpsScale r))

/-- The cause for which the monitor of a DPS trips at an output of v uV and i nA (sourcing positive), the
voltage window first (R327, Table PWR-13): 1 voltage high, 2 low, 3 current source, 4 sink. -/
def monCause (D : Dps) (v i : Int) : Option (BitVec 4) :=
  let m := D.mon
  let r := D.live.range
  if m.vEn && decide (v > monVolt (goOf D.corr 14) m.vhi) then some 1
  else if m.vEn && decide (v < monVolt (goOf D.corr 14) m.vlo) then some 2
  else if m.iEn && aboveStep r i (monAmp r (goOf D.corr (15 + r)) m.isrcT) then some 3
  else if m.iEn && aboveStep r (-i) (monAmp r (goOf D.corr (15 + r)) m.isnkT) then some 4
  else none

/-- The BLANK count starts, or starts again (R329). -/
def blankDps (s : State) (n : Fin 32) : State := modDps s n fun D => { D with blankCount := true }

end Sys2Proof.Machine
end

