-- ==== Sys2Proof/Machine/TimOps.lean ====
section
/-! DEFINITION. Staged loads, quiet points and temperature bands of a Plaza (04_timing,
R143 to R152). -/

namespace Sys2Proof.Machine

/-- The target band of Plaza p: the forced band, else its die's; the applied band where the die has
had no sample (R149, R152). -/
def targetBand (s : State) (p : Fin 16) : Fin 8 :=
  let t := (s.plz[p]).tim
  if t.forceEn then t.band
  else ((s.thm.dies[(⟨p.val / 2, by omega⟩ : Fin 10)]).band).getD t.applied

/-- A set of kind DESKEW with the header of a procedure or a load. -/
def setHeader (s : State) (h : Option CalSet) : State :=
  match h with
  | none => s
  | some c => setCal s c

/-- One staged load takes effect in Plaza p (R143, R148). -/
def applyStaged (s : State) (p : Fin 16) : Staged → State
  | .ts i set id =>
    let s := modTim s p fun t => { t with ts := t.ts.set i set, valid := t.valid ||| (1#64 <<< i.val) }
    modOp s id fun o => { o with mask := o.mask ||| (1#16 <<< p.val) }
  | .dsk b tab _ h => setHeader (modTim s p fun t => { t with dsk := t.dsk.set b tab }) h

def Staged.op : Staged → OpId
  | .ts _ _ id => id
  | .dsk _ _ id _ => id

/-- Operation id has nothing staged on any Plaza. -/
def noneStaged (s : State) (id : OpId) : Bool :=
  (List.finRange 16).all fun p => (s.plz[p]).tim.staged.all fun x => x.op != id

/-- An operation whose loads are all in place ends with OK; TS_LOAD names its Plazas. -/
def endStaged (s : State) (id : OpId) : State :=
  if noneStaged s id then
    match op? s id with
    | none => s
    | some o =>
      let r : List Word :=
        if opcodeOf o.cur = 0x30 then [BitVec.ofNat 32 o.mask.toNat]
        else if opcodeOf o.cur = 0x81 then [0xFFFF] else []
      finishOp s id stOk r
  else s

/-- STALE clears once target and applied band agree (R151). -/
def clearStale (s : State) (p : Fin 16) : State :=
  if targetBand s p = (s.plz[p]).tim.applied then modTim s p fun t => { t with stale := false }
  else s

/-- The applied band becomes the target band; before the first sample of its die a Plaza applies band 0
(R150). -/
def applyBand (s : State) (p : Fin 16) : State :=
  let die : Fin 10 := ⟨p.val / 2, by omega⟩
  if ((s.thm.dies[die]).band).isSome then
    modTim s p fun t => { t with applied := targetBand s p, stale := false }
  else s

/-- One Plaza at a quiet point: every staged load applies in order, and the applied band becomes the
target band (R144, R145, R150). -/
def quietOne (s : State) (p : Fin 16) : State :=
  let st := (s.plz[p]).tim.staged
  let s := st.foldl (fun s x => applyStaged s p x) s
  let s := modTim s p fun t => { t with staged := [] }
  let s := applyBand s p
  st.foldl (fun s x => endStaged s x.op) s

/-- A quiet point of Plaza p and of the set it leads (R144). -/
def quietSet (s : State) (p : Fin 16) : State := (setOf s p).foldl quietOne s

/-- The Plaza is at a quiet point throughout: OFF or in FAULT (R144, R150). -/
def quietThroughout (s : State) (p : Fin 16) : Bool :=
  let st := (getEng s (.plaza p)).st
  st == .off || st == .fault

/-- A band change reaches Plaza p: applied at once where it is quiet throughout; STALE clears where
the target has returned (R150, R151). -/
def bandMoved (s : State) (p : Fin 16) : State :=
  clearStale (if quietThroughout s p then applyBand s p else s) p

/-- The staged loads of an operation are discarded (R143, R148). -/
def dropStaged (s : State) (id : OpId) : State :=
  (List.finRange 16).foldl (fun s p =>
    modTim s p fun t => { t with staged := t.staged.filter fun x => x.op != id }) s

/-- Every timing set of Plaza p at its default, none valid (R141). -/
def defaultTiming (t : Tim) : Tim :=
  { t with ts := Vector.replicate 64 {}, valid := 0, staged := [] }

end Sys2Proof.Machine
end

