-- ==== Sys2Proof/Machine/CapOps.lean ====
section
/-! DEFINITION. Record streams, site accounts and test steps as shared operations
(07_capture_verdicts, R223 to R243). -/

namespace Sys2Proof.Machine

/-- Head-wide number of the site at position j of Plaza p (Table ARC-2). -/
def headSite (s : State) (p : Fin 16) (j : Nat) : Nat := s.glb.chipid.toNat * 256 + 16 * p.val + j

/-- Number of sites of Plaza p. -/
def sitesOf (s : State) (p : Fin 16) : Nat := 64 / widthOf s p

/-- Site j of Plaza p takes part under a SITE_EN mask (R193). -/
def siteIn (m : BitVec 256) (p : Fin 16) (j : Nat) : Bool := m.getLsbD (16 * p.val + j)

/-! ### The FQ buffer (R225 to R228) -/

/-- Saturating increment of a 32-bit count. -/
def sat32 (n : Nat) : Nat := min (n + 1) 0xFFFFFFFF

/-- A record of Plaza p is lost and counted; `gap`: it joins the pending loss (R228). -/
def fqLose (s : State) (p : Fin 16) (cycle : BitVec 48) (stale gap : Bool) : State :=
  modCap s p fun c =>
    { c with
      lostTotal := sat32 c.lostTotal, lostRun := sat32 c.lostRun, lost := true,
      loss := if gap then
          some (match c.loss with
            | none => { first := cycle, stale := stale, last := cycle, count := 1 }
            | some l => { l with last := cycle, count := sat32 l.count })
        else c.loss }

/-- A record takes the next buffer entry and sequence number. -/
def fqPut (s : State) (p : Fin 16) (r : FqRec) : State :=
  let z := (s.plz[leaderOf s p]).run.zero
  modCap s p fun c =>
    { c with buf := c.buf ++ [{ r with ring := c.cur.fq, seqNo := c.seqNo, zero := z }],
             seqNo := c.seqNo + 1, peak := max c.peak (c.buf.length + 1) }

/-- The pending loss goes out as a GAP record with CAUSE 1, where fewer than `limit` entries are in
use (R228). -/
def fqFlush (s : State) (p : Fin 16) (limit : Nat) : State :=
  let c := (s.plz[p]).cap
  match c.loss with
  | none => s
  | some l =>
    if c.cur.fqEn && c.buf.length < limit then
      let len := l.last.toNat - l.first.toNat + 1
      let s := modCap s p fun c => { c with loss := none }
      fqPut s p
        { ring := 0, typ := 0x03, seqNo := 0, all := true, site := 0, cycle := l.first,
          stale := l.stale, w4 := BitVec.ofNat 32 len,
          w5 := BitVec.ofNat 32 (at_ 16 1 + len / 2 ^ 32 % 2 ^ 16),
          w6 := BitVec.ofNat 32 l.count }
    else s

/-- A record of Plaza p's stream: buffered, or lost (R228). The flag says it was buffered. -/
def fqEmit (s : State) (p : Fin 16) (r : FqRec) : State × Bool :=
  let special : Bool := r.typ == 0x03 || r.typ == 0x06
  let limit := if special then 4096 else 4080
  if !(s.plz[p]).cap.cur.fqEn then (fqLose s p r.cycle r.stale false, false)
  else
    let s := fqFlush s p limit
    if (s.plz[p]).cap.buf.length < limit then (fqPut s p r, true)
    else (fqLose s p r.cycle r.stale true, false)

/-- A GAP record for a HOLD of n cycles from a cycle (R186). -/
def fqHoldGap (s : State) (p : Fin 16) (first : BitVec 48) (n : Nat) (stale : Bool) : State :=
  (fqEmit s p
    { ring := 0, typ := 0x03, seqNo := 0, all := true, site := 0, cycle := first,
      stale := stale, w4 := BitVec.ofNat 32 n,
      w5 := BitVec.ofNat 32 (n / 2 ^ 32 % 2 ^ 16) }).1

/-- A MARKER record (Table CAP-5). -/
def fqMarker (s : State) (p : Fin 16) (cycle : BitVec 48) (user : BitVec 16) (tag : Word)
    (hdr : Bool) (mid : BitVec 16) (stale : Bool) : State :=
  (fqEmit s p
    { ring := 0, typ := 0x04, seqNo := 0, all := true, site := 0, cycle := cycle, user := user,
      stale := stale, w4 := BitVec.ofNat 32 (at_ 16 (b2n hdr) + mid.toNat),
      w5 := tag }).1

/-- The END record of a run with its status (Table CAP-5). -/
def fqEnd (s : State) (p : Fin 16) (cycle : BitVec 48) (status : BitVec 8) : State :=
  let c := (s.plz[p]).cap
  let n := sitesOf s p
  let failing := (ixs 16 fun j => j.val < n && c.acct[j].fcount != 0).length
  let nover := (ixs 16 fun j => j.val < n && c.acct[j].fcount > c.cur.failLimit).length
  (fqEmit s p
    { ring := 0, typ := 0x06, seqNo := 0, all := true, site := 0, cycle := cycle,
      stale := (s.plz[p]).tim.stale, w4 := BitVec.ofNat 32 status.toNat,
      w5 := BitVec.ofNat 32 failing, w6 := BitVec.ofNat 32 c.lostRun,
      w7 := BitVec.ofNat 32 (nover + at_ 16 (b2n c.mfRun)) }).1

/-- The 32 bytes of an FQ record, as words; word 1 without context and phase (Table CAP-4). -/
def fqWords (s : State) (p : Fin 16) (r : FqRec) : List Word :=
  [BitVec.ofNat 32 (at_ 16 r.seqNo.toNat + at_ 12 (b2n r.all) + at_ 8 p.val + r.typ.toNat),
   BitVec.ofNat 32 (at_ 30 (b2n r.stale) + at_ 12 (headSite s p r.site)),
   BitVec.ofNat 32 (r.cycle.toNat % 2 ^ 32),
   BitVec.ofNat 32 (at_ 16 r.user.toNat + r.cycle.toNat / 2 ^ 32), r.w4, r.w5, r.w6, r.w7]

/-- A run plays on Plaza p: its program is in progress. -/
def Run.on (r : Run) : Bool :=
  match r.phase with | .running | .hold | .waiting => true | _ => false

/-- A FAIL record of site j of Plaza p, of the run with timing-zero order z, is lost after it was queued: LOST of
the site in the run in progress, or in the open step that counted the run (Table CAP-14). -/
def failLost (s : State) (p : Fin 16) (j z : Nat) : State :=
  let r := (s.plz[leaderOf s p]).run
  if r.on && r.zero == z then
    modCap s p fun c => { c with acct := upd c.acct (Fin.ofNat 16 j) fun a => { a with lost := true } }
  else
    let f (x : SiteStep) : SiteStep := if x.site = 16 * p.val + j then { x with lost := true } else x
    { s with steps := s.steps.map fun t => if t.since ≤ z then { t with sites := t.sites.map f } else t }

/-- A detached FQ: FQ_EN clears on every Plaza bound to it, and what was queued for it is lost
(R228). -/
def dropFq (s : State) (n : RingId) : State :=
  (List.finRange 16).foldl (fun s p =>
    let gone := (s.plz[p]).cap.buf.filter fun r => r.ring == n
    let off (c : CapCfg) : CapCfg := if c.fq = n then { c with fqEn := false } else c
    let s := modCap s p fun c =>
      { c with buf := c.buf.filter fun r => r.ring != n, cur := off c.cur, next := off c.next }
    gone.foldl (fun s r =>
      let s := fqLose s p r.cycle r.stale false
      if r.typ = 0x01 then failLost s p r.site r.zero else s) s) s

/-! ### MQ records (R225, R240, R241) -/

/-- The 64 bytes of an MQ record, as words (Table CAP-4). -/
def mqWords (s : State) (r : MqRec) : List Word :=
  BitVec.ofNat 32 (at_ 16 r.hi.toNat + at_ 12 (b2n r.bit12) + at_ 8 r.plaza.val + r.typ.toNat) ::
  BitVec.ofNat 32 (at_ 30 (b2n r.stale) + at_ 12 (headSite s r.plaza r.site)) :: r.words

/-- No record of operation id waits. -/
def noRecords (s : State) (id : OpId) : Bool := s.mqPend.all fun m => m.op != id

/-- The operation ends with its kept completion once none of its records waits (R240). -/
def settleOp (s : State) (id : OpId) : State :=
  match op? s id with
  | none => s
  | some o =>
    match o.after with
    | none => s
    | some c =>
      if noRecords s id then
        finishOp { s with steps := s.steps.filter fun t => t.closing != some id } id c.status
          [c.r4, c.r5, c.r6, c.r7]
      else s

/-- The operation will end with this status once its records are written. -/
def endAfter (s : State) (id : OpId) (st : BitVec 8) (r : List Word) : State :=
  let c : Completion :=
    { status := st, r4 := wd r 0, r5 := wd r 1, r6 := wd r 2, r7 := wd r 3, time := 0 }
  settleOp (modOp s id fun o => { o with after := some c }) id

/-- A record handle. -/
def Rec.handle (r : Rec) : Word := BitVec.ofNat 32 (r.slot % 4096 + 4096 * r.gen)

def recAtSlot (s : State) (slot : Nat) : Option Rec := s.dram.recs.find? fun r => r.slot == slot

/-- A record is freed; a REC_FREE that waited for it ends. -/
def freeRec (s : State) (slot : Nat) : State :=
  let w := ((recAtSlot s slot).bind (·.freeing)).toList
  let s := { s with dram := { s.dram with recs := s.dram.recs.filter fun r => r.slot != slot } }
  finishAll s w stOk

/-- A TMU_MEAS that has measured and ends with another status than OK or OK_PARTIAL keeps no record (R255). -/
def dropTmuRec (s : State) (o : Op) : State :=
  match recAtSlot s o.aux with
  | some r =>
    if opcodeOf o.cur = 0x54 && o.after.all (fun c => c.r5 == r.handle) then freeRec s o.aux else s
  | none => s

/-- Result words of an operation that ends with records not yet written: a STEP_CLOSE reports what it wrote
(R240, notes/assumptions/94.md). -/
def closeResults (o : Op) : List Word :=
  if opcodeOf o.cur = 0x43 then [BitVec.ofNat 32 o.count, BitVec.ofNat 32 o.aux] else []

/-- An operation whose records cannot be written any more: what waits is discarded, the step it was closing
goes, and it ends with E_ABORTED (R235, R240, R241, R255). -/
def giveUp (s : State) (id : OpId) : State :=
  let s := { s with mqPend := s.mqPend.filter fun m => m.op != id,
                    steps := s.steps.filter fun t => t.closing != some id }
  match op? s id with
  | none => s
  | some o => completeOp (dropTmuRec s o) id eAborted (closeResults o)

/-- A record goes to wait for its MQ; where that has been detached meanwhile, the operation ends as R241
says of records that wait, and the records it has yet to produce are discarded with it. -/
def mqPost (s : State) (ring : RingId) (id : OpId) (r : MqRec) : State :=
  if !((op? s id).any (·.live)) then s
  else if (ring? s ring).isSome then { s with mqPend := s.mqPend ++ [{ ring := ring, op := id, rec_ := r }] }
  else giveUp s id

/-- The MQ that operation id bound to Plaza p at its dispatch. -/
def opMq (s : State) (id : OpId) (p : Fin 16) : RingId :=
  match op? s id with
  | some o => ((o.mqs.find? fun x => x.1 == p).map (·.2)).getD 0
  | none => 0

/-- The MQ bound to Plaza p by the set-up in force (R241). -/
def mqOf (s : State) (p : Fin 16) : Option RingId :=
  let c := (s.plz[p]).cap.cur
  if c.mqEn then some c.mq else none

/-- Operation id binds at its dispatch the MQs of those of some Plazas that have one (R241). -/
def bindMqs (s : State) (id : OpId) (ps : List (Fin 16)) : State :=
  modOp s id fun o => { o with mqs := ps.filterMap fun p => (mqOf s p).map fun r => (p, r) }

/-- Operation o bound an MQ to each of some Plazas (R241). -/
def mqsBound (o : Op) (ps : List (Fin 16)) : Bool := ps.all fun p => o.mqs.any fun m => m.1 == p

/-- A detached MQ: MQ_EN clears on every Plaza bound to it; records that wait for it are discarded and
their operations end with E_ABORTED. Those yet to post have lost it too: 65,536 is the number of no ring, whatever is
attached under the old one later (R241). -/
def dropMq (s : State) (n : RingId) : State :=
  let gone := s.mqPend.filter fun m => m.ring == n
  let lose (o : Op) : Op := { o with mqs := o.mqs.map fun x => if x.2 = n then (x.1, 65536) else x }
  let s := { s with ops := s.ops.map lose }
  let off (c : CapCfg) : CapCfg := if c.mq = n then { c with mqEn := false } else c
  let s := (List.finRange 16).foldl (fun s p =>
    modCap s p fun c => { c with cur := off c.cur, next := off c.next }) s
  (gone.map (·.op)).eraseDups.foldl giveUp s

/-- FQ_EN and MQ_EN clear on a Plaza that its context gives up (R82, R224). -/
def clearBindings (s : State) (p : Fin 16) : State :=
  modCap s p fun c =>
    { c with cur := { c.cur with fqEn := false, mqEn := false },
             next := { c.next with fqEn := false, mqEn := false } }

/-! ### Test steps (R235 to R239) -/

/-- The open step that names Plaza p. -/
def stepOf (s : State) (p : Fin 16) : Option TStep :=
  s.steps.find? fun t => t.plazas.getLsbD p.val

/-- The descriptor d is a STEP_CLOSE that names step t. -/
def closes (t : TStep) (d : List Word) : Bool :=
  opcodeOf d == 0x43 && t.plazas.getLsbD (bits (wd d 2) 3 0) && t.num.toNat == bits (wd d 3) 15 0

/-- Of some operations the one that was dispatched first. -/
def firstOp (os : List Op) : Option Op :=
  os.foldl (fun a o => match a with
    | some b => if o.seq < b.seq then some o else some b
    | none => some o) none

/-- The dispatched operation that is to close step t: from its dispatch on the step is closing (R238). -/
def closer (s : State) (t : TStep) : Option Op :=
  firstOp (s.ops.filter fun o => o.live && o.seq != 0 && o.descs.any (closes t))

/-- An operation dispatched as number `seq` came before the STEP_CLOSE of step t (R237). -/
def beforeClose (s : State) (t : TStep) (seq : Nat) : Bool :=
  match closer s t with
  | some o => seq < o.seq
  | none => true

/-- Steps that name a Plaza are discarded; a STEP_CLOSE in progress ends with E_ABORTED (R235). -/
def dropSteps (s : State) (bad : TStep → Bool) : State :=
  let gone := s.steps.filter bad
  let came (t : TStep) : Option Op :=
    firstOp (s.ops.filter fun o => o.phase == .dispatched && closes t o.cur && t.closing.isNone)
  let s := { s with steps := s.steps.filter fun t => !bad t }
  ((gone.filterMap came).map (·.id) ++ gone.filterMap (·.closing)).eraseDups.foldl giveUp s

/-- The limit entry of a test and kind in a step. -/
def limitOf (t : TStep) (test kind : Nat) : Option Limit :=
  t.limits.find? fun l => l.test == test && l.kind == kind

/-- A value passes an entry (R238). -/
def Limit.passes (l : Limit) (v : Int) : Bool :=
  (!l.loEn || l.lo ≤ v) && (!l.hiEn || v ≤ l.hi)

/-- A value for a test and a site, produced by an operation dispatched as number `seq`: delivered to
the open step of the site's Plaza, or to none. Answers NOSTEP and LIMIT_FAIL (R237). -/
def deliver (s : State) (site : Nat) (test kind : Nat) (seq : Nat) (v : Option Int) :
    State × Bool × Bool :=
  match stepOf s (Fin.ofNat 16 (site / 16)), v with
  | some t, some x =>
    match limitOf t test kind with
    | some l =>
      if beforeClose s t seq then
        let t' : TStep := { t with values :=
          (test, site, x) :: t.values.filter fun y => !(y.1 == test && y.2.1 == site) }
        ({ s with steps := s.steps.map fun u => if u.num = t.num ∧ u.plazas = t.plazas then t' else u },
         false, !l.passes x)
      else (s, true, false)
    | none => (s, true, false)
  | _, _ => (s, true, false)

/-- A run on Plaza p that has ended is counted into the step of the Plaza (R236). -/
def countRun (s : State) (p : Fin 16) (z : Nat) (siteEn : BitVec 256) (status : BitVec 8) : State :=
  let acct := (s.plz[p]).cap.acct
  let upSite (t : TStep) (x : SiteStep) : SiteStep :=
    if x.site / 16 = p.val ∧ t.since ≤ z then
      let j : Fin 16 := Fin.ofNat 16 x.site
      let x := if status = eAborted then { x with aborted := true } else x
      if siteIn siteEn p j.val then
        let a := acct[j]
        { x with runs := x.runs + 1, fcount := min (x.fcount + a.fcount) 0xFFFFFFFF,
                 lost := x.lost || a.lost,
                 first := match x.first, a.first with
                   | none, some c => some (z, c)
                   | f, _ => f }
      else x
    else x
  { s with steps := s.steps.map fun t =>
      if t.plazas.getLsbD p.val then { t with sites := t.sites.map (upSite t) } else t }

end Sys2Proof.Machine
end

