-- ==== Sys2Proof/Machine/JudgeOps.lean ====
section
/-! DEFINITION. How a vector that has played is judged: what its strobes saw, the accounts, triggers, records and
match conditions that follow, and the order in which vectors and gap records wait for windows that are open yet
(04_timing, R139; 05_sequencer, R172 to R176; 07_capture_verdicts, R219 to R230, R242). -/

namespace Sys2Proof.Machine

/-! ### Judged values (R219 to R222, Table CAP-2) -/

/-- What a vector leaves of one channel: its judged value, whether it failed, and the channel's CV. -/
structure JOut where
  j    : JVal := .m
  fail : Bool := false
  cv   : Option JVal

/-- What a strobe saw of a channel with a CV; a channel without one reports M and does not fail. -/
def judgeSeen (x : Option Seen) (cv : Option JVal) : JOut :=
  match x with
  | none => { cv := cv }
  | some x =>
    let j := x.val
    match x.exp with
    | 1 => { j := j, fail := j != .l, cv := cv }
    | 2 => { j := j, fail := j != .h, cv := cv }
    | 3 => { j := j, fail := j != .m, cv := cv }
    | 4 => { j := j, cv := if j = .t then none else some j }
    | 5 => { j := j, fail := cv.any (· != j), cv := cv }
    | _ => { j := j, cv := cv }

/-! ### Accounts (R223, R226, R242) -/

/-- Columns of site j that failed. -/
def failMap (w : Nat) (outs : Vector JOut 64) (j : Nat) : BitVec 64 :=
  (List.finRange 64).foldl (fun m k =>
    if k.val / w = j ∧ outs[k].fail then m ||| (1#64 <<< (k.val % w)) else m) 0

/-- VALUES coding of a judged value (Table CAP-5). -/
def jCode : JVal → Nat
  | .l => 0
  | .h => 1
  | .m => 2
  | .t => 3

/-- The judged values of a Plaza's channels, two bits each. -/
def valsOf (outs : Vector JOut 64) : BitVec 128 :=
  BitVec.ofNat 128 ((List.finRange 64).foldl (fun a k => a + jCode outs[k].j * 4 ^ k.val) 0)

/-- Enabled sites of Plaza q, ascending. -/
def sitesOn (s : State) (q : Fin 16) (siteEn : BitVec 256) : List (Fin 16) :=
  ixs 16 fun j => j.val < sitesOf s q && siteIn siteEn q j.val

/-- The account of a site takes a failing vector (R223, R226). -/
def Acct.fail (a : Acct) (limit : Nat) (cyc : BitVec 48) (m : BitVec 64) : Acct :=
  { fcount := sat32 a.fcount, first := some (a.first.getD cyc), colfail := a.colfail ||| m,
    lost := a.lost || sat32 a.fcount > limit }

/-- Accounts and match-fail flags of Plaza q after a vector. -/
def account (s : State) (q : Fin 16) (siteEn : BitVec 256) (cyc : BitVec 48)
    (outs : Vector JOut 64) : State :=
  let w := widthOf s q
  (sitesOn s q siteEn).foldl (fun (s : State) (j : Fin 16) =>
    let m := failMap w outs j.val
    if m = 0 then s
    else
      let s := modSeq s q fun x => { x with matchFail := x.matchFail.set j true }
      modCap s q fun c =>
        { c with acct := upd c.acct j fun a => a.fail c.cur.failLimit cyc m,
                 limitHit := c.limitHit || sat32 c.acct[j].fcount > c.cur.failLimit }) s

/-- A mass fail is looked for after a vector that failed (R242). -/
def massFail (s : State) (q : Fin 16) (siteEn : BitVec 256) (cyc : BitVec 48) : State :=
  let c := (s.plz[q]).cap
  let win := max c.cur.mfWindow 1
  let n := ((sitesOn s q siteEn).filter fun j => match c.acct[j].first with
    | some f => f.toNat + win > cyc.toNat
    | none => false).length
  let new : Bool := (sitesOn s q siteEn).any fun j => c.acct[j].first == some cyc
  if c.cur.mfSites ≠ 0 ∧ n ≥ c.cur.mfSites ∧ new ∧ !c.mfRun then
    postReport (modCap s q fun c =>
      { c with mfRun := true, massFail := true, suppr := c.suppr || c.cur.mfSuppr })
      { src := BitVec.ofNat 8 (160 + q.val), code := fcMassFail, stamp := s.now, cycle := cyc, sites := n }
  else s

/-! ### Match conditions (R172) -/

/-- The enabled sites of the set that p leads, by number in the chip. -/
def enabledSites (s : State) (p : Fin 16) : List Nat :=
  (setOf s p).flatMap fun q =>
    ((List.range (sitesOf s q)).map fun j => 16 * q.val + j).filter fun n =>
      (s.plz[p]).run.siteEn.getLsbD n

/-- A condition of Table SEQ-4 over the sites that failed a vector and the match-fail flags. DESIGN CHOICE (Table
SEQ-4 calls 6 and 7 invalid, and a register of a microword may hold more, notes/assumptions/254.md): a COND above 5
never holds. -/
def condHolds (s : State) (p : Fin 16) (cond : Nat) (fails flags : BitVec 256) : Bool :=
  let en := enabledSites s p
  match cond with
  | 0 => en.all fun n => !fails.getLsbD n
  | 1 => en.any fun n => !fails.getLsbD n
  | 2 => en.all fun n => fails.getLsbD n
  | 3 => en.any fun n => fails.getLsbD n
  | 4 => en.all fun n => !flags.getLsbD n
  | 5 => en.any fun n => flags.getLsbD n
  | _ => false

/-- The match-fail flags of the set that p leads. -/
def flagsOf (s : State) (p : Fin 16) : BitVec 256 :=
  (setOf s p).foldl (fun m q =>
    (List.finRange 16).foldl (fun m j =>
      if (s.plz[q]).seq.matchFail[j] then m ||| (1#256 <<< (16 * q.val + j.val)) else m) m) 0

/-- The match-fail flags of the set clear (R169, R172). -/
def clearFlags (s : State) (p : Fin 16) : State :=
  (setOf s p).foldl (fun s q =>
    modSeq s q fun x => { x with matchFail := Vector.replicate 16 false }) s

/-! ### Records of one vector (R226, R227, R230) -/

/-- An acquisition of Plaza p's converters that waits for a trigger gets it. -/
def trigAcqs (s : State) (p : Fin 16) (sel : Acq → Bool) : State :=
  { s with dram := { s.dram with acqs := s.dram.acqs.map fun a =>
      if a.plaza = p ∧ a.trigAt.isNone ∧ sel a then { a with trigged := true } else a } }

/-- The CAPTURE records of one vector of Plaza q. -/
def emitCapture (s : State) (q : Fin 16) (siteEn : BitVec 256) (cyc : BitVec 48) (user : BitVec 16)
    (tag : Word) (stale : Bool) (vals : BitVec 128) : State :=
  let w := widthOf s q
  (sitesOn s q siteEn).foldl (fun s j =>
    (List.range (if w = 64 then 2 else 1)).foldl (fun s h =>
      let v := (List.range (min w 32)).foldl (fun a i =>
        a + bits vals (2 * (w * j.val + 32 * h + i) + 1) (2 * (w * j.val + 32 * h + i)) * 4 ^ i) 0
      (fqEmit s q
        { ring := 0, typ := 0x02, seqNo := 0, site := j.val, stale := stale, cycle := cyc,
          user := user, w4 := tag, w5 := BitVec.ofNat 32 h,
          w6 := BitVec.ofNat 32 v, w7 := BitVec.ofNat 32 (v / 2 ^ 32) }).1) s) s

/-- The FAIL records of one vector; a lost one marks its site (R226, Table CAP-14). -/
def emitFails (s : State) (q : Fin 16) (siteEn : BitVec 256) (v : LateVec) (stale : Bool)
    (outs : Vector JOut 64) : State :=
  let w := widthOf s q
  (sitesOn s q siteEn).foldl (fun s j =>
    let m := failMap w outs j.val
    let c := (s.plz[q]).cap
    if m = 0 ∨ c.cur.cmode = 0 ∨ c.acct[j].fcount > c.cur.failLimit then s
    else
      let e := fqEmit s q
        { ring := 0, typ := 0x01, seqNo := 0, site := j.val, stale := stale,
          cycle := v.cyc, user := v.user, w4 := v.tag,
          w5 := BitVec.ofNat 32 c.acct[j].fcount, w6 := m.setWidth 32,
          w7 := (m >>> 32).setWidth 32 }
      if e.2 then e.1
      else modCap e.1 q fun c => { c with acct := upd c.acct j fun a => { a with lost := true } }) s

/-- A column's trigger code matches (R229). -/
def trigCol (code : Nat) (o : JOut) : Bool :=
  match code with
  | 0 => o.j == .l
  | 1 => o.j == .h
  | 2 => true
  | _ => o.fail

/-- The lowest selected enabled site that matches the pattern trigger (R229). -/
def trigSite (s : State) (q : Fin 16) (siteEn : BitVec 256) (outs : Vector JOut 64) :
    Option (Fin 16) :=
  let t := (s.plz[q]).cap.trig
  let w := widthOf s q
  (sitesOn s q siteEn).find? fun j =>
    (t.any || t.site == j.val) &&
      (List.finRange 64).all fun k =>
        k.val / w != j.val ||
          trigCol (bits t.pattern (2 * (k.val % w) + 1) (2 * (k.val % w))) outs[k]

/-- The trigger of Plaza q sees a strobed vector; some site where it fires (R230). -/
def trigger (s : State) (q : Fin 16) (siteEn : BitVec 256) (outs : Vector JOut 64) :
    State × Option (Fin 16) :=
  let c := (s.plz[q]).cap
  if !c.trig.enable || c.fired then (s, none)
  else
    match trigSite s q siteEn outs with
    | none => (s, none)
    | some j =>
      let s := modCap s q fun c => { c with matches_ := c.matches_ + 1 }
      if c.matches_ + 1 = c.trig.occur + 1 then
        let s := modCap s q fun c =>
          { c with fired := true, trigFired := true,
                   winLeft := if c.trig.window then max c.cur.post 1 else 0 }
        let s := if c.trig.event then fire s (0x31 + q.val) 0 else s
        (trigAcqs s q fun a => a.trig == 3, some j)
      else (s, none)

/-- The pre-trigger block (R227, R230): vectors not yet captured. -/
def emitPre (s : State) (q : Fin 16) (siteEn : BitVec 256) : State :=
  let c := (s.plz[q]).cap
  if c.trig.window && c.cur.cmode == 3 && !c.suppr then
    (c.hist.drop (c.hist.length - c.cur.pre)).foldl (fun s h =>
      if h.taken then s else emitCapture s q siteEn h.cycle h.user h.tag h.stale h.vals) s
  else s

/-- The TRIG record (Table CAP-5). -/
def emitTrig (s : State) (q : Fin 16) (v : LateVec) (stale : Bool) (j : Fin 16) : State :=
  (fqEmit s q
    { ring := 0, typ := 0x05, seqNo := 0, site := j.val, stale := stale,
      cycle := v.cyc, user := v.user, w4 := v.tag,
      w5 := BitVec.ofNat 32 (at_ 8 (s.plz[q]).cap.trig.occur) }).1

/-- The markers of a vector in Plaza q: that of MRK first, then those of MARK (R227). -/
def emitMarks (s : State) (v : LateVec) (x : LatePlz) : State :=
  let s := if x.mrk then fqMarker s x.plaza v.cyc v.user v.tag true 0 x.stale else s
  x.mids.foldl (fun s m => fqMarker s x.plaza v.cyc v.user v.tag false m x.stale) s

/-! ### Judging in order -/

/-- One Plaza's part of a vector of leader p's run is judged: CV, accounts, trigger, records. Answers the map of
failing sites by number in the chip. -/
def judgePlaza (s : State) (p : Fin 16) (v : LateVec) (x : LatePlz) : State × BitVec 256 :=
  let q := x.plaza
  let en := (s.plz[p]).run.siteEn
  let chans := (s.plz[q]).chans
  let outs : Vector JOut 64 :=
    updAll (Vector.replicate 64 ({ cv := none } : JOut)) fun k _ => judgeSeen x.sees[k] chans[k].cv
  let s := modPlz s q fun P => { P with chans := updAll P.chans fun k ch => { ch with cv := outs[k].cv } }
  let w := widthOf s q
  let suppr := (s.plz[q]).cap.suppr
  let s := account s q en v.cyc outs
  let tr := if v.strobed then trigger s q en outs else (s, none)
  let s := tr.1
  let s := if tr.2.isSome then emitPre s q en else s
  let s := emitMarks s v x
  let s := if suppr then s else emitFails s q en v x.stale outs
  let c := (s.plz[q]).cap
  let take : Bool := v.strobed && !suppr &&
    ((2 ≤ c.cur.cmode && v.cap) || (c.cur.cmode == 3 && c.winLeft != 0))
  let vals := valsOf outs
  let s := if take then emitCapture s q en v.cyc v.user v.tag x.stale vals else s
  let s := match tr.2 with | some j => emitTrig s q v x.stale j | none => s
  let h : Hist := { cycle := v.cyc, tag := v.tag, user := v.user, taken := take,
                    stale := x.stale, vals := vals }
  let s := if v.strobed then
      modCap s q fun c =>
        { c with winLeft := c.winLeft - 1,
                 hist := if c.trig.enable && c.trig.window && !c.fired && c.cur.cmode == 3 then
                     (c.hist ++ [h]).drop
                       (c.hist.length + 1 - c.cur.pre)
                   else [] }
    else s
  let s := massFail s q en v.cyc
  (s, (sitesOn s q en).foldl (fun m j =>
    if failMap w outs j.val = 0 then m else m ||| (1#256 <<< (16 * q.val + j.val))) 0)

/-- The outcome of a vector that was kept before it was judged. -/
def Played.put (id : Nat) (fails flags : BitVec 256) (m : Played) : Played :=
  if m.id = id then { m with fails := fails, flags := flags } else m

/-- A repetition of a WAITM is judged: one that satisfies the condition, or the T-th, decides, and what has played after
it is of its shadow (R176). -/
def WaitM.put (held : Bool) (n t1 : Nat) (w : WaitM) : WaitM :=
  if w.hit.isNone && (held || decide (w.limit ≤ n)) then
    { w with hit := some held, t1 := t1, shadow := w.played - n }
  else w

/-- What waits for the outcome of a vector takes it (R172, R174, R176). -/
def putPlayed (s : State) (p : Fin 16) (v : LateVec) (fails : BitVec 256) : State :=
  let flags := flagsOf s p
  match v.id with
  | none => s
  | some id =>
    let held (w : WaitM) : Bool := condHolds s p w.cond fails flags
    modRun s p fun r =>
      { r with lastM := r.lastM.map (Played.put id fails flags),
               test := r.test.map fun t => { t with m := t.m.map (Played.put id fails flags) },
               waitm := r.waitm.map fun w =>
                 match v.rep with
                 | some n => if w.id = id then w.put (held w) n v.t1 else w
                 | none => w }

/-- A vector of leader p's run is judged, or a gap record is written. -/
def judgeLate (s : State) (p : Fin 16) : Late → State
  | .gap first n stales => stales.foldl (fun s x => fqHoldGap s x.1 first n x.2) s
  | .vec v =>
    let s := if v.clrf then clearFlags s p else s
    let r := v.parts.foldl (fun (a : State × BitVec 256) x =>
      let b := judgePlaza a.1 p v x
      (b.1, a.2 ||| b.2)) (s, 0)
    putPlayed r.1 p v r.2

/-- The first n that wait are judged. -/
def judgeN (s : State) (p : Fin 16) (n : Nat) : State :=
  let l := (s.plz[p]).run.late
  (l.take n).foldl (fun s x => judgeLate s p x) (modRun s p fun r => { r with late := r.late.drop n })

/-- No strobe to come can open before the window has closed, once time ps is reached. -/
def Seen.closed (ps : Nat) (x : Seen) : Bool := !x.win || decide (x.close ≤ ps)

/-- Every window of it has closed, once time ps is reached. -/
def Late.closed (ps : Nat) : Late → Bool
  | .gap _ _ _ => true
  | .vec v => v.parts.all fun x => (List.finRange 64).all fun k => x.sees[k].all (Seen.closed ps)

/-- What waits is judged up to the first vector with a window that is open yet (R139). -/
def judgeDue (s : State) (p : Fin 16) : State :=
  let r := (s.plz[p]).run
  judgeN s p (r.late.takeWhile (Late.closed r.ps)).length

/-- Everything that waits is judged: nothing strobes any more. -/
def judgeAll (s : State) (p : Fin 16) : State := judgeN s p (s.plz[p]).run.late.length

/-- It is a vector of entry id. -/
def Late.of (id : Nat) : Late → Bool
  | .vec v => v.id == some id
  | .gap _ _ _ => false

/-- What waits is judged up to the last vector of entry id. DESIGN CHOICE (R173 gives the decision a shadow of 4 vectors
and 40 ns, which a long period can outlast, notes/assumptions/216.md): a window of it that is open yet as its decision
comes closes at its own time. -/
def judgeTo (s : State) (p : Fin 16) (id : Nat) : State :=
  let l := (s.plz[p]).run.late
  judgeN s p (l.length - (l.reverse.takeWhile fun x => !x.of id).length)

/-- Strobes of Plaza q open at the effective times that `opens` gives, with the time that deskew leaves out: the windows
open there yet close (R139). -/
def LatePlz.cut (q : Fin 16) (opens : Fin 64 → Option (Int × Nat)) (x : LatePlz) : LatePlz :=
  if x.plaza = q then
    { x with sees := updAll x.sees fun k y =>
        match opens k with
        | some t => y.map fun z => { z with b := min z.b t.1, close := min z.close t.2 }
        | none => y }
  else x

def Late.cut (q : Fin 16) (opens : Fin 64 → Option (Int × Nat)) : Late → Late
  | .vec v => .vec { v with parts := v.parts.map (LatePlz.cut q opens) }
  | x => x

/-- The gap records of a HOLD that ends, one for each Plaza of the set, take their place behind what waits; the length is
0 where the run ends before the first hold cycle (R186). -/
def holdGaps (s : State) (p : Fin 16) : State :=
  let r := (s.plz[p]).run
  if r.phase = .hold then
    let stales := (setOf s p).map fun q => (q, (s.plz[q]).cap.holdStale)
    judgeDue (modRun s p fun r => { r with late := r.late ++ [.gap r.holdAt r.holdLen stales] }) p
  else s

end Sys2Proof.Machine
end

