-- ==== Sys2Proof/Machine/SeqOps.lean ====
section
/-! DEFINITION. The sequencer's shared operations: slots and residency, issue into the stream FIFO,
loop and call levels, match conditions, jump requests, start and end of a run
(05_sequencer, R157 to R200). -/

namespace Sys2Proof.Machine

/-! ### Vectors, slots and residency (R157, R161 to R163) -/

/-- Segment of a vector address. -/
def segOf (v : Nat) : Nat := v / 2048 % 2 ^ 20

/-- The slot in which a segment is resident (R162). -/
def slotOf (q : Seq) (seg : Nat) : Option (Fin 64) :=
  (List.finRange 64).find? fun n => q.slots[n].seg == some seg

def resident (q : Seq) (seg : Nat) : Bool := (slotOf q seg).isSome

/-- The 40-byte record at a vector address, from the slots of Plaza p (R157). -/
def recAt (s : State) (p : Fin 16) (v : Nat) : BitVec 320 :=
  match slotOf (s.plz[p]).seq (segOf v) with
  | none => 0
  | some n =>
    BitVec.ofNat 320 (leNat (Mem.readBytes 0 ((s.plz[p]).seq.slots[n]).data (40 * (v % 2048)) 40))

/-- TS of a record (Table SEQ-1). -/
def recTs (r : BitVec 320) : Fin 64 := Fin.ofNat 64 (bits r 5 0)
def recLs (r : BitVec 320) : Fin 8 := Fin.ofNat 8 (bits r 8 6)
def recMg (r : BitVec 320) : Fin 16 := Fin.ofNat 16 (bits r 12 9)
def recCap (r : BitVec 320) : Bool := r.getLsbD 13
def recMrk (r : BitVec 320) : Bool := r.getLsbD 14
def recNoStb (r : BitVec 320) : Bool := r.getLsbD 15
def recUser (r : BitVec 320) : BitVec 16 := BitVec.ofNat 16 (bits r 31 16)
def recTag (r : BitVec 320) : Word := BitVec.ofNat 32 (bits r 63 32)
/-- Pin code of column k (R157). -/
def recCode (r : BitVec 320) (k : Nat) : Nat := bits r (67 + 4 * k) (64 + 4 * k)

/-- Period of a record on leader p, ps (R133, R142). -/
def recPeriod (s : State) (p : Fin 16) (r : BitVec 320) : Nat :=
  ((s.plz[p]).tim.ts[recTs r]).period

/-- Segments locked by the loop levels and by an LCHK of Plaza p (R181). -/
def lockedSegs (P : Plaza) : List Nat := P.run.loops.flatMap (·.segs) ++ P.uc.segs

def segLocked (P : Plaza) (seg : Nat) : Bool := (lockedSegs P).any (· == seg)

/-- Vector addresses of the entries that have been written and not played out (R162). -/
def entriesOut (r : Run) : List Nat :=
  ((r.fifo ++ r.cur.toList).filter fun e => !e.hold).map (·.vaddr) ++
  (r.waitm.map (·.vaddr)).toList ++ (r.sync.map (·.vaddr)).toList

/-- Slot n of Plaza p is active (R162). -/
def slotActive (P : Plaza) (n : Fin 64) : Bool :=
  match P.seq.slots[n].seg with
  | none => false
  | some g => (entriesOut P.run).any (fun v => segOf v == g) || segLocked P g

/-- A fill ends: the slot holds its segment, or is left empty (R182). -/
def endFill (s : State) (p : Fin 16) (n : Fin 64) (f : Slot → Slot) : State :=
  modSeq s p fun q =>
    { q with slots := upd q.slots n f, fillQ := q.fillQ.filter fun x => x.1 != n }

/-- The fills of an operation are abandoned: their slots are left empty (R182). -/
def dropFill (s : State) (id : OpId) : State :=
  (List.finRange 16).foldl (fun s p =>
    modSeq s p fun q =>
      { q with
        slots := updAll q.slots fun _ sl =>
          match sl.filling with
          | some (_, o) => if o = id then {} else sl
          | none => sl,
        fillQ := q.fillQ.filter fun x => x.2 != id }) s

/-! ### Issue (R184) -/

/-- Period of an entry at the timing sets in force, ps: that of its record or of the hold vector (R142, R175). -/
def entryPeriod (s : State) (p : Fin 16) (e : Entry) : Nat :=
  recPeriod s p (if e.hold then (s.plz[p]).run.holdRec else recAt s p e.vaddr)

/-- The shadow of a test as far as it is issued: its vectors, and the time they take, which is what those played
have taken and the periods in force of those that wait (R173). -/
def shadowIss (s : State) (p : Fin 16) (t : MatchTest) : Nat × Nat :=
  let r := (s.plz[p]).run
  let out := (r.cur.toList ++ r.fifo).filter fun e => t.entry < e.id
  let past := match t.m with | some m => if t.played = 0 then 0 else r.ps - m.t1 | none => 0
  (out.foldl (fun n e => n + e.reps) t.played, out.foldl (fun n e => n + e.reps * entryPeriod s p e) past)

/-- The shadow of a pending test is wholly issued: at least 4 vectors and 40,000 ps (R173). -/
def shadowFull (s : State) (p : Fin 16) (t : MatchTest) : Bool :=
  let n := shadowIss s p t
  4 ≤ n.1 && 40000 ≤ n.2

/-- The pending JMPM test can be decided: its shadow has been played (R173). -/
def testDue (r : Run) : Bool :=
  match r.test with
  | some t => match t.m with
    | some m => 4 ≤ t.played && m.t1 + 40000 ≤ r.ps
    | none => false
  | none => false

/-- The entry at the head of an issue can be written: room in the FIFO, its segment resident, and no
full shadow ahead of an undecided test. -/
def canIssue (s : State) (p : Fin 16) (i : Issue) : Bool :=
  let P := s.plz[p]
  P.run.fifo.length < 512 && resident P.seq (segOf i.vaddr) &&
    (match P.run.test with | some t => !shadowFull s p t | none => true)

/-- One entry into the FIFO, with the in-stream actions that wait (R169). -/
def pushEntry (s : State) (p : Fin 16) (vaddr reps : Nat) (rpt : Bool) : State :=
  modRun s p fun r =>
    { r with
      fifo := r.fifo ++ [{ id := r.nextId, vaddr := vaddr, reps := reps, acts := r.acts, rpt := rpt }],
      acts := [], lastIss := some r.nextId, nextId := r.nextId + 1 }

/-- The program counter of Plaza p. -/
def setPc (s : State) (p : Fin 16) (pc : BitVec 16) : State := modRun s p fun r => { r with pc := pc }

/-- Issuing goes on for at most n entries; at its end an instruction's program counter advances
(R168, R184). -/
def issueLoop : Nat → State → Fin 16 → State
  | 0, s, _ => s
  | n + 1, s, p =>
    match (s.plz[p]).run.issue with
    | none => s
    | some i =>
      if i.count = 0 then
        modRun s p fun r => { r with issue := none, pc := if i.instr then r.pc + 1 else r.pc }
      else if !canIssue s p i then s
      else if i.rpt then
        issueLoop n (modRun (pushEntry s p i.vaddr i.count true) p fun r =>
          { r with issue := some { i with count := 0 } }) p
      else
        issueLoop n (modRun (pushEntry s p i.vaddr 1 false) p fun r =>
          { r with issue := some { i with vaddr := (i.vaddr + 1) % 2 ^ 31, count := i.count - 1 } }) p

/-- Issue as far as the FIFO and residency let it: at most 512 entries and the closing step. -/
def issueAll (s : State) (p : Fin 16) : State := issueLoop 514 s p

/-! ### Segment runs and jumps that are due (R188) -/

/-- The pipe has an entry to play. -/
def hasEntry (r : Run) : Bool := r.cur.isSome || !r.fifo.isEmpty

/-- A WAITM ends with its deciding repetition's shadow: at least 4 repetitions, and those that start less than
40,000 ps after the cycle start that followed it, at the periods in force as they play (R173, R176). -/
def WaitM.done (w : WaitM) (ps : Nat) : Bool := w.hit.isSome && 4 ≤ w.shadow && w.t1 + 40000 ≤ ps

/-- Vectors ahead whose order is determined, the rest of the entry in play first, then twice the idle vector of
a WAITM or SYNC that goes on (R188). -/
def ahead (r : Run) : List Entry :=
  (r.cur.toList ++ r.fifo).filter (fun e => !e.hold && e.reps != 0) ++
    (match r.waitm, r.sync with
     | some w, _ => if w.done r.ps then [] else [{ id := w.id, vaddr := w.vaddr, reps := 1, rpt := true }]
     | none, some y =>
       if y.ready then [] else List.replicate 2 { id := y.id, vaddr := y.vaddr, reps := 1 }
     | none, none => [])

/-- The vector of an entry goes on with the segment run whose last vector is at a: it is at the address that
follows, in the same segment, and neither is a repetition of a RPT or a WAITM (R188). -/
def follows (a : Nat) (rpt : Bool) (v : Nat) (vRpt : Bool) : Bool :=
  !rpt && !vRpt && v == a + 1 && segOf v == segOf a

/-- The vector at v does not go on with the segment run of the last vector played (R188). -/
def breaks (r : Run) (v : Nat) (vRpt : Bool) : Bool :=
  match r.lastAddr with
  | some a => !follows a r.lastRpt v vRpt
  | none => false

/-- The pending jump request takes effect now: a segment run that it may end has ended (R188). -/
def jumpDue (r : Run) : Bool :=
  match r.jump with
  | some j => !j.late && r.lastAddr.isSome &&
      (r.lastRpt || (match (ahead r).head? with | some e => breaks r e.vaddr e.rpt | none => false))
  | none => false

/-! ### Instructions -/

/-- The instruction at an address (R167); beyond the program, 0. -/
def instrAt (P : Plaza) (a : BitVec 16) : BitVec 64 := P.seq.imem.getD a.toNat 0

/-- The instruction in progress at microword level, which stays that of its dispatch word; else the one at the program
counter (R202, R206). -/
def curInstr (P : Plaza) : BitVec 64 := instrAt P (if P.uc.busy then P.run.lastPc else P.run.pc)

/-- OP of an instruction. -/
def opOf (i : BitVec 64) : Nat := bits i 63 59

/-- VEC, RPT, EVT, STEP, MARK and CLRF extend the shadow of a test (R175). -/
def isStreamOp (o : Nat) : Bool := o = 1 || o = 2 || (11 ≤ o && o ≤ 14)

/-- The next instruction of Plaza p may begin: a run is armed or in progress and not ending, no
instruction is in progress, no undecided test stands before it and no jump request takes effect at this
point (R174, R175, R188, R203, Table SEQ-11). -/
def canBegin (s : State) (p : Fin 16) : Bool :=
  let P := s.plz[p]
  let r := P.run
  r.phase != .none && r.ending.isNone && r.issue.isNone && r.waitm.isNone && r.sync.isNone &&
    !P.uc.busy && P.uc.wait.isNone && !jumpDue r &&
    (match r.test with
     | none => true
     | some t => isStreamOp (opOf (instrAt P r.pc)) && !shadowFull s p t)

/-- Entry of an instruction's routine in the ROM (Table UCS-3). -/
def romEntry (op : Nat) : Nat :=
  match op with
  | 1 => 0x100
  | 2 => 0x108
  | 3 => 0x110
  | 4 => 0x120
  | 5 => 0x140
  | 6 => 0x148
  | 7 => 0x150
  | 8 => 0x158
  | 9 => 0x160
  | 10 => 0x168
  | 11 => 0x170
  | 12 => 0x178
  | 13 => 0x180
  | 14 => 0x188
  | _ => 0x18C

/-- The patch page over a microaddress: 0 is the ROM (R205). -/
def pageOf (s : State) (a : BitVec 12) : Nat := (s.patch.pageMap.getD (a.toNat / 64) 0).toNat

/-- The ROM carries the instruction out: neither its dispatch word nor its routine lies in a page that the patch
overlays. Where one does, the instruction runs as its microwords, each a row of its own (R205, R206;
notes/assumptions/13.md). -/
def inRom (s : State) (op : Nat) : Bool :=
  pageOf s (BitVec.ofNat 12 op) == 0 && pageOf s (BitVec.ofNat 12 (romEntry op)) == 0

/-- The row of an instruction: where it is the one at the program counter of Plaza p and may begin, its ROM
routine runs; its address is noted (R195, R208, Table SEQ-9). -/
def runInstr (s : State) (p : Fin 16) (opn : Nat) (f : State → BitVec 64 → State) : State :=
  let P := s.plz[p]
  let i := instrAt P P.run.pc
  if canBegin s p && opOf i == opn && inRom s opn then
    f (modRun s p fun r => { r with lastPc := r.pc }) i
  else s

/-! ### Loop and call levels (R170, R171, R179) -/

/-- Levels popped for a jump to a target: from the top, those of the present call depth whose body
does not contain it (R171). -/
def popFor (target depth : Nat) : List LoopLvl → List LoopLvl
  | [] => []
  | l :: r =>
    if l.depth = depth && !(l.start.toNat < target && target ≤ l.endPc.toNat) then
      popFor target depth r
    else l :: r

/-- A jump's levels are popped. -/
def popLevels (s : State) (p : Fin 16) (target : BitVec 16) : State :=
  modRun s p fun r => { r with loops := popFor target.toNat r.calls.length r.loops }

/-- Every loop and call level is popped; the locks of an LCHK go with them. -/
def popAll (s : State) (p : Fin 16) : State :=
  modUc (modRun s p fun r => { r with loops := [], calls := [] }) p fun u => { u with segs := [] }

/-- Segments of a segment set (R180). -/
def setSegs (P : Plaza) (sptr slen : Nat) : List Nat :=
  (List.range slen).map fun i => bits (P.seq.sset.getD (sptr + i) 0) 19 0

/-- What the checks of Table SEQ-5 answer. -/
inductive LoopCheck where
  | stack | limit | wait | enter (segs : List Nat)
  deriving DecidableEq, Repr

/-- Steps 1 to 4 of Table SEQ-5. -/
def loopCheck (P : Plaza) (sptr slen : Nat) : LoopCheck :=
  let segs := setSegs P sptr slen
  if P.run.loops.length ≥ 8 then .stack
  else if ((lockedSegs P ++ segs).eraseDups).length > 60 then .limit
  else if !(segs.all fun g => resident P.seq g) then .wait
  else .enter segs

/-! ### Waits and tests (R172 to R177) -/

/-- A WAITM begins on an idle vector (R176). -/
def beginWaitm (s : State) (p : Fin 16) (cond vaddr limit : Nat) (micro : Bool) : State :=
  modRun s p fun r =>
    { r with
      waitm := some { id := r.nextId, cond := cond, vaddr := vaddr, limit := limit, acts := r.acts,
                      micro := micro },
      acts := [], lastIss := some r.nextId, nextId := r.nextId + 1 }

/-- A SYNC begins (R177). -/
def beginSync (s : State) (p : Fin 16) (src line vaddr : Nat) (micro : Bool) : State :=
  modRun s p fun r =>
    { r with
      sync := some { id := r.nextId, src := src, line := line, vaddr := vaddr, acts := r.acts,
                     prev := r.lastIss, micro := micro },
      acts := [], lastIss := some r.nextId, nextId := r.nextId + 1 }

/-- A test on the last vector issued begins; where no more of its entry is to play, its outcome is there (R174). -/
def beginTest (s : State) (p : Fin 16) (cond : Nat) (target : BitVec 16) (micro : Bool) : State :=
  modRun s p fun r =>
    { r with test := r.lastIss.map fun e =>
        { cond := cond, target := target, entry := e, micro := micro,
          m := r.lastM.filter fun x => x.id == e && !((r.cur.toList ++ r.fifo).any fun y => y.id == e) } }

/-- What the pipe holds and what the control store has in hand is dropped; the last vector issued is then the last
one that has played (R174, R188). -/
def dropPipe (s : State) (p : Fin 16) : State :=
  modUc (modRun s p fun r =>
    { r with cur := none, fifo := [], issue := none, test := none, waitm := none, sync := none,
             lastIss := r.lastM.map (·.id) }) p
    fun u => { u with busy := false, wait := none, need := none }

/-! ### Jump requests (R188, R189) -/

/-- How many more vectors the segment run of the last played address takes, counted up to n, where its end has
been determined; none where the vector after the end is not yet issued and the run does not end there (R188). -/
def toSegEnd : Nat → Nat → Bool → Bool → List Entry → Option Nat
  | _, _, _, ends, [] => if ends then some 0 else none
  | 0, _, _, _, _ => some 0
  | n + 1, last, rpt, ends, e :: r =>
    if follows last rpt e.vaddr e.rpt then (toSegEnd n e.vaddr e.rpt ends r).map (· + 1) else some 0

/-- A request that arrives now comes after the decision point of the segment run in play: its end is
determined and less than 16 vectors ahead (R188; notes/assumptions/34.md). -/
def lateNow (r : Run) : Bool :=
  match r.lastAddr with
  | none => false
  | some a =>
    match toSegEnd 17 a r.lastRpt r.ending.isSome (ahead r) with
    | none => false
    | some d => d < 16

/-- Plaza p takes a jump request; an older one's SEQ_JUMP ends with E_ABORTED (R189). -/
def requestJump (s : State) (p : Fin 16) (target : BitVec 16) (op : Option OpId) : State :=
  let r := (s.plz[p]).run
  let s := match r.jump with
    | some j => (j.op.toList).foldl (fun s i => finishOp s i eAborted []) s
    | none => s
  modRun s p fun r => { r with jump := some { target := target, op := op, late := lateNow r } }

/-! ### Events of the stream that others wait for (R258, R278, R304) -/

/-- A marker of Plaza p passes: acquisitions and AWG runs that wait for it are triggered (R258,
Table AWG-9). -/
def markSeen (s : State) (p : Fin 16) (mid : BitVec 16) : State :=
  let s := trigAcqs s p fun a => a.trig == 2 && a.mid == mid
  modAwg s p fun a =>
    if a.run.phase = .armed ∧ a.run.trig = 3 ∧ a.run.mid = mid then
      { a with run := { a.run with fired := true } }
    else a

/-! ### Run start and end (R191 to R194) -/

/-- SEQ_RUN may start on Plaza p: ON, leader or alone, START within the program (R192). -/
def runAllowed (s : State) (p : Fin 16) (d : List Word) : Bool :=
  let P := s.plz[p]
  P.eng.st == .on && !P.cfg.linked && bits (wd d 3) 15 0 < P.seq.imem.length

/-- A SEQ_RUN arms on Plaza p: CV values and match-fail flags clear, the site-data pointer is set
(R192). -/
def armRun (s : State) (p : Fin 16) (id : OpId) (d : List Word) : State :=
  let set := setOf s p
  let keep := (wd d 5).getLsbD 15
  let s := clearFlags s p
  let s := set.foldl (fun s q =>
    let s := mapChans s q fun _ ch => { ch with cv := none }
    if keep then s
    else modSeq s q fun x => { x with sdPtr := BitVec.ofNat 15 (bits (wd d 5) 14 0) }) s
  modRun s p fun r =>
    { phase := .armed, op := some id, arm := bits (wd d 4) 1 0,
      siteEn := BitVec.ofNat 256 (leNat (bytesOf ((d.drop 6).take 8))),
      pc := BitVec.ofNat 16 (bits (wd d 3) 15 0), nextId := r.nextId, holdRec := r.holdRec }

/-- The next SEQ_RUN that waits for Plaza p arms; one that cannot start ends with E_ARG (R192). -/
def armNext : List OpId → State → Fin 16 → State
  | [], s, p => modPlz s p fun P => { P with runQ := [] }
  | id :: r, s, p =>
    match op? s id with
    | some o =>
      if o.live then
        if runAllowed s p o.cur then
          armRun (modPlz s p fun P => { P with runQ := r }) p id o.cur
        else armNext r (finishOp s id eArg []) p
      else armNext r s p
    | none => armNext r s p

/-- In-stream actions take effect on the set that p leads, at a cycle and before a vector with this
TAG and USER (R169, Table CAP-5). -/
def takeAct (s : State) (p : Fin 16) (cycle : BitVec 48) (user : BitVec 16) (tag : Word) : Act → State
  | .evt t => fire s (0x01 + p.val) t.toNat
  | .mark m => (setOf s p).foldl (fun s q => markSeen (fqMarker s q cycle user tag false m (s.plz[q]).tim.stale) q m) s
  | .step set n =>
    (setOf s p).foldl (fun s q =>
      modSeq s q fun x => { x with sdPtr := if set then n else x.sdPtr + n }) s
  | .clrf => clearFlags s p

/-- Sticky run flags (Table SEQ-9). -/
def runFlags (r : Run) : Nat :=
  32 * b2n r.sdWrap + 16 * b2n r.setMiss + 8 * b2n r.short + 4 * b2n r.edgeClip + 2 * b2n r.stale +
    b2n r.underrun

/-- The SEQ_JUMP whose request has taken effect ends with OK and a cycle number (R189). -/
def jumpDone (s : State) (p : Fin 16) (cycle : BitVec 64) : State :=
  match (s.plz[p]).run.jumped with
  | none => s
  | some id =>
    finishOp (modRun s p fun r => { r with jumped := none }) id stOk
      [cycle.setWidth 32, (cycle >>> 32).setWidth 32]

/-- Of the EVTs that one vector carries the first fires: a source fires at most once in a cycle (R341;
notes/assumptions/92.md). -/
def oneEvt (acts : List Act) : List Act :=
  let evt (a : Act) : Bool := match a with | .evt _ => true | _ => false
  (acts.find? evt).toList ++ acts.filter fun a => !evt a

/-- What the end of a run does to its records, step and sources, once timing zero has come
(R169, R186, R225, R236, Table LAN-1). -/
def closeRun (s : State) (p : Fin 16) (status : BitVec 8) : State :=
  let r := (s.plz[p]).run
  let s := judgeAll (holdGaps s p) p
  let s := (oneEvt r.acts).foldl (fun s a => takeAct s p (r.cyc.setWidth 48) 0 0 a) s
  let s := (setOf s p).foldl (fun s q => fqEnd s q (r.cyc.setWidth 48) status) s
  let s := (setOf s p).foldl (fun s q => countRun s q r.zero r.siteEn status) s
  let s := (setOf s p).foldl (fun s q => modCap s q fun c => { c with hist := [], winLeft := 0 }) s
  fire s (0x21 + p.val) status.toNat

/-- The run of leader p ends with a status: jump requests and the SEQ_RUN complete, levels pop, the
next SEQ_RUN arms (R179, R189, R194). An armed run that ends is a run that ends: its SEQ_DONE source fires
(Table LAN-1; notes/assumptions/146.md). `quiet`: the end is a quiet point (R144). -/
def endRun (s : State) (p : Fin 16) (status : BitVec 8) (quiet : Bool) : State :=
  let r := (s.plz[p]).run
  if r.phase = .none then s
  else
    let s := if r.phase = .armed then
        fire ((oneEvt r.acts).foldl (fun s a => takeAct s p 0 0 0 a) s) (0x21 + p.val) status.toNat
      else closeRun s p status
    let s := jumpDone s p r.cyc
    let s := match r.jump with
      | some j => (j.op.toList).foldl (fun s i => finishOp s i eAborted []) s
      | none => s
    let s := popAll s p
    let s := modUc s p fun u => { u with busy := false, wait := none, need := none }
    let s := modRun s p fun r =>
      { siteEn := r.siteEn, pc := r.pc, lastPc := r.lastPc, cyc := r.cyc, ps := r.ps,
        nextId := r.nextId, holdRec := r.holdRec, zero := r.zero, zeroAt := r.zeroAt }
    let s := (r.op.toList).foldl (fun s i => finishOp s i status
      [r.cyc.setWidth 32, (r.cyc >>> 32).setWidth 32, r.lastPc.setWidth 32,
       BitVec.ofNat 32 (runFlags r)]) s
    let s := if quiet then quietSet s p else s
    armNext (inOrder s (s.plz[p]).runQ) s p

/-- The pending jump request of a run is discarded, its SEQ_JUMP ends with E_ABORTED (R189, R200). -/
def discardJump (s : State) (p : Fin 16) : State :=
  match (s.plz[p]).run.jump with
  | none => s
  | some j =>
    finishAll (modRun s p fun r => { r with jump := none }) j.op.toList eAborted

/-- The program ends with a status: levels pop at once, the run ends when its last vector has played
(R179), which is at once where it has issued none, armed or not, and the HALT is then a quiet point all the same
(R144; notes/assumptions/217.md); a jump request that is pending when HALT runs is discarded (R200). DESIGN CHOICE (R194
and R202 do not say when an END with another status, the loop lock limit or a SYNC timeout ends a run that has vectors to
play, notes/assumptions/167.md): it ends as for HALT, and a jump request that is pending stays and may take effect
before. -/
def endProgram (s : State) (p : Fin 16) (status : BitVec 8) : State :=
  let s := popAll s p
  let s := if status = stOk then discardJump s p else s
  let s := modRun s p fun r => { r with ending := some status }
  let r := (s.plz[p]).run
  if r.cur.isNone && r.fifo.isEmpty then endRun s p status (status == stOk) else s

end Sys2Proof.Machine
end

