-- ==== Sys2Proof/Machine/MeasOps.lean ====
section
/-! DEFINITION. The measurement units' shared operations: the record area, acquisitions and their
converters, PMU measurements, masks, time-measurement units (08_measurement, R246 to R265). -/

namespace Sys2Proof.Machine

/-! ### The record area (R253 to R255) -/

/-- Bytes reserved by the records held. -/
def recBytes (s : State) : Nat := s.dram.recs.foldl (fun a r => a + r.bytes) 0

/-- The generation of the next record in a slot: 0 at its first use, then rising
(notes/assumptions/37.md). -/
def nextGen (s : State) (slot : Nat) : Nat :=
  match s.dram.gens.find? fun g => g.1 == slot with
  | none => 0
  | some g => (g.2 + 1) % 2 ^ 20

/-- A record of a size is reserved in the lowest free slot, or there is no room (R254). -/
def allocRec (s : State) (ctx : CtxId) (kind bytes : Nat) : Option (Nat × State) :=
  match (List.range 4096).find? fun n => s.dram.recs.all fun r => r.slot != n with
  | none => none
  | some n =>
    if recBytes s + bytes ≤ 2 ^ 30 then
      let g := nextGen s n
      let r : Rec :=
        { slot := n, gen := g, ctx := ctx, kind := kind,
          data := if kind = 2 then .stamps [] else .samples [], bytes := bytes, complete := false }
      some (n, { s with dram := { s.dram with
        recs := r :: s.dram.recs, gens := (n, g) :: s.dram.gens.filter fun x => x.1 != n } })
    else none

def modRec (s : State) (slot : Nat) (f : Rec → Rec) : State :=
  { s with dram := { s.dram with recs := s.dram.recs.map fun r => if r.slot = slot then f r else r } }

/-- The record that a handle names for a context (R253). -/
def recOf (s : State) (ctx : CtxId) (h : Word) : Option Rec :=
  s.dram.recs.find? fun r => r.handle == h && r.ctx == ctx

/-- Number of entries of a record. -/
def Rec.n (r : Rec) : Nat :=
  match r.data with
  | .samples xs => xs.length
  | .stamps xs => xs.length

/-- Bytes of a sample or stamp entry (R254, Table MEA-9). -/
def stampBytes (t : Stamp) : List Byte :=
  leBytes 8 (t.t.toNat + at_ 48 (b2n t.boundary) + at_ 49 (b2n t.missed)) ++ leBytes 4 t.k.toNat ++
    leBytes 4 0

def Rec.entries (r : Rec) : List (List Byte) :=
  match r.data with
  | .samples xs => xs.map fun x => leBytes 4 (w32 x.uv).toNat
  | .stamps xs => xs.map stampBytes

/-- The 64-byte header of Table MEA-5. -/
def Rec.header (r : Rec) : List Byte :=
  let ovr := match r.data with
    | .samples xs => (xs.filter (·.ovr)).length
    | .stamps _ => 0
  let bnd := match r.data with
    | .samples _ => false
    | .stamps xs => xs.any (·.boundary)
  bytesOf
    [BitVec.ofNat 32 (at_ 16 r.kind + 1), r.handle, BitVec.ofNat 32 r.n, BitVec.ofNat 32 r.delta,
     BitVec.ofNat 32 (at_ 16 r.tmu + r.chan),
     match r.trigIdx with | some i => BitVec.ofNat 32 i | none => 0xFFFFFFFF,
     BitVec.ofNat 32 ovr,
     BitVec.ofNat 32 (4 * b2n bnd + 2 * b2n r.partial_ + b2n r.stopped),
     r.t0.setWidth 32, (r.t0 >>> 32).setWidth 32, 0, 0, 0, 0, 0, 0]

/-! ### Channels (R249) -/

/-- A voltage measurement may use the channel: S_SNS closed. -/
def senseOk (ch : Chan) : Bool := ch.sSns

/-- A current measurement may use the channel. -/
def currentOk (ch : Chan) : Bool := pmuMode ch && ch.leader.isNone

/-! ### PMU_MEAS (R250 to R252) -/

/-- Sites selected by a PMU_MEAS, ascending, with their channels: site, channel. -/
def pmuSites (s : State) (d : List Word) : List (Nat × Fin 1024) :=
  let col := bits (wd d 3) 21 16
  let en := leNat (bytesOf ((d.drop 5).take 8))
  (plazasOf ((wd d 2).setWidth 16)).flatMap fun p =>
    let w := widthOf s p
    ((List.range (64 / w)).filter fun j => en.testBit (16 * p.val + j)).map fun j =>
      (16 * p.val + j, chOf p (Fin.ofNat 64 (w * j + col)))

/-- The Plazas in which a PMU_MEAS selects a site. -/
def pmuPlazas (s : State) (d : List Word) : List (Fin 16) :=
  (plazasOf ((wd d 2).setWidth 16)).filter fun p =>
    (pmuSites s d).any fun x => x.1 / 16 == p.val

/-- A channel takes a new FORCE: its own force code, or those of the gang it leads; a gang member's entry
is ignored (R122). -/
def setForce (s : State) (c : Fin 1024) (force : Int) : State :=
  let ch := getChan s c
  if ch.leader.isSome then s
  else
    let n := max ch.gang 1
    (List.range n).foldl (fun s i =>
      let k : Fin 64 := Fin.ofNat 64 ((chIx c).val + i)
      let c' := chOf (chPlaza c) k
      modChan s c' fun x =>
        setForceCode ch.mode (forceCode s c' ch.mode ch.range force n)
          { x with force := if i = 0 then force else x.force }) s

/-- FORCE converts on channel c and, in PMU_FI, lies within the range (R107, R119, R250). -/
def forceOk (s : State) (c : Fin 1024) (force : Int) : Bool :=
  let ch := getChan s c
  ch.leader.isSome || !pmuMode ch ||
    (ch.mode != .pmuFi || decide (force.natAbs ≤ max ch.gang 1 * pmuScale ch.range)) &&
    (List.range (max ch.gang 1)).all fun i =>
      (forceCode s (chOf (chPlaza c) (Fin.ofNat 64 ((chIx c).val + i))) ch.mode ch.range force
        (max ch.gang 1)).isSome

/-- Step 1 of R251. -/
def pmuForce (s : State) (d : List Word) : State :=
  if (wd d 3).getLsbD 27 then
    (pmuSites s d).foldl (fun s x =>
      if pmuMode (getChan s x.2) then setForce s x.2 (wd d 13).toInt else s) s
  else s

/-! ### Converters (R257) -/

/-- A converter: digitizer p as p, measurement ADC m as 16 + m. -/
def acqConv (a : Acq) : Nat := if a.madc then 16 + a.chan.val / 8 else a.plaza.val

/-- Converters that a waiting or running ACQ or PMU_MEAS needs. -/
def convsOf (s : State) (id : OpId) : List Nat :=
  match op? s id with
  | none => []
  | some o =>
    let d := o.cur
    if opcodeOf d = 0x50 then ((pmuSites s d).map fun x => 16 + x.2.val / 8).eraseDups
    else if (wd d 2).getLsbD 31 then [16 + bits (wd d 2) 25 16 / 8]
    else [bits (wd d 2) 3 0]

/-- Converters in use. -/
def convsBusy (s : State) : List Nat :=
  s.dram.acqs.map acqConv ++ s.dram.pmu.flatMap (convsOf s)

/-- The acquisition that an ACQ descriptor asks for, with its slot, armed now (Table MEA-7). -/
def mkAcq (s : State) (id : OpId) (d : List Word) (slot : Nat) : Acq :=
  let trig := bits (wd d 3) 19 16
  { op := id, madc := (wd d 2).getLsbD 31, plaza := Fin.ofNat 16 (bits (wd d 2) 3 0),
    chan := Fin.ofNat 1024 (bits (wd d 2) 25 16), range := bits (wd d 3) 29 28, trig := trig,
    mid := BitVec.ofNat 16 (bits (wd d 3) 15 0), ofs := (wd d 4).toInt, level := (wd d 5).toInt,
    n := (wd d 6).toNat, pre := (wd d 7).toNat, dec := bits (wd d 8) 15 0 + 1, slot := slot,
    trigAt := if trig = 0 then some 0 else none, t0 := s.now }

/-- An armed mask takes the acquisition that its digitizer starts (R234). -/
def maskTakes (s : State) (a : Acq) : State :=
  if a.madc then s
  else modDg s a.plaza fun D =>
    { D with mask := D.mask.map fun m => if m.acq.isNone then { m with acq := some a.op } else m }

/-- An ACQ may run: the channel's sense switch is closed and its digitizer is ON (R249, R257). -/
def acqReady (s : State) (d : List Word) : Bool :=
  senseOk (getChan s (Fin.ofNat 1024 (bits (wd d 2) 25 16))) &&
    ((wd d 2).getLsbD 31 || isOn s (.dg (Fin.ofNat 16 (bits (wd d 2) 3 0))))

/-- A waiting ACQ or PMU_MEAS whose converters are free starts; its ACQ slot is in `aux`. In STANDBY it gets E_ARG
and has no effect (R34). -/
def startConv (s : State) (id : OpId) : State :=
  match op? s id with
  | none => s
  | some o =>
    let d := o.cur
    if standingBy s then finishOp (if opcodeOf d = 0x51 then freeRec s o.aux else s) id eArg []
    else if opcodeOf d = 0x50 then
      pmuForce { s with dram := { s.dram with pmu := s.dram.pmu ++ [id] } } d
    else if acqReady s d then
      let a := mkAcq s id d o.aux
      maskTakes { s with dram := { s.dram with acqs := s.dram.acqs ++ [a] } } a
    else finishOp (freeRec s o.aux) id eArg []

/-- Each waiting ACQ and PMU_MEAS in turn: it starts where none of its converters is in use or wanted by an
earlier one. -/
def pumpList : List OpId → List Nat → State → State
  | [], _, s => s
  | id :: r, wanted, s =>
    let cs := convsOf s id
    if ((op? s id).map (·.live)).getD false then
      if cs.any fun c => (convsBusy s ++ wanted).contains c then pumpList r (wanted ++ cs) s
      else
        let s := { s with dram := { s.dram with convWait := s.dram.convWait.filter (· != id) } }
        pumpList r wanted (startConv s id)
    else
      pumpList r wanted
        { s with dram := { s.dram with convWait := s.dram.convWait.filter (· != id) } }

/-- Converters have come free, or work has come in. -/
def pumpConv (s : State) : State := pumpList (inOrder s s.dram.convWait (convsOf s)) [] s

/-- An ACQ or PMU_MEAS takes its place in the order of R71. -/
def queueConv (s : State) (id : OpId) : State :=
  pumpConv { s with dram := { s.dram with convWait := s.dram.convWait ++ [id] } }

/-! ### Masks (R234) -/

/-- Sample i violates the bounds of a mask. -/
def violates (m : MaskArm) (i : Nat) (x : Int) : Bool :=
  match m.bounds[i]? with
  | some (u, l) => x > u || x < l
  | none => false

/-- Indices of the samples that violate a mask. -/
def violations (m : MaskArm) (xs : List Sample) : List Nat :=
  (List.range (min xs.length m.bounds.length)).filter fun i =>
    violates m i ((xs[i]?).map (·.uv)).get!

/-- The mask that checks acquisition a. -/
def maskFor (s : State) (a : Acq) : Option MaskArm :=
  if a.madc then none else (s.dg[a.plaza]).mask.filter fun m => m.acq == some a.op

/-- Acquisition a has ended: the MASK record of its mask over the samples acquired, and the disarming (R234). STOPPED: a
violation has ended it, which it does from its trigger on (notes/assumptions/222.md). -/
def maskEnd (s : State) (a : Acq) (handle : Word) (xs : List Sample) : State :=
  match maskFor s a with
  | none => s
  | some m =>
    let p := a.plaza
    let v := violations m xs
    let seq := ((op? s m.op).map (·.seq)).getD 0
    let del := deliver s m.site m.test.toNat 2 seq (some v.length)
    let s := modDg del.1 p fun D => { D with mask := none }
    let first := v.head?
    let ws : List Word :=
      [BitVec.ofNat 32 v.length,
       match first with | some i => BitVec.ofNat 32 i | none => 0xFFFFFFFF, handle,
       BitVec.ofNat 32 (b2n (m.stop && a.trigAt.isSome && first.isSome) + 2 * b2n del.2.1),
       match first with | some i => w32 ((xs[i]?).map (·.uv)).get! | none => 0, 0, 0, 0, 0, 0,
       s.now.setWidth 32, (s.now >>> 32).setWidth 32]
    let q : Fin 16 := Fin.ofNat 16 (m.site / 16)
    let s := mqPost s (opMq s m.op q) m.op
      { typ := 0x13, hi := m.test, plaza := q, site := m.site % 16, stale := (s.plz[q]).tim.stale,
        words := ws }
    endAfter s m.op stOk []

/-! ### Samples (R247 to R249, R258) -/

/-- A code that the acquisition's converter can give (R247, R248). -/
def acqCode (a : Acq) (n : Int) : Bool :=
  if a.madc then -131072 ≤ n && n ≤ 131071 else -2048 ≤ n && n ≤ 2047

/-- A conversion over range: an end code. -/
def acqOver (a : Acq) (n : Int) : Bool :=
  if a.madc then n == -131072 || n == 131071 else n == -2048 || n == 2047

/-- Full scale of a digitizer range in uV. -/
def digScale (r : Nat) : Int := if r = 0 then 500000 else if r = 1 then 2000000 else 5000000

/-- Gain error and offset in force for the conversions of acquisition a: of a digitizer the entry of its range
held since its start, of a MADC the channel's (Table CAL-3, R372). -/
def acqGO (s : State) (a : Acq) : Int × Int :=
  if a.madc then calGO s (.chDc (chPlaza a.chan)) (22 * (chIx a.chan).val + 20)
  else
    let e := ((s.dg[a.plaza]).corr[a.range]?).getD (0, 0)
    (e.1.toInt, e.2.toInt)

/-- A digitizer enters STARTING with its calibration set as it now stands (R372). -/
def dgStarting (s : State) (p : Fin 16) : State :=
  let c := (List.range 3).map (calEntry s (.dig p))
  modDg s p fun D => { D with corr := c }

/-- The stored sample of D conversions: the mean of V = OFS + FS n / 2,048, or 10.24 V n / 131,072, with gain
and offset, in whole uV, halves away from zero (R247 to R249, R368, notes/assumptions/221.md). -/
def sampleOf (a : Acq) (go : Int × Int) (codes : List Int) : Sample :=
  let k : Nat := (if a.madc then 131072 else 2048) * a.dec
  let sum : Int := codes.foldl (· + ·) 0
  let num : Int := if a.madc then 10240000 * sum else a.ofs * k + digScale a.range * sum
  { uv := divAway (10 * num * (2 ^ 31 + go.1) + go.2 * (k * 2 ^ 31 : Nat)) (10 * k * 2 ^ 31),
    ovr := codes.any (acqOver a) }

/-- One more conversion. -/
def Acq.convert (a : Acq) (go : Int × Int) (n : Int) : Acq :=
  let part := a.part ++ [n]
  if part.length < a.dec then { a with part := part }
  else { a with part := [], got := a.got ++ [sampleOf a go part] }

/-- The first sample, from index i on, at or beyond LEVEL that follows one on the other side (TRIG 4 and 5). -/
def levelCross (up : Bool) (lvl : Int) : List Sample → Nat → Option Nat
  | x :: y :: r, i =>
    if (if up then x.uv < lvl && lvl ≤ y.uv else lvl < x.uv && y.uv ≤ lvl) then some (i + 1)
    else levelCross up lvl (y :: r) (i + 1)
  | _, _ => none

/-- A level trigger is placed at its sample once there is one (R258). -/
def Acq.levelTrig (a : Acq) : Acq :=
  if a.trigAt.isNone && (a.trig == 4 || a.trig == 5) then
    { a with trigAt := levelCross (a.trig == 4) a.level a.got 0 }
  else a

/-- An event that has reached the converter is placed at the first sample that begins at or after it. -/
def Acq.eventTrig (a : Acq) : Acq :=
  if a.trigAt.isNone && a.trigged then { a with trigAt := some (a.got.length + b2n (!a.part.isEmpty)) } else a

/-- Conversions of acquisition a, in order. -/
def Acq.take (a : Acq) (go : Int × Int) (codes : List Int) : Acq :=
  (codes.foldl (fun a n => a.convert go n) a).levelTrig

/-- Entry of the samples taken that is entry 0 of the record: up to PRE before the trigger entry; with no
trigger the last N stay (R258, notes/assumptions/221.md). -/
def Acq.start (a : Acq) : Nat :=
  match a.trigAt with
  | some t => t - min t a.pre
  | none => a.got.length - a.n

/-- The samples of the record. -/
def Acq.samples (a : Acq) : List Sample :=
  (a.got.drop a.start).take
    (match a.trigAt with | some t => min t a.pre + (a.n - a.pre) | none => a.n)

/-- The record has all its samples. -/
def Acq.full (a : Acq) : Bool :=
  match a.trigAt with
  | some t => a.samples.length == min t a.pre + (a.n - a.pre)
  | none => false

/-! ### The end of an acquisition (R255, R258) -/

def dropAcq (s : State) (id : OpId) : State :=
  { s with dram := { s.dram with acqs := s.dram.acqs.filter fun a => a.op != id } }

/-- An acquisition ends without a record (R255): an armed mask records the samples taken, the record is freed
and the converter goes to the next. -/
def killAcq (s : State) (a : Acq) (status : BitVec 8) : State :=
  let h := ((recAtSlot s a.slot).map (·.handle)).getD 0
  let s := maskEnd (finishOp s a.op status []) a h a.samples
  pumpConv (dropAcq (freeRec s a.slot) a.op)

/-- The acquisitions for which p holds end with E_ABORTED. -/
def killAcqs (s : State) (sel : Acq → Bool) : State :=
  (s.dram.acqs.filter sel).foldl (fun s a => killAcq s a eAborted) s

/-- PMU_MEAS that run and ACQ and PMU_MEAS that wait, those for which p holds, end with E_ABORTED. -/
def endConvs (s : State) (sel : Op → Bool) : State :=
  let gone := (s.dram.convWait ++ s.dram.pmu).filter fun id => (op? s id).any sel
  let s := gone.foldl (fun s id =>
    match op? s id with
    | some o => if opcodeOf o.cur = 0x51 then freeRec s o.aux else s
    | none => s) s
  finishAll { s with dram := { s.dram with
    convWait := s.dram.convWait.filter fun id => !gone.contains id,
    pmu := s.dram.pmu.filter fun id => !gone.contains id } } gone eAborted

/-- The ACQ o is one of digitizer p. -/
def onDig (p : Fin 16) (o : Op) : Bool :=
  opcodeOf o.cur == 0x51 && !(wd o.cur 2).getLsbD 31 && bits (wd o.cur 2) 3 0 == p.val

/-! ### Time-measurement units (R259 to R265) -/

def modMeas (s : State) (n : Fin 64) (f : TmuMeas → TmuMeas) : State :=
  modTmu s n fun T => { T with meas := T.meas.map f }

/-- The descriptor of the measurement in progress on TMU n. -/
def tmuDesc (s : State) (n : Fin 64) : List Word :=
  match (s.tmu[n]).meas with
  | none => []
  | some m => ((op? s m.op).map (·.cur)).getD []

/-- DSK_S of channel k of TMU n's Plaza in its applied band (R146). -/
def tmuDsk (s : State) (n : Fin 64) (k : Nat) : Int :=
  let t := (s.plz[tmuPlaza n]).tim
  ((t.dsk[t.applied])[Fin.ofNat 64 k]).s

/-- The stamp reference is taken (R260). -/
def tmuRef (s : State) (n : Fin 64) : State :=
  match (s.tmu[n]).meas with
  | none => s
  | some m =>
    let w := wd (tmuDesc s n) 4
    let k : Int := if bits w 31 30 = 0 then tmuDsk s n (bits w 5 0) else 0
    modRec (modMeas s n fun m => { m with arm := .measuring, refDsk := k }) m.slot fun r =>
      { r with t0 := s.now }

/-- The stamp of a stop edge that the comparators show t ps after the reference: both carry their channel's
DSK_S of the band applied as they come (R146, Table MEA-12, notes/assumptions/223.md). -/
def tmuStamp (s : State) (n : Fin 64) (t : Nat) : Nat :=
  match (s.tmu[n]).meas with
  | none => t
  | some m => (t + tmuDsk s n (bits (wd (tmuDesc s n) 5) 5 0) - m.refDsk : Int).toNat

/-- TMU n arms (R260). -/
def tmuArmNow (s : State) (n : Fin 64) : State :=
  match (s.tmu[n]).meas with
  | none => s
  | some m =>
    if m.arm ≠ .waitArm then s
    else if bits (wd (tmuDesc s n) 4) 31 30 = 2 then tmuRef s n
    else modMeas s n fun m => { m with arm := .waitRef }

/-- Channel conditions of a TMU_MEAS: start (for STYPE 0) and stop channel in PE or PE_MON, Plaza and TMU ON
(R259). -/
def tmuReady (s : State) (d : List Word) : Bool :=
  let n : Fin 64 := Fin.ofNat 64 (bits (wd d 2) 5 0)
  let p := tmuPlaza n
  let ok (k : Nat) : Bool :=
    let m := ((s.plz[p]).chans[Fin.ofNat 64 k]).mode
    m == .pe || m == .peMon
  isOn s (.tmu n) && isOn s (.plaza p) && ok (bits (wd d 5) 5 0) &&
    (bits (wd d 4) 31 30 != 0 || ok (bits (wd d 4) 5 0))

/-- A measurement begins on TMU n with its record slot. -/
def tmuBegin (s : State) (n : Fin 64) (id : OpId) (slot : Nat) (d : List Word) : State :=
  let s := modTmu s n fun T => { T with meas := some { op := id, arm := .waitArm, slot := slot } }
  if bits (wd d 3) 29 28 = 0 then tmuArmNow s n else s

/-- The next measurement that waits for TMU n begins (Table MEA-12). -/
def tmuNext : List OpId → State → Fin 64 → State
  | [], s, n => modTmu s n fun T => { T with queue := [] }
  | id :: r, s, n =>
    match op? s id with
    | some o =>
      if o.live then
        if tmuReady s o.cur then
          tmuBegin (modTmu s n fun T => { T with queue := r }) n id o.aux o.cur
        else tmuNext r (finishOp (freeRec s o.aux) id eArg []) n
      else tmuNext r s n
    | none => tmuNext r s n

/-- The measurement on TMU n leaves it, and the next one begins. -/
def tmuLeave (s : State) (n : Fin 64) : State :=
  tmuNext (inOrder s (s.tmu[n]).queue) (modTmu s n fun T => { T with meas := none }) n

/-- The measurement on TMU n ends without a record. -/
def tmuKill (s : State) (n : Fin 64) (status : BitVec 8) : State :=
  match (s.tmu[n]).meas with
  | none => s
  | some m =>
    tmuLeave (finishOp (freeRec s m.slot) m.op status
      [0, 0, BitVec.ofNat 32 m.missed, BitVec.ofNat 32 m.outside]) n

/-- Every measurement of TMU n, running or waiting, ends without a record (R256). -/
def tmuQuit (s : State) (n : Fin 64) (status : BitVec 8) : State :=
  let s := (s.tmu[n]).queue.foldl (fun s id =>
    match op? s id with
    | some o => if o.live then finishOp (freeRec s o.aux) id status [] else s
    | none => s) s
  tmuKill (modTmu s n fun T => { T with queue := [] }) n status

/-- √(a / b) times c, rounded to the nearest. -/
def sqrtRatio (a b c : Nat) : Nat := (Nat.sqrt (4 * c * c * a / b) + 1) / 2

/-- A value within 32 signed bits, and whether it had to be limited. -/
def sat32s (x : Int) : Int × Bool :=
  if x < -(2 ^ 31) then (-(2 ^ 31), true) else if x ≥ 2 ^ 31 then (2 ^ 31 - 1, true) else (x, false)

/-- The least-squares fit of R264 over stamps (k, t): M Sxy, M Sxx and M Syy, each exact. -/
def fitSums (xs : List Stamp) : Int × Int × Int :=
  let m : Int := xs.length
  let f (g : Stamp → Int) : Int := xs.foldl (fun a x => a + g x) 0
  let k (x : Stamp) : Int := x.k.toNat
  let t (x : Stamp) : Int := x.t.toNat
  (m * f (fun x => k x * t x) - f k * f t, m * f (fun x => k x * k x) - f k * f k,
   m * f (fun x => t x * t x) - f t * f t)

/-- What a TMUVAL record carries: value before limiting (none: invalid), PERIOD_FS, FREQ_UHZ, U_AS, RESID. -/
structure TmuVal where
  value : Option Int
  fs    : Int := 0
  uhz   : Int := 0
  uas   : Nat := 0
  resid : Nat := 0

/-- The result of an interval measurement (R263, R265); a unit of frequency gives a free value
(notes/assumptions/38.md). -/
def intervalVal (s : State) (d : List Word) (xs : List Stamp) : TmuVal × State :=
  let unit := bits (wd d 3) 19 16
  match xs[bits (wd d 9) 19 16 - 1]? with
  | none => ({ value := none }, s)
  | some x =>
    let t : Int := x.t.toNat
    if unit = 0 then ({ value := some t, fs := 1000 * t }, s)
    else if unit = 1 then ({ value := some (1000 * t), fs := 1000 * t }, s)
    else
      let f := takeFree s 32
      ({ value := some f.1.toInt, fs := 1000 * t }, f.2)

/-- The result of a frequency measurement (R264, R265); where the fit gives T = 0, what rests on 1 / T is
free (notes/assumptions/38.md). -/
def freqVal (s : State) (d : List Word) (xs : List Stamp) : TmuVal × State :=
  let unit := bits (wd d 3) 19 16
  let f := fitSums xs
  let sxx := f.2.1.natAbs
  let m := xs.length
  let r2 : Nat := (f.2.2 * f.2.1 - f.1 * f.1).toNat
  let res := sqrtRatio r2 (m * sxx * (m - 2)) 100
  let uas := sqrtRatio r2 (sxx * sxx * (m - 2)) (10 ^ 6)
  let per (c : Nat) : Int := divAway (f.1 * c) sxx
  let sign : Int := if f.1 < 0 then -1 else 1
  let inv (c : Nat) : Int := sign * divAway (sxx * c : Nat) f.1.natAbs
  if f.1 = 0 then
    let g := takeFree s 96
    ({ value := some (if unit ≤ 1 then 0 else (g.1.extractLsb' 0 32).toInt), fs := 0,
       uhz := (g.1.extractLsb' 32 64).toNat, uas := uas, resid := res }, g.2)
  else
    ({ value := some (if unit = 0 then per 1 else if unit = 1 then per 1000
         else if unit = 2 then inv (10 ^ 12) else inv (10 ^ 15)),
       fs := per 1000, uhz := inv (10 ^ 18), uas := uas, resid := res }, s)

/-- The measurement on TMU n ends with its record kept: header, MQ record, completion, TMU_DONE
(R263 to R265, Table LAN-1). -/
def tmuEnd (s : State) (n : Fin 64) (part : Bool) : State :=
  match (s.tmu[n]).meas with
  | none => s
  | some m =>
    let d := tmuDesc s n
    let mode := bits (wd d 3) 31 30
    let p := tmuPlaza n
    let site := bits (wd d 10) 7 0
    let test := bits (wd d 3) 15 0
    let s := modRec s m.slot fun r =>
      { r with data := .stamps m.stamps, complete := true, partial_ := part,
               bytes := 16 * m.stamps.length }
    let h := ((recAtSlot s m.slot).map (·.handle)).getD 0
    let status := if part then stPartial else stOk
    let res : List Word := [BitVec.ofNat 32 m.stamps.length, h, BitVec.ofNat 32 m.missed,
      BitVec.ofNat 32 m.outside]
    let s := fire s (0x61 + p.val) n.val
    if mode = 2 then tmuLeave (finishOp s m.op status res) n
    else
      let vs := if mode = 0 then intervalVal s d m.stamps else freqVal s d m.stamps
      let s := vs.2
      let v := vs.1
      let used := if mode = 0 then (m.stamps[bits (wd d 9) 19 16 - 1]?).toList else m.stamps
      let sat := sat32s (v.value.getD 0)
      let seq := ((op? s m.op).map (·.seq)).getD 0
      let del := deliver s site test 1 seq (v.value.map fun x => (sat32s x).1)
      let s := del.1
      let w3 := at_ 15 (b2n part) + at_ 14 (b2n (used.any (·.boundary))) + at_ 12 (b2n del.2.2) +
        at_ 11 (b2n del.2.1) + at_ 10 (b2n sat.2) + at_ 8 (b2n v.value.isNone) + at_ 6 mode + n.val
      let w64 (x : Nat) : List Word := [BitVec.ofNat 32 x, BitVec.ofNat 32 (x / 2 ^ 32)]
      let ws : List Word := [w32 sat.1, BitVec.ofNat 32 w3, h, BitVec.ofNat 32 used.length] ++
        w64 (BitVec.ofInt 64 v.fs).toNat ++ w64 (BitVec.ofInt 64 v.uhz).toNat ++
        [BitVec.ofNat 32 (min v.uas (2 ^ 32 - 1)), BitVec.ofNat 32 (min v.resid (2 ^ 32 - 1))] ++
        w64 s.now.toNat
      let q : Fin 16 := Fin.ofNat 16 (site / 16)
      let s := mqPost s (opMq s m.op q) m.op
        { typ := 0x21, hi := BitVec.ofNat 16 test, plaza := q, site := site % 16,
          stale := (s.plz[q]).tim.stale, words := ws }
      tmuLeave (endAfter s m.op status res) n

/-- Stamps at which a measurement is complete (Table MEA-8). -/
def tmuGoal (d : List Word) : Nat :=
  if bits (wd d 3) 31 30 = 0 then bits (wd d 3) 23 20 else (wd d 8).toNat

/-- A qualifying stop edge at t ps after the stamp reference (R261, R262). -/
def tmuEdge (d : List Word) (t : Nat) (m : TmuMeas) : TmuMeas :=
  let k := m.k + 1
  let m := { m with k := k }
  let dead : Bool := match m.last with | some l => decide (t < l + 4000) | none => false
  if k % (bits (wd d 9) 15 0 + 1) ≠ 0 then m
  else if dead then
    { m with missed := m.missed + 1, missedSince := true }
  else
    let wo := (wd d 6).toNat
    let wc := (wd d 7).toNat
    let m' := { m with last := some t, missedSince := false }
    if wo ≤ t ∧ (wc = 0 ∨ t < wc) then
      let near (a : Nat) : Bool := a ≤ t + 1 && t ≤ a + 1
      let st : Stamp :=
        { t := BitVec.ofNat 48 t, boundary := near wo || (wc != 0 && near wc),
          missed := m.missedSince, k := BitVec.ofNat 32 k }
      { m' with stamps := m.stamps ++ [st],
                arm := if m.stamps.length + 1 ≥ tmuGoal d then .done else m.arm }
    else { m' with outside := m.outside + 1, missedSince := m.missedSince }

/-- The timing zero of Plaza p's run, which its TMUs may await as stamp reference (R260). -/
def tmuZero (s : State) (p : Fin 16) : State :=
  (List.finRange 64).foldl (fun s n =>
    match (s.tmu[n]).meas with
    | some m =>
      if tmuPlaza n = p ∧ m.arm = .waitRef ∧ bits (wd (tmuDesc s n) 4) 31 30 = 1 then tmuRef s n
      else s
    | none => s) s

end Sys2Proof.Machine
end

