-- ==== Sys2Proof/Machine/MonOps.lean ====
section
/-! DEFINITION. Work that shares the monitor ADCs: DPS_MEAS, MON_CHECK and CAL_RUN, one at a time on each
converter (11_power, R332, R333; 13_calibration_thermal, R366 to R373). -/

namespace Sys2Proof.Machine

/-- PE die n stands within 4 degC of band b's temperature, and b is the Plaza's target band
(Table CAL-2). -/
def nearBand (s : State) (p : Fin 16) (b : Fin 8) : Bool :=
  targetBand s p == b &&
    (match (s.thm.dies[Fin.ofNat 10 (p.val / 2)]).hist with
     | [] => false
     | t :: _ => decide ((t - 600 * (25 + 10 * (b.val : Int))).natAbs ≤ 600 * 4))

/-- A calibration set is that of an engine or of a Plaza's channels (R373, Table CAL-12). -/
def calOn (k : CalKey) (e : Eng) : Bool :=
  match k, e with
  | .chDc p, .plaza q => p == q
  | .deskew p _, .plaza q => p == q
  | .dig p, .plaza q => p == q
  | .dig p, .dg q => p == q
  | .awg p, .awg q => p == q
  | .dps n, .dps m => n == m
  | _, _ => false

/-- The prerequisites of Table CAL-2 that the W1024 can observe. -/
def calPrereq (s : State) (k : CalKey) : Bool :=
  peUp s &&
    match k with
    | .chDc p => isOff s (.plaza p) && !(s.plz[p]).cfg.linked
    | .deskew p b => isOff s (.plaza p) && nearBand s p b
    | .dig p => isOn s (.dg p) && isOff s (.plaza p) &&
        s.dram.acqs.all fun a => a.madc || a.plaza != p
    | .awg p => isOff s (.awg p)
    | .dps n => isOff s (.dps n)
    | .mon n => peGood s n

/-- The reference set of Table CAL-1 is valid. -/
def calRefOk (s : State) (k : CalKey) : Bool :=
  match k with
  | .chDc p => calValid s (.mon (peOf p))
  | .deskew _ _ => true
  | .dig p => calValid s (.mon (peOf p)) && calValid s (.chDc p)
  | .awg p => calValid s (.mon (peOf p))
  | .dps n => calValid s (.mon ⟨n.val / 4, by omega⟩)
  | .mon _ => true

/-- The set-up a MON_CFG gives (Table PWR-7). -/
def monOf (d : List Word) : Mon :=
  { en := (wd d 3).getLsbD 31, offWatch := (wd d 3).getLsbD 30, vEn := (wd d 3).getLsbD 29,
    iEn := (wd d 3).getLsbD 28, mode := bits (wd d 3) 1 0, vhi := (wd d 4).toNat,
    vlo := (wd d 5).toNat, isrcT := (wd d 6).toNat, isnkT := (wd d 7).toNat,
    blank := bits (wd d 8) 15 0 }

/-- A MON_CFG applies at once; unless the DPS is OFF it is blanked (R329, R331). -/
def applyMon (s : State) (id : OpId) (d : List Word) : State :=
  let n : Fin 32 := Fin.ofNat 32 (bits (wd d 2) 4 0)
  finishOp (modDps s n fun D =>
    { D with mon := monOf d, blankCount := D.blankCount || !(isOff s (.dps n)) }) id stOk []

/-- What an operation uses: MONADC n as n, the TMUs of Plaza p for a deskew as 8 + p, the monitor of DPSn
in a trip test as 24 + n (Table PWR-13). -/
def monsOf (s : State) (id : OpId) : List Nat :=
  match op? s id with
  | none => []
  | some o =>
    let d := o.cur
    if opcodeOf d = 0x7A then [bits (wd d 2) 4 0 / 4]
    else if opcodeOf d = 0x7C then
      let ns := (ixs 32 fun n => (wd d 2).getLsbD n.val).map (·.val)
      (ns.map fun n => n / 4).eraseDups ++ (if (wd d 3).getLsbD 0 then ns.map fun n => 24 + n else [])
    else if opcodeOf d = 0x7B then [24 + bits (wd d 2) 4 0]
    else
      match calNamed d with
      | some (.chDc p) => [p.val / 2]
      | some (.deskew p _) => [8 + p.val]
      | some (.dig p) => [p.val / 2]
      | some (.awg p) => [p.val / 2]
      | some (.dps n) => [n.val / 4]
      | some (.mon n) => [n.val]
      | none => []

/-- The die whose temperature a set records (notes/assumptions/227.md): the power die for a DPS, else the PE
die. -/
def calDie (k : CalKey) : Fin 10 :=
  match k with
  | .chDc p => Fin.ofNat 10 (p.val / 2)
  | .deskew p _ => Fin.ofNat 10 (p.val / 2)
  | .dig p => Fin.ofNat 10 (p.val / 2)
  | .awg p => Fin.ofNat 10 (p.val / 2)
  | .dps _ => 9
  | .mon n => Fin.ofNat 10 n.val

/-- A procedure begins, at its die's temperature (Table CAL-7, check 7). -/
def jobOf (s : State) (k : CalKey) (id : OpId) : CalJob :=
  { key := k, op := id, span := ((s.thm.dies[calDie k]).hist.head?).map fun t => (t, t) }

/-- A procedure sees a sample of t (1/600 degC) of its die. -/
def CalJob.see (j : CalJob) (t : Int) : CalJob :=
  { j with span := some (match j.span with | none => (t, t) | some (a, b) => (min a t, max b t)) }

/-- The procedure of a DPS keeps S_DPS open (R374). -/
def calOpens (s : State) (k : CalKey) : State :=
  match k with
  | .dps n => modDps s n fun D => { D with sDps := false, parked := false }
  | _ => s

/-- A DPS that is OFF rests in its park mode once its procedure has ended (R325, R374). -/
def calCloses (s : State) (k : CalKey) : State :=
  match k with
  | .dps n => if isOff s (.dps n) then parkDps s n else s
  | _ => s

/-- Waiting work whose converters are free starts; its conditions are looked at again, STANDBY among them (R332;
notes/assumptions/20.md). -/
def startMon (s : State) (id : OpId) : State :=
  match op? s id with
  | none => s
  | some o =>
    let d := o.cur
    let go (s : State) : State := { s with dram := { s.dram with mon := s.dram.mon ++ [id] } }
    if opcodeOf d = 0x7A then
      if isOn s (.dps (Fin.ofNat 32 (bits (wd d 2) 4 0))) then go s else finishOp s id eArg []
    else if opcodeOf d = 0x7C then (if standingBy s then finishOp s id eArg [] else go s)
    else if opcodeOf d = 0x7B then applyMon s id d
    else
      match calNamed d with
      | none => finishOp s id eArg []
      | some k =>
        if calPrereq s k && calRefOk s k then
          go (calOpens { s with cal := { s.cal with running := s.cal.running ++ [jobOf s k id] } } k)
        else finishOp s id eArg []

/-- The operation has not ended. -/
def opLive (s : State) (id : OpId) : Bool := ((op? s id).map (·.live)).getD false

/-- Each waiting operation in turn: it starts where nothing it uses is in use or wanted by an earlier one. -/
def pumpMonList : List OpId → List Nat → State → State
  | [], _, s => s
  | id :: r, wanted, s =>
    let cs := monsOf s id
    let off (s : State) : State :=
      { s with dram := { s.dram with monWait := s.dram.monWait.filter (· != id) } }
    if opLive s id then
      if cs.any fun c => (s.dram.mon.flatMap (fun i => if opLive s i then monsOf s i else []) ++ wanted).contains c then
        pumpMonList r (wanted ++ cs) s
      else pumpMonList r wanted (startMon (off s) id)
    else pumpMonList r wanted (off s)

def pumpMon (s : State) : State := pumpMonList (inOrder s s.dram.monWait (monsOf s)) [] s

/-- An operation takes its place (R71). -/
def queueMon (s : State) (id : OpId) : State :=
  pumpMon { s with dram := { s.dram with monWait := s.dram.monWait ++ [id] } }

/-- An operation leaves the monitor ADCs. -/
def leaveMon (s : State) (id : OpId) : State :=
  let s := ((s.cal.running.filter fun r => r.op == id).map (·.key)).foldl calCloses s
  pumpMon { s with
    dram := { s.dram with mon := s.dram.mon.filter (· != id),
                          monWait := s.dram.monWait.filter (· != id) },
    cal := { s.cal with running := s.cal.running.filter fun r => r.op != id } }

end Sys2Proof.Machine
end

