-- ==== Sys2Proof/Machine/ReOps.lean ====
section
/-! DEFINITION. The raster engine's shared operations: image parts, commit, composition, the advance of
the raster, the end of a run (10_raster, R289 to R305). -/

namespace Sys2Proof.Machine

/-! ### Image parts (R299) -/

/-- Size of an image part. -/
def partSize (s : State) : Nat := (0xF00000000 - s.dram.segCount * 81920) / 4 / 4096 * 4096

/-- First DRAM address of part k. -/
def partBase (s : State) (k : Fin 4) : Nat := s.dram.segCount * 81920 + k.val * partSize s

/-! ### Layers and commit (R290 to R297) -/

/-- The rules of R294. -/
def Layer.ok (s : State) (l : Layer) : Bool :=
  1 ≤ l.width && l.width ≤ 8192 && 1 ≤ l.height && l.height ≤ 8192 && l.x ≤ 8191 && l.y ≤ 8191 &&
  l.offset % 64 == 0 && l.stride % 64 == 0 && 4 * l.width ≤ l.stride && l.stride ≤ 32768 &&
  l.offset + l.stride * (l.height - 1) + 4 * l.width ≤ partSize s

/-- Bytes of the image part that a layer reads: first and one past the last. -/
def Layer.range (l : Layer) : Nat × Nat :=
  (l.offset, l.offset + l.stride * (l.height - 1) + 4 * l.width)

/-- Two ranges overlap; an empty range overlaps none. -/
def overlaps (a b : Nat × Nat) : Bool := a.1 < a.2 && b.1 < b.2 && a.1 < b.2 && b.1 < a.2

/-- The widths of R290. -/
def RSet.widthsOk (r : RSet) : Bool :=
  let act (x : Nat) : Bool := 1 ≤ x && x ≤ 8192
  let oth (x : Nat) : Bool := 1 ≤ x && x ≤ 4096
  act r.hact.toNat && act r.vact.toNat && oth r.hfp.toNat && oth r.hsync.toNat && oth r.hbp.toNat &&
    oth r.vfp.toNat && oth r.vsync.toNat && oth r.vbp.toNat

/-- The checks of R292; layers that are not enabled are not looked at (notes/assumptions/35.md). -/
def RSet.ok (s : State) (r : RSet) : Bool :=
  r.widthsOk && (List.finRange 4).all fun n => !r.layers[n].en || r.layers[n].ok s

/-- Visible part of a layer: right and bottom limits (R294). -/
def Layer.visible (r : RSet) (l : Layer) : Nat × Nat :=
  (min (l.x + l.width) r.hact.toNat, min (l.y + l.height) r.vact.toNat)

/-- Layer n of a set is covered (R297): of a layer that is not enabled too, as the rule's words stand. -/
def RSet.isCovered (r : RSet) (n : Fin 4) : Bool :=
  let l := r.layers[n]
  let v := l.visible r
  l.alpha == 0 || v.1 ≤ l.x || v.2 ≤ l.y ||
    (List.finRange 4).any fun m =>
      let h := r.layers[m]
      n.val < m.val && h.en && h.alpha == 255 && h.x ≤ l.x && h.y ≤ l.y &&
        v.1 ≤ h.x + h.width && v.2 ≤ h.y + h.height

/-- A commit would enable a layer over a range that an RE_WRITE is writing and that the layer does not read
already (R292, Table RAS-5). -/
def commitBlocked (R : Re) : Bool :=
  (List.finRange 4).any fun n =>
    let reads (r : RSet) (w : OpId × Nat × Nat) : Bool :=
      r.layers[n].en && overlaps (r.layers[n]).range (w.2.1, w.2.1 + w.2.2)
    R.writes.any fun w => reads R.shadow w && !reads R.active w

/-- The copy of the shadow set, refused or put off as R292 says. -/
def commitNow (s : State) (k : Fin 4) : State :=
  let R := s.re[k]
  if !R.commit then s
  else if !R.shadow.ok s then modRe s k fun R => { R with commit := false, commitBad := true }
  else if commitBlocked R then modRe s k fun R => { R with deferred := true }
  else modRe s k fun R =>
    { R with commit := false, committed := true, active := R.shadow, run := { R.run with unfetched := true },
             covered := updAll R.covered fun n _ => R.shadow.isCovered n }

/-! ### Composition (R289, R295, R296) -/

/-- Colour components of a pixel word in a format. -/
def comps (fmt : Bool) (w : Nat) : List Nat :=
  if fmt then [w / 2 ^ 20 % 1024, w / 2 ^ 10 % 1024, w % 1024]
  else [w / 2 ^ 16 % 256, w / 2 ^ 8 % 256, w % 256]

/-- A pixel from its components. -/
def packPix (fmt : Bool) (c : List Nat) : Nat :=
  if fmt then c.getD 0 0 * 2 ^ 20 + c.getD 1 0 * 2 ^ 10 + c.getD 2 0
  else c.getD 0 0 * 2 ^ 16 + c.getD 1 0 * 2 ^ 8 + c.getD 2 0

/-- The layer contains the pixel (x, y). -/
def Layer.holds (l : Layer) (x y : Nat) : Bool :=
  l.x ≤ x && x < l.x + l.width && l.y ≤ y && y < l.y + l.height

/-- Layer l, of whose present line the words `line` were fetched, over what has been composed so far (R296). -/
def blend (fmt : Bool) (l : Layer) (line : List Byte) (x y : Nat) (b : List Nat) : List Nat :=
  if l.holds x y then
    let t := comps fmt (leNat (sliceB line (4 * (x - l.x)) 4))
    let a := l.alpha.toNat
    List.zipWith (fun t b => (a * t + (255 - a) * b + 127) / 255) t b
  else b

/-- Layer n is fetched: enabled and not covered. -/
def layerOn (R : Re) (n : Fin 4) : Bool := R.active.layers[n].en && !R.covered[n]

/-- The words of layer n that line y shows, as DRAM holds them (R294, R298). -/
def fetchRow (s : State) (k n : Fin 4) (y : Nat) : List Byte :=
  let R := s.re[k]
  let l := R.active.layers[n]
  let v := l.visible R.active
  if layerOn R n && l.y ≤ y && y < v.2 then
    dramRead s (partBase s k + l.offset + l.stride * (y - l.y)) (4 * (v.1 - l.x))
  else []

/-- The raster comes to the first pixel of a line: what was fetched for it during the line before is at hand.
DESIGN CHOICE (R298 gives no instant within that line, notes/assumptions/224.md): it is what DRAM holds at the
line's end. -/
def fetchLine (s : State) (k : Fin 4) : State :=
  let rows := updAll (s.re[k]).run.line fun n _ => fetchRow s k n (s.re[k]).run.y
  modRe s k fun R => { R with run := { R.run with line := rows, unfetched := false } }

/-- The composed pixel value of engine k at its present pixel; 0 outside the active area. -/
def pixelNow (s : State) (k : Fin 4) : Nat :=
  let R := s.re[k]
  let A := R.active
  let x := R.run.x
  let y := R.run.y
  if x < A.hact.toNat && y < A.vact.toNat then
    packPix A.fmt ((List.finRange 4).foldl (fun b n =>
      if layerOn R n && !R.run.lateL.getLsbD n.val then
        blend A.fmt A.layers[n] R.run.line[n] x y b
      else b) (comps A.fmt A.bg.toNat))
  else 0

/-- A raster source at the present pixel (Tables RAS-1 and RAS-2). -/
def rasterSrc (s : State) (k : Fin 4) (src : Nat) : Bool :=
  let R := s.re[k]
  let A := R.active
  let x := R.run.x
  let y := R.run.y
  if src < 30 then (pixelNow s k).testBit src
  else if src = 32 then x < A.hact.toNat && y < A.vact.toNat
  else if src = 33 then
    let h := A.hact.toNat + A.hfp.toNat
    h ≤ x && x < h + A.hsync.toNat
  else if src = 34 then
    let v := A.vact.toNat + A.vfp.toNat
    v ≤ y && y < v + A.vsync.toNat
  else false

/-- The raster value of a map entry: its source, inverted as it says (Table RAS-2). -/
def rasterVal (s : State) (k : Fin 4) (e : BitVec 16) : Bool :=
  rasterSrc s k (bits e 5 0) != e.getLsbD 14

/-! ### Streams and the advance of the raster (R298, R303) -/

/-- Plaza p has a mapped column. -/
def isMapped (P : Plaza) : Bool := (List.finRange 64).any fun c => P.rmap[c].getLsbD 15

/-- The Plazas mapped to engine k (R301). -/
def mappedOf (s : State) (k : Fin 4) : List (Fin 16) :=
  ixs 16 fun p => reOf p == k && isMapped s.plz[p]

/-- The leader of engine k's stream, where its mapped Plazas share one (R303, R304). -/
def streamOf (s : State) (k : Fin 4) : Option (Fin 16) :=
  match mappedOf s k with
  | [] => none
  | p :: r => if r.all fun q => leaderOf s q == leaderOf s p then some (leaderOf s p) else none

/-- Layers that an engine fetches. -/
def fetching (R : Re) : Nat := (ixs 4 (layerOn R)).length

/-- The sum of R298 stays at 16 GB/s or below: 250 u / d over the running engines, u layers fetched and d
ps a pixel, is at most 1. -/
def fetchInTime (s : State) : Bool :=
  let es := (List.finRange 4).filterMap fun k =>
    let R := s.re[k]
    if R.run.phase = .running then
      some (fetching R, max (R.run.period * (R.active.cpp.toNat + 1)) 1)
    else none
  let d := es.foldl (fun a e => a * e.2) 1
  es.foldl (fun a e => a + 250 * e.1 * (d / e.2)) 0 ≤ d

/-- The layers whose words for the present pixel of engine k have not arrived: all of them in a line for which none
was fetched; else none while R298 promises so, and where it promises nothing it is left free (R298,
notes/assumptions/7.md). -/
def lateSel (s : State) (k : Fin 4) : BitVec 4 × State :=
  if (s.re[k]).run.unfetched then (0xF, s)
  else if fetchInTime s then (0, s)
  else takeFree s 4

/-- A pixel comes up: a layer's word that has not arrived counts as alpha 0, and each one counts (R298). -/
def newPixel (s : State) (k : Fin 4) : State :=
  let s := modRe s k fun R => { R with run := { R.run with fresh := false } }
  let f := lateSel s k
  let R := s.re[k]
  let A := R.active
  let late := ixs 4 fun n =>
    layerOn R n && R.run.x < A.hact.toNat && R.run.y < A.vact.toNat && (A.layers[n]).holds R.run.x R.run.y &&
      f.1.getLsbD n.val
  modRe f.2 k fun R =>
    { R with fetchLate := R.fetchLate || !late.isEmpty,
             run := { R.run with lateL := BitVec.ofNat 4 (late.foldl (fun a n => a + 2 ^ n.val) 0),
                                 late := R.run.late + late.length } }

/-- A run of engine k ends with a status (R305): RE_RUN and its RE_HALTs complete; a pending commit is
then made at once (R291). -/
def endRe (s : State) (k : Fin 4) (status : BitVec 8) : State :=
  let r := (s.re[k]).run
  if r.phase = .none then s
  else
    let st := if status = stOk ∧ r.late ≠ 0 then stPartial else status
    let s := modRe s k fun R => { R with run := { x := R.run.x, y := R.run.y } }
    let s := r.op.toList.foldl (fun s i => finishOp s i st
      [BitVec.ofNat 32 r.done, BitVec.ofNat 32 r.late, BitVec.ofNat 32 r.stalls,
       BitVec.ofNat 32 (b2n (r.late != 0))]) s
    let s := finishAll s r.halts stOk
    commitNow s k

/-- Vertical blanking begins (R289, R291, R305). -/
def vblankNow (s : State) (k : Fin 4) : State :=
  let R := s.re[k]
  if R.run.vblankDue then
    let s := modRe s k fun R => { R with run := { R.run with vblankDue := false } }
    let s := fire s (0x81 + k.val) (R.run.done % 256)
    let s := commitNow s k
    if R.run.halts.isEmpty then s else endRe s k stOk
  else s

/-- A frame has completed (R305). -/
def frameNow (s : State) (k : Fin 4) : State :=
  let R := s.re[k]
  if R.run.frameDue then
    let s := modRe s k fun R =>
      { R with run := { R.run with frameDue := false, done := R.run.done + 1 } }
    if R.run.frames ≠ 0 ∧ R.run.done + 1 ≥ R.run.frames then endRe s k stOk else s
  else s

/-- The raster moves to its next pixel (R289, R303). -/
def nextPixel (s : State) (k : Fin 4) : State :=
  let A := (s.re[k]).active
  let w := A.hact.toNat + A.hfp.toNat + A.hsync.toNat + A.hbp.toNat
  let h := A.vact.toNat + A.vfp.toNat + A.vsync.toNat + A.vbp.toNat
  let s := modRe s k fun R =>
    let r := { R.run with sub := 0, fresh := true }
    if r.x + 1 < w then { R with run := { r with x := r.x + 1 } }
    else if r.y + 1 < h then
      { R with run := { r with x := 0, y := r.y + 1, vblankDue := r.y + 1 == A.vact.toNat } }
    else { R with run := { r with x := 0, y := 0, frameDue := true } }
  if (s.re[k]).run.x = 0 then fetchLine s k else s

/-- What is due at engine k before the next cycle of its stream. -/
def reDue (s : State) (k : Fin 4) : State := frameNow (vblankNow s k) k

/-- A cycle of leader p's stream begins: an armed run whose trigger this is starts at pixel (0, 0)
(R304). `first`: it is cycle 0 of a pattern run. -/
def reCycle (s : State) (p : Fin 16) (first : Bool) (per : Nat) (k : Fin 4) : State :=
  let s := reDue s k
  let r := (s.re[k]).run
  if streamOf s k ≠ some p then s
  else if r.phase = .armed ∧ (r.trig = 0 ∨ (r.trig = 1 ∧ first) ∨ (r.trig = 2 ∧ r.fired)) then
    newPixel (fetchLine (modRe s k fun R =>
      { R with run := { R.run with phase := .running, x := 0, y := 0, sub := 0, period := per } }) k) k
  else if r.phase = .running && r.fresh then newPixel s k
  else s

/-- A cycle of leader p's stream ends: the raster counts it, or stalls (R303). -/
def reCount (s : State) (p : Fin 16) (counts : Bool) (per : Nat) (k : Fin 4) : State :=
  let R := s.re[k]
  if R.run.phase ≠ .running ∨ streamOf s k ≠ some p then s
  else if !counts then
    modRe s k fun R => { R with run := { R.run with stalls := R.run.stalls + 1, stalled := true } }
  else
    let s := modRe s k fun R =>
      { R with run := { R.run with stalled := false, period := per, sub := R.run.sub + 1 } }
    if R.run.sub + 1 > R.active.cpp.toNat then nextPixel s k else s

/-- The runs of the engines whose stream leader p plays, or played as they armed, end with a status (R305,
Table RAS-5). -/
def endStreams (s : State) (p : Fin 16) (status : BitVec 8) : State :=
  (List.finRange 4).foldl (fun s k =>
    if streamOf s k = some p ∨ (s.re[k]).run.leader = some p then endRe s k status else s) s

/-- The run of the engine that a Plaza is mapped to ends because the Plaza has entered FAULT (R306). -/
def endMapped (s : State) (p : Fin 16) : State :=
  if isMapped s.plz[p] then endRe s (reOf p) eAborted else s

end Sys2Proof.Machine
end

