-- ==== Sys2Proof/Machine/PlayOps.lean ====
section
/-! DEFINITION. One vector on the pins: what each channel drives and when, what it judges, and the
strobes that are judged then (03_pin_channels, 04_timing, 05_sequencer,
07_capture_verdicts). -/

namespace Sys2Proof.Machine

/-! ### Codes and their bits (R158, R165, R166, R302) -/

/-- Where the bit of an SD or SE comes from. -/
inductive BitSrc where
  | none | all (b : Bool) | site (i : Nat)
  /-- The complement of the last bit driven in the column before (R302). -/
  | flip
  deriving DecidableEq, Repr

/-- What a channel does with a code: drive one or two bits, repeat its last bit, or judge. -/
inductive Eff where
  | drv (d : Bool) | dd (a b : Bool) | keep | off (e : Nat)
  deriving DecidableEq, Repr

/-- Expectations of `Eff.off`: 0 none, 1 L, 2 H, 3 M, 4 store CV, 5 compare with CV (Table SEQ-2). -/
abbrev expNone : Nat := 0

/-- Table SEQ-2. -/
def effOf (code : Nat) (bit : Option Bool) : Eff :=
  match code with
  | 0 => .drv false
  | 1 => .drv true
  | 3 => .keep
  | 4 => .off 1
  | 5 => .off 2
  | 6 => .off 3
  | 8 => .off 4
  | 9 => .off 5
  | 10 => .dd false false
  | 11 => .dd false true
  | 12 => .dd true false
  | 13 => .dd true true
  | 14 => match bit with | some d => .drv d | none => .keep
  | 15 => match bit with | some true => .off 2 | some false => .off 1 | none => .off 0
  | _ => .off 0

/-- SD or SE. -/
def isBitCode (c : Nat) : Bool := c = 14 || c = 15

/-- A vector as a Plaza meets it: its record, whether it is an ordinary vector (no hold, fill or SYNC idle
vector, R166), whether it places strobes (R221), the run's time at its start, and its timing set. -/
structure VCtx where
  r       : BitVec 320
  normal  : Bool
  strobed : Bool
  t0      : Nat
  cyc     : BitVec 48
  tset    : TSet

/-- Column c - 1 is a pair and holds SD or SE (R302). -/
def pairedBy (s : State) (q : Fin 16) (x : VCtx) (c : Nat) : Bool :=
  c != 0 &&
    (let e := (s.plz[q]).rmap[Fin.ofNat 64 (c - 1)]
     e.getLsbD 15 && e.getLsbD 13 && isBitCode (recCode x.r (c - 1)))

/-- Column c takes a site-data bit (R165, R166, R302). -/
def takesSite (s : State) (q : Fin 16) (x : VCtx) (c : Nat) : Bool :=
  x.normal && isBitCode (recCode x.r c) && !((s.plz[q]).rmap[Fin.ofNat 64 c]).getLsbD 15 &&
    !pairedBy s q x c

/-- Site-data bits taken below column c. -/
def takenBelow (s : State) (q : Fin 16) (x : VCtx) (c : Nat) : Nat :=
  ((List.range c).filter fun i => takesSite s q x i).length

/-- The code that acts in column c and the source of its bit; `free` gives the bits of an armed raster
(R302; notes/assumptions/36.md). The second column of a pair takes the complement of the first's value; where
the first acts as DK that value is its last bit (R166). -/
def colSel (s : State) (q : Fin 16) (x : VCtx) (free : BitVec 64) (c : Nat) : Nat × BitSrc :=
  let k := reOf q
  let e (i : Nat) := (s.plz[q]).rmap[Fin.ofNat 64 i]
  if pairedBy s q x c then
    let code := recCode x.r (c - 1)
    let kept : BitSrc := if code = 14 then .flip else .none
    if !x.normal then (code, kept)
    else
      match (s.re[k]).run.phase with
      | .running => (code, .all (!rasterVal s k (e (c - 1))))
      | .armed => (code, .all (!free.getLsbD (c - 1)))
      | .none => (code, kept)
  else
    let code := recCode x.r c
    if !x.normal || !isBitCode code then (code, .none)
    else if (e c).getLsbD 15 then
      match (s.re[k]).run.phase with
      | .running => (code, .all (rasterVal s k (e c)))
      | .armed => (code, .all (free.getLsbD c))
      | .none => (code, .none)
    else (code, .site (takenBelow s q x c))

/-- Bit i from the pointer on in the buffer of site j of Plaza q (R164, R165). -/
def siteBit (s : State) (q : Fin 16) (j : Fin 16) (i : Nat) : Bool :=
  let n := ((s.plz[q]).seq.sdPtr.toNat + i) % 32768
  (Mem.read 0 ((s.plz[q]).seq.site[j]) (n / 8)).getLsbD (n % 8)

/-! ### One channel (R134 to R139, R146, R219 to R222) -/

/-- What a vector leaves of one channel. -/
structure ChOut where
  ch    : Chan
  see   : Option Seen := none
  /-- Its strobe's opening with and without deskew. -/
  opens : Option (Int × Nat) := none
  clip  : Bool := false
  edge  : Bool := false

/-- A drive transition to a level at a time: it is clipped to 625 ps after the one before; a level that is
already driven is none (R139, R146). -/
def driveTo (o : ChOut) (dk : Dsk) (t : Int) (level : Bool) : ChOut :=
  if o.ch.drvBit = level then o
  else
    let t := t + (if level then dk.r else dk.f)
    let near : Bool := match o.ch.lastTr with | some u => t < u + 625 | none => false
    let t := match o.ch.lastTr with | some u => if near then u + 625 else t | none => t
    { o with ch := { o.ch with drvBit := level, lastTr := some t }, clip := o.clip || near, edge := true }

/-- The driver part of a vector: turn-on, data, return, turn-off at their effective times (Tables TIM-2 and
TIM-3, R136, R146). From turn-on to E_DAT a driver with an earlier bit takes the level of Table TIM-3, not that
of Table TIM-2 where the two differ (RZ, RO and SBC; notes/assumptions/215.md); with none it drives VIL. -/
def driveChan (x : VCtx) (tc : TCol) (dk : Dsk) (lv : LvlCol) (eff : Eff) (o : ChOut) : ChOut :=
  let t0 : Int := x.t0
  match eff with
  | .off _ =>
    { o with
      edge := o.edge || o.ch.drvOn,
      ch := { o.ch with drvOn := false, loadOn := lv.loadEn, clampOn := lv.clampEn,
                        offAt := if o.ch.drvOn then some (t0 + tc.doff + dk.z) else o.ch.offAt } }
  | _ =>
    let d : Bool := match eff with
      | .drv d => d
      | .dd a _ => a
      | _ => o.ch.lastBit.getD false
    let o :=
      if o.ch.drvOn then o
      else
        let on : Bool := match o.ch.lastBit with
          | none => false
          | some b => if tc.dfmt = 3 then !d else if tc.dfmt = 0 then b else o.ch.drvBit
        { o with edge := true,
                 ch := { o.ch with drvOn := true, drvBit := on, onAt := some (t0 + tc.don + dk.z) } }
    let o := { o with ch := { o.ch with loadOn := false, clampOn := false } }
    let o := driveTo o dk (t0 + tc.dat) d
    let o :=
      if tc.dfmt = 1 then driveTo o dk (t0 + tc.ret) false
      else if tc.dfmt = 2 then driveTo o dk (t0 + tc.ret) true
      else if tc.dfmt = 3 then driveTo o dk (t0 + tc.ret) (!d)
      else match x.tset.ddm, eff with
        | true, .dd _ b => driveTo o dk (t0 + tc.ret) b
        | _, _ => o
    let last : Bool := match x.tset.ddm, eff with
      | true, .dd _ b => b
      | _, _ => d
    { o with ch := { o.ch with lastBit := some last } }

/-- The strobe's place: an opening before the previous window has closed closes that one (R139). -/
def strobeChan (x : VCtx) (tc : TCol) (dk : Dsk) (o : ChOut) : ChOut :=
  let op : Int := x.t0 + tc.sopn + dk.s
  let clip : Bool := match o.ch.winEnd with | some e => op < e | none => false
  { o with clip := o.clip || clip, edge := true, opens := some (op, x.t0 + tc.sopn),
           ch := { o.ch with winEnd := if tc.win then some (x.t0 + tc.scls + dk.s) else none } }

/-- The elements of a channel answer to pin codes: S_DRV closed, not parked, mode PE or PE_MON. -/
def answers (ch : Chan) : Bool :=
  ch.sDrv && !ch.parked && (ch.mode == .pe || ch.mode == .peMon)

/-- What the strobe of channel c sees at its effective times, with an expectation (R146, R219, R222;
notes/assumptions/216.md). -/
def seeChan (s : State) (c : Fin 1024) (x : VCtx) (tc : TCol) (dk : Dsk) (w : PinWave) (ch : Chan) (exp : Nat) :
    Seen :=
  let a : Int := tc.sopn + dk.s
  let dw := dwOf (calEntry s (.chDc (chPlaza c)) (22 * (chIx c).val + 21))
  let after (out : Int → Bool) : List (Int × Bool) :=
    (w.steps.filter fun y => decide (a < y.1)).map fun y => (x.t0 + y.1, out y.2)
  { exp := exp, win := tc.win, b := x.t0 + tc.scls + dk.s, close := x.t0 + tc.scls, dwH := dw.1, dwL := dw.2,
    h0 := outH s c ch (pinAt w a), l0 := outL s c ch (pinAt w a),
    hs := after (outH s c ch), ls := after (outL s c ch) }

/-- Channel c through one vector; a masked one is judged and does not fail (R160). -/
def playChan (s : State) (c : Fin 1024) (x : VCtx) (tc : TCol) (dk : Dsk) (lv : LvlCol) (eff : Eff) (masked : Bool)
    (w : PinWave) (ch : Chan) : ChOut :=
  let act := answers ch
  let o : ChOut := { ch := ch }
  let o := if act then driveChan x tc dk lv eff o else o
  if x.strobed then
    let exp : Nat := match eff with | .off e => if masked then expNone else e | _ => expNone
    { strobeChan x tc dk o with see := if act then some (seeChan s c x tc dk w ch exp) else none }
  else o

/-! ### One Plaza -/

/-- The level set a vector names reaches Plaza q's DACs (R114). -/
def vectorLevels (s : State) (q : Fin 16) (ls : Fin 8) : State :=
  if (s.plz[q]).pin.lsCur = ls then s
  else startSettle (applyLevels (modPin s q fun n => { n with lsCur := ls }) q ls) q

/-- Bits of an armed raster for Plaza q, where a mapped column needs one. -/
def armedBits (s : State) (q : Fin 16) (x : VCtx) : BitVec 64 × State :=
  if (s.re[reOf q]).run.phase = .armed && x.normal &&
      (List.finRange 64).any (fun c =>
        (s.plz[q]).rmap[c].getLsbD 15 && isBitCode (recCode x.r c.val)) then takeFree s 64
  else (0, s)

/-- The channels of Plaza q through a vector; a disabled site's channels take no part (R193). -/
def playChans (s : State) (q : Fin 16) (siteEn : BitVec 256) (x : VCtx) (free : BitVec 64)
    (pins : List PinWave) : Vector ChOut 64 :=
  let P := s.plz[q]
  let w := widthOf s q
  updAll P.chans fun k ch =>
    let j : Fin 16 := Fin.ofNat 16 (k.val / w)
    let c := colOf w k
    if !siteIn siteEn q j.val then { ch := ch }
    else
      let sel := colSel s q x free c.val
      let bit : Option Bool := match sel.2 with
        | .none => none
        | .all b => some b
        | .site i => some (siteBit s q j i)
        | .flip => some (!((P.chans[Fin.ofNat 64 (k.val - 1)]).lastBit.getD false))
      let masked := P.seq.masks[recMg x.r].getLsbD c.val || P.pin.settling
      let dk := (P.tim.dsk[P.tim.applied])[k]
      let g := chOf q k
      let w : PinWave := (pins.find? fun w => w.chan == g).getD ⟨g, 0, []⟩
      playChan s g x (x.tset.cols[c]) dk ((P.pin.levels[P.pin.lsCur])[c]) (effOf sel.1 bit) masked w ch

/-- The site-data pointer after a vector; the flag says that it wrapped (R165). -/
def sdNext (s : State) (q : Fin 16) (x : VCtx) : BitVec 15 × Bool :=
  let n := takenBelow s q x (widthOf s q)
  let a := (s.plz[q]).seq.sdPtr.toNat + n
  (BitVec.ofNat 15 a, 32768 ≤ a)

/-- Plaza q through a vector of leader p's run: channels, site data, markers as others see them (R258), and the windows
that its strobes close. Answers what is to be judged of it, and whether the cycle had an edge. -/
def playPlaza (s : State) (p q : Fin 16) (x : VCtx) (mrk : Bool) (mids : List (BitVec 16))
    (pins : List PinWave) : State × LatePlz × Bool :=
  let fr := armedBits s q x
  let s := fr.2
  let outs := playChans s q (s.plz[p]).run.siteEn x fr.1 pins
  let sd := sdNext s q x
  let s := modPlz s q fun P => { P with chans := updAll P.chans fun k _ => outs[k].ch }
  let s := modSeq s q fun y => { y with sdPtr := sd.1, sdWrap := y.sdWrap || sd.2 }
  let clip : Bool := (List.finRange 64).any fun k => outs[k].clip
  let stale := (s.plz[q]).tim.stale
  let s := modTim s q fun t => { t with edgeClip := t.edgeClip || clip }
  let s := modRun s p fun r =>
    { r with sdWrap := r.sdWrap || sd.2, edgeClip := r.edgeClip || clip, stale := r.stale || stale,
             late := r.late.map (Late.cut q fun k => outs[k].opens) }
  let s := ((if mrk then [0] else []) ++ mids).foldl (fun s m => markSeen s q m) s
  (s, { plaza := q, stale := stale, mrk := mrk, mids := mids,
        sees := updAll (Vector.replicate 64 (none : Option Seen)) fun k _ => outs[k].see },
   (List.finRange 64).any fun k => outs[k].edge)

/-! ### The set -/

/-- In-stream actions that take effect as the vector begins: neither markers nor CLRF (R169). -/
def takeOthers (s : State) (p : Fin 16) (acts : List Act) : State :=
  (oneEvt acts).foldl (fun s a => match a with
    | .mark _ => s
    | .clrf => s
    | a => takeAct s p 0 0 0 a) s

/-- The markers among some actions. -/
def midsOf (acts : List Act) : List (BitVec 16) :=
  acts.filterMap fun a => match a with | .mark m => some m | _ => none

/-- The counter of edge-free cycles, and the quiet point at the end of the 64th and of each one after it, so
that a load finds the cycles before it counted (R144; notes/assumptions/155.md). A strobe at or beyond the period
counts in the cycle of the vector that places it, not in the next, where it falls (notes/assumptions/242.md). -/
def edgeFree (s : State) (p : Fin 16) (edge : Bool) : State :=
  if edge then modTim s p fun t => { t with edgeFree := 0 }
  else
    let n := min ((s.plz[p]).tim.edgeFree + 1) 64
    let s := modTim s p fun t => { t with edgeFree := n }
    if n = 64 then quietSet s p else s

/-- Leader p's set plays the record r as one cycle: `normal` an ordinary vector, `mrk` its MRK counts,
`acts` the in-stream actions it carries, `id` its entry and `rep` the number of the repetition where a WAITM plays it.
It is to be judged when its windows have closed (R133, R139, R165, R166, R169, R221). -/
def playCycle (s : State) (p : Fin 16) (r : BitVec 320) (normal mrk : Bool) (acts : List Act)
    (id rep : Option Nat) (pins : List PinWave) : State :=
  let first : Bool := (s.plz[p]).run.cyc == 0
  let s := if first then quietSet s p else s
  let tset := (s.plz[p]).tim.ts[recTs r]
  let s := (List.finRange 4).foldl (fun s k => reCycle s p first tset.period k) s
  let s := takeOthers s p acts
  let set := setOf s p
  let s := set.foldl (fun s q => vectorLevels s q (recLs r)) s
  let run := (s.plz[p]).run
  let x : VCtx :=
    { r := r, normal := normal, strobed := normal && !recNoStb r, t0 := run.ps, cyc := run.cyc.setWidth 48,
      tset := tset }
  let res := set.foldl (fun (a : State × List LatePlz × Bool) q =>
    let b := playPlaza a.1 p q x (mrk && recMrk r) (midsOf acts) pins
    (b.1, a.2.1 ++ [b.2.1], a.2.2 || b.2.2)) (s, [], false)
  let v : LateVec :=
    { id := id, rep := rep, t1 := run.ps + tset.period, clrf := acts.any (· == .clrf), strobed := x.strobed,
      cap := recCap r, cyc := x.cyc, user := recUser r, tag := recTag r, parts := res.2.1 }
  let s := modRun res.1 p fun r =>
    { r with cyc := r.cyc + 1, ps := r.ps + tset.period, late := r.late ++ [.vec v] }
  let s := (List.finRange 4).foldl (fun s k => reCount s p normal tset.period k) s
  edgeFree s p res.2.2

end Sys2Proof.Machine
end

