-- ==== Sys2Proof/Machine/SerOps.lean ====
section
/-! DEFINITION. Port M's shared operations: the flash view and its lines, the end of a transaction,
what a start finds (14_serial_ports, R386 to R400). -/

namespace Sys2Proof.Machine

/-- A control-core flash read fails: a firmware fault, and a firmware restart follows (R399, R424). -/
def coreReadFails (s : State) : State :=
  { report s 176 fcFwFault with boot := { s.boot with restartDue := some false } }

/-- Host view reads that wait are answered with all ones (R399). -/
def failViews (s : State) : State :=
  if s.pm.reads.any fun r => !r.core then
    { s with rdata := onesB 4,
             pm := { s.pm with viewMiss := true, reads := s.pm.reads.filter (·.core) } }
  else s

/-- Core view reads that wait are answered with all ones because port M is OFF (R399). -/
def failCoreViews (s : State) : State :=
  if s.pm.reads.any (·.core) then
    coreReadFails { s with pm := { s.pm with reads := s.pm.reads.filter fun r => !r.core } }
  else s

/-- PM_DENS in bytes. -/
def pmBytes (s : State) : Nat := s.pm.densKib.toNat * 1024

/-- A word of the flash view: bytes at or above PM_DENS read 0xFF (R396). -/
def viewWord (s : State) (a : Nat) : Nat :=
  leNat ((List.range 4).map fun i => if a + i < pmBytes s then Mem.read 0xFF s.flash (a + i) else 0xFF)

/-- A view read is served. -/
def serveView (s : State) (r : ViewRead) : State :=
  if r.core then s else { s with rdata := leBytes 4 (viewWord s r.addr) }

/-- Lines used now come first; four are held (R396). -/
def touchLine (ls : List Nat) (l : Nat) : List Nat := (l :: ls.filter (· != l)).take 4

/-! ### Lines (R386 to R388) -/

/-- The lines of R387: no select asserted, PM_SCK low, PM_IO[3:0] high-impedance. DEDUCED (log 234): the same
between transactions. -/
def releaseSel (s : State) : State :=
  { s with pm := { s.pm with sel := 0, selOn := false, sck := false, io := {}, wave := [] } }

/-- A word on 2 ^ width wires, cycle by cycle (R386, R390): the most significant bits first, or with LSBF the
least significant. DEDUCED (log 234): the higher bit on the higher wire, other wires high-impedance. -/
def unitClks (u : PmUnit) (w : Nat) : List PmIo :=
  let n := 2 ^ u.width
  (List.range (u.len / n)).map fun j =>
    { en := BitVec.ofNat 4 (2 ^ n - 1),
      val := BitVec.ofNat 4 (w / 2 ^ (if u.lsbf then j * n else u.len - (j + 1) * n) % 2 ^ n) }

/-- What PM_IO carries in an entry's units: the words of an out entry; in the others port M drives nothing. A
poll entry is one poll. -/
def entryClks (u : PmUnit) (ws : List Nat) : List PmIo :=
  if u.kind = 0 then ws.flatMap (unitClks u)
  else if u.kind = 2 then List.replicate (u.count * u.len) {}
  else List.replicate ((if u.kind = 3 then 1 else u.count) * (u.len / 2 ^ u.width)) {}

/-- The PM_SCK cycles of a program, entry by entry, the words of out units taken from OUT (R390). -/
def pmWave (bs : List Byte) : List PmUnit → Nat → List (List PmIo)
  | [], _ => []
  | u :: us, i =>
    let n := if u.kind = 0 then u.count else 0
    entryClks u ((List.range n).map fun j => numAt bs (4 * (i + j)) 4) :: pmWave bs us (i + n)

/-! ### The flash view's fetches (R396 to R398) -/

/-- A fetch of the view from a flash address (R394, R395, R397). -/
def viewFetch (s : State) (a : Nat) : PmFetch :=
  let r := s.pm.rd
  { instr := if s.pm.omitOn then none else some r.instr, addr := a, addrBytes := r.addrBytes,
    cont := s.pm.omit_ && s.pm.contRead, dummy := r.dummy, div := if r.slow then 3 else s.pm.xDiv }

/-- Wires of the address and of the data of a read mode, as powers of 2 (R386, R394): 1-1-1, 1-1-2, 1-2-2, 1-1-4,
1-4-4. -/
def modeWires (mode : Nat) : Nat × Nat :=
  match mode with
  | 1 => (0, 1)
  | 2 => (1, 1)
  | 3 => (0, 2)
  | 4 => (2, 2)
  | _ => (0, 0)

/-- n bits out, the most significant first, on 2 ^ width wires. -/
def outClks (width n x : Nat) : List PmIo :=
  unitClks { wait := false, lsbf := false, kind := 0, width := width, len := n, count := 1, mask := 0, match_ := 0 } x

/-- The PM_SCK cycles of a flash read of n bytes in a mode: instruction and address out, mode bits out, the other
dummy cycles and the data with PM_IO released (R386, R394). What the mode bits hold is the flash's own: they are free
(notes/assumptions/234.md). -/
def fetchClks (s : State) (f : PmFetch) (mode modes n : Nat) : List PmIo × State :=
  let (aw, dw) := modeWires mode
  let bits := takeFree s (4 * modes)
  let wires := 2 ^ (2 ^ aw) - 1
  let modeClks : List PmIo := (List.range modes).map fun j =>
    { en := BitVec.ofNat 4 wires, val := bits.1.extractLsb' (4 * j) 4 &&& BitVec.ofNat 4 wires }
  (((f.instr.map fun i => outClks 0 8 i.toNat).getD []) ++ outClks aw (8 * f.addrBytes) f.addr ++ modeClks ++
    List.replicate (f.dummy - modes + 8 * n / 2 ^ dw) {}, bits.2)

/-- Continuous read ends with a fetch whose mode bits do not continue it (R397). -/
def endOmit (s : State) : State :=
  match s.pm.omitOn, s.pm.sent with
  | true, some f =>
    let f : PmFetch := { f with instr := none, cont := false }
    let w := fetchClks s f s.pm.mode.toNat s.pm.rd.modes 0
    { w.2 with pm := { w.2.pm with omitOn := false, sent := some f, wave := [w.1] } }
  | _, _ => { s with pm := { s.pm with omitOn := false } }

/-- Reads of bytes at or above PM_DENS fetch nothing: those that wait are served once the view is (R396, R399). -/
def serveBlank (s : State) : State :=
  if isOn s .portM && !s.pm.xblock then
    let blank (r : ViewRead) : Bool := pmBytes s ≤ r.addr
    (s.pm.reads.filter blank).foldl serveView
      { s with pm := { s.pm with reads := s.pm.reads.filter fun r => !blank r } }
  else s

/-- A waiting read's line fill begins where port M is free to: ON, no transaction, no fill, the view not
blocked (R396, R398). A core read's fill follows the same rules. -/
def startFill (s : State) : State :=
  let s := serveBlank s
  match s.pm.reads with
  | [] => s
  | r :: _ =>
    if s.pm.eng.st == .on && s.pm.xfer.isNone && s.pm.fill.isNone && !s.pm.xblock then
      let l := r.addr / 64
      let n := if s.pm.prefetch && !s.pm.lines.contains (l + 1) && (l + 1) * 64 < pmBytes s then 2 else 1
      let f := viewFetch s (l * 64)
      let w := fetchClks s f s.pm.mode.toNat s.pm.rd.modes (64 * n)
      let s := w.2
      { s with pm := { s.pm with fill := some (l, n), omitOn := f.cont, sent := some f, sel := 0, selOn := true,
                                 sckDiv := f.div, wave := [w.1], io := w.1.headD {} } }
    else s

/-! ### Transactions (R389 to R392) -/

/-- The entries of a PM_XFER, read from host memory (Table SER-3). -/
def pmProg (s : State) (d : List Word) : List PmUnit :=
  (List.range (bits (wd d 3) 12 0)).map fun i =>
    let bs := hostRead s (wd64 d 4 + 16 * i) 16
    let w := numAt bs 0 4
    { wait := w.testBit 15, lsbf := w.testBit 14, kind := w / 2 ^ 12 % 4, width := w / 2 ^ 8 % 4, len := w % 64,
      count := numAt bs 4 4, mask := BitVec.ofNat 32 (numAt bs 8 4), match_ := BitVec.ofNat 32 (numAt bs 12 4) }

/-- The bits of a word that a unit of an entry carries. -/
def cutWord (u : PmUnit) (w : Nat) : Word := BitVec.ofNat 32 (w % 2 ^ u.len)

/-- The word that a unit's bits make, given as they arrived, the first uppermost (R386): with LSBF the cycles'
bits are the lowest first. -/
def arrived (u : PmUnit) (x : Nat) : Nat :=
  if u.lsbf then
    let n := 2 ^ u.width
    (List.range (u.len / n)).foldl (fun y j => y + x / 2 ^ (u.len - (j + 1) * n) % 2 ^ n * 2 ^ (j * n)) 0
  else x

/-- Word j that an entry's units receive, cut to their bits; a word that did not come reads 0. -/
def wordIn (u : PmUnit) (ws : List Word) (j : Nat) : Word :=
  cutWord u (arrived u ((ws.getD j 0).toNat % 2 ^ u.len))

/-- The first of n polls whose data matches (R390). -/
def pollAt (u : PmUnit) (ws : List Word) (n : Nat) : Option Nat :=
  (List.range n).find? fun j => wordIn u ws j &&& u.mask == u.match_

/-- How a program's units went: units completed, words for IN, the entry of the last unit, the entry of the
unit that would follow, whether a poll missed, whether units were left. -/
structure PmRun where
  units : Nat
  got   : List Word
  last  : Nat
  next  : Nat
  miss  : Bool
  left  : Bool

/-- A run of n units of entry i that gave some words goes before the run of what follows. -/
def PmRun.after (n : Nat) (ws : List Word) (r : PmRun) : PmRun :=
  { r with units := n + r.units, got := ws ++ r.got }

/-- The units of a program in entry order from entry i, at most b of them where b is given (R390 to R392). -/
def pmRun : List PmUnit → Nat → Option Nat → List Word → PmRun
  | [], i, _, _ => { units := 0, got := [], last := i - 1, next := i, miss := false, left := false }
  | u :: us, i, b, ws =>
    let n := (b.map fun k => min k u.count).getD u.count
    let stop (got : List Word) (miss : Bool) : PmRun :=
      { units := n, got := got, last := if n = 0 then i - 1 else i, next := i, miss := miss, left := true }
    if u.kind = 3 then
      match pollAt u ws n with
      | some j =>
        (pmRun us (i + 1) (b.map (· - (j + 1))) (ws.drop (j + 1))).after (j + 1) [wordIn u ws j]
      | none => stop (if n = 0 then [] else [wordIn u ws (n - 1)]) (n == u.count)
    else
      let got := if u.kind = 1 then (List.range n).map (wordIn u ws) else []
      if n < u.count then stop got false
      else (pmRun us (i + 1) (b.map (· - n)) (if u.kind = 1 then ws.drop n else ws)).after n got

/-- A transaction's select is asserted: PM_SCK idles as its mode says, PM_IO holds its first bits where no wait
comes first; the fetch that ends continuous read goes ahead of them (R386 to R391, R397, R398). -/
def startXfer (s : State) (id : OpId) : State :=
  match op? s id with
  | none => s
  | some o =>
    let d := o.cur
    let sel : BitVec 5 := BitVec.ofNat 5 (bits (wd d 2) 4 0)
    let us := pmProg s d
    let wave := pmWave (hostRead s (wd64 d 6) (4 * (wd d 10).toNat)) us 0
    let waits : Bool := (us.head?.map (·.wait)).getD false
    let s := if sel = 0 then endOmit s else s
    let first : Bool := s.pm.wave.isEmpty
    let wave := s.pm.wave ++ wave
    let s := { s with pm := { s.pm with
      xfer := some id, prog := us, sel := sel, selOn := true, sck := (wd d 2).getLsbD 8,
      sckDiv := BitVec.ofNat 8 (bits (wd d 2) 23 16), wave := wave,
      io := if waits && first then {} else (wave.head?.bind (·.head?)).getD {} } }
    if sel = 0 then
      { s with pm := { s.pm with lines := [], xblock := s.pm.xblock || (wd d 2).getLsbD 24 } }
    else s

/-- The transaction's select is released, and what that ends (R388, R398). -/
def endXfer (s : State) (o : Op) : State :=
  let onZero : Bool := s.pm.sel == 0
  let s := releaseSel { s with pm := { s.pm with xfer := none, prog := [], met := {}, doom := none } }
  if onZero then
    { s with pm := { s.pm with lines := [],
                               xblock := s.pm.xblock && (wd o.cur 2).getLsbD 24 } }
  else s

/-- Port M takes what waits: a line fill first, then the oldest PM_XFER (R71, R398); while it is not ON, a
PM_XFER gets E_ARG at its turn (R389). -/
def pumpPm (s : State) : State :=
  let s := startFill s
  if s.pm.eng.st != .on then
    finishAll { s with pm := { s.pm with queue := [] } } s.pm.queue eArg
  else
    match inOrder s s.pm.queue with
    | [] => s
    | id :: r =>
      if s.pm.xfer.isNone && s.pm.fill.isNone then
        startXfer { s with pm := { s.pm with queue := r } } id
      else s

/-- What the units that have run leave: what the boot flash holds then, and the words of IN (R390). -/
def takeXfer (s : State) (o : Op) (res : PmXferRes) (r : PmRun) : State :=
  let s := match s.pm.sel == 0, res.flash with
    | true, some f => { s with flash := f.foldl (fun m c => Mem.write 0xFF m c.1 c.2) [] }
    | _, _ => s
  hostWrite s (wd64 o.cur 8) (bytesOf r.got)

/-- The transaction's select is released: the completion with status st and the entry at which it ended. -/
def closeXfer (s : State) (o : Op) (r : PmRun) (st : BitVec 8) (entry : Nat) : State :=
  pumpPm (finishOp (endXfer s o) o.id st
    [BitVec.ofNat 32 r.units, BitVec.ofNat 32 r.got.length, BitVec.ofNat 32 entry, BitVec.ofNat 32 (b2n r.miss)])

/-- The run of a program has come to a unit that waits for its ready line (R391). -/
def standsAt (us : List PmUnit) (r : PmRun) : Bool :=
  r.left && !r.miss && ((us[r.next]?).map (·.wait)).getD false

/-- A transaction in progress is cut short with a status (R392): its unit in progress finishes first; one that
stands at a wait ends at once (Table SER-10). No command tells that the ready line has come: whether the unit that
waited for it is in progress is free (notes/assumptions/228.md). -/
def doomXfer (s : State) (status : BitVec 8) : State :=
  match s.pm.xfer.bind (op? s) with
  | none => s
  | some o =>
    let r := pmRun s.pm.prog 0 (some s.pm.met.units) s.pm.met.words
    if s.pm.doom.isSome then s
    else if standsAt s.pm.prog r then
      let ready := takeFree s 1
      if ready.1 = 1 then { ready.2 with pm := { ready.2.pm with doom := some status } }
      else closeXfer ready.2 o r status r.last
    else { s with pm := { s.pm with doom := some status } }

/-- FAULT of port M: its lines rest at once, every PM_XFER ends with E_ABORTED, and what had been waiting
for a line gets none (Table SER-5); what the end of the one in progress ends, ends (R398). -/
def pmFault (s : State) : State :=
  let ids := s.pm.xfer.toList ++ s.pm.queue
  let s := match s.pm.xfer.bind (op? s) with
    | some o => endXfer s o
    | none => s
  let s := releaseSel { s with pm := { s.pm with xfer := none, queue := [], fill := none } }
  failViews (finishAll s ids eAborted)

/-- STOPPING of port M begins (Table SER-5, R392). -/
def pmStopping (s : State) : State := failViews (pumpPm (doomXfer s eAborted))

/-- Port M reaches OFF; `stopped`: through STOPPING, which has ended continuous read (R397). The lines are
invalid, view reads are answered. -/
def pmOff (s : State) (stopped : Bool) : State :=
  let s := if stopped then endOmit s else s
  let s := releaseSel { s with pm := { s.pm with lines := [], fill := none } }
  failCoreViews (failViews s)

/-! ### The boot flash's description (R393 to R395) -/

/-- The read of SFDP space: 1-wire at 25 MHz, instruction 0x5A, a 3-byte address, 8 dummy cycles. -/
def sfdpFetch : PmFetch :=
  { instr := some 0x5A, addr := 0, addrBytes := 3, cont := false, dummy := 8, div := 3 }

/-- STARTING: the mode-bit reset, select code 0 for 16 cycles with PM_IO[3:0] all high, which ends any
continuous read; then SFDP space is read (R393). -/
def pmStarting (s : State) : State :=
  let w := fetchClks s sfdpFetch 0 0 512
  { w.2 with pm := { w.2.pm with
    sel := 0, selOn := true, sck := false, sckDiv := sfdpFetch.div, io := ⟨0xF, 0xF⟩,
    wave := [List.replicate 16 ⟨0xF, 0xF⟩, w.1], omitOn := false, sent := some sfdpFetch } }

/-- The Basic Flash Parameter Table, of major revision 1, that the first parameter header of SFDP space names
(notes/assumptions/236.md); where it does not lie in the 512 bytes held, its bytes are free. -/
def basicTable (s : State) (bs : List Byte) : List Byte × State :=
  let p := numAt bs 12 3
  let n := 4 * numAt bs 11 1
  if numAt bs 5 1 ≠ 1 ∨ numAt bs 10 1 ≠ 1 then ([], s)
  else if p + n ≤ 512 then (sliceB bs p n, s)
  else
    let f := takeFree s (8 * n)
    (bvBytes n f.1, f.2)

/-- DWORD i of a parameter table, counted from 1; one that the table does not have reads 0. -/
def tableWord (t : List Byte) (i : Nat) : Word := BitVec.ofNat 32 (numAt t (4 * (i - 1)) 4)

/-- The density that a Basic Flash Parameter Table reports, in KiB, held to 32 bits. -/
def tableKib (t : List Byte) : Nat :=
  let d := tableWord t 2
  if d.getLsbD 31 then (if bits d 30 0 ≤ 44 then 2 ^ bits d 30 0 / 8192 else 2 ^ 32 - 1)
  else (d.toNat + 1) / 8192

/-- The density of the flash in KiB (R394); where no table reports one it is free. -/
def flashKib (s : State) (t : List Byte) : Nat × State :=
  if 8 ≤ t.length then (tableKib t, s)
  else
    let f := takeFree s 32
    (f.1.toNat, f.2)

/-- The modes of R394 that a table reports, where `quad` says that the quad modes may be used. -/
def tableMode (t : List Byte) (quad : Bool) : Nat → Bool
  | 1 => (tableWord t 1).getLsbD 16
  | 2 => (tableWord t 1).getLsbD 20
  | 3 => quad && (tableWord t 1).getLsbD 22
  | 4 => quad && (tableWord t 1).getLsbD 21
  | _ => true

/-- The first of 1-4-4, 1-1-4, 1-2-2, 1-1-2, 1-1-1 that the flash reports and MODES allows (R394). -/
def chooseMode (t : List Byte) (quad : Bool) (allowed : BitVec 5) : Nat :=
  ([4, 3, 2, 1].find? fun m => tableMode t quad m && allowed.getLsbD m).getD 0

/-- How a mode reads: instruction, dummy and mode cycles as the table gives them; with 4-byte addresses the
instruction of its own (R394). -/
def tableRead (t : List Byte) (mode : Nat) (four : Bool) : PmRead :=
  let half (w : Word) (i4 : BitVec 8) : BitVec 8 × BitVec 8 × Nat × Nat :=
    (BitVec.ofNat 8 (bits w 15 8), i4, bits w 4 0, bits w 7 5)
  let (i3, i4, wait, modes) : BitVec 8 × BitVec 8 × Nat × Nat := match mode with
    | 1 => half (tableWord t 4) 0x3C
    | 2 => half (tableWord t 4 >>> 16) 0xBC
    | 3 => half (tableWord t 3 >>> 16) 0x6C
    | 4 => half (tableWord t 3) 0xEC
    | _ => (0x03, 0x13, 0, 0)
  { instr := if four then i4 else i3, addrBytes := if four then 4 else 3, dummy := wait + modes, modes := modes,
    slow := false }

/-- Whether the flash lets the quad modes be used (R394): it reports that no quad-enable bit exists, or the bit,
which the W1024 reads, is set. -/
def quadUsable (s : State) (t : List Byte) : Bool × State :=
  match bits (tableWord t 15) 22 20 with
  | 0 => (60 ≤ t.length, s)
  | 6 => (false, s)
  | 7 => (false, s)
  | _ => let f := takeFree s 1; (f.1.getLsbD 0, f.2)

/-- Port M reaches ON. What the flash's SFDP space holds is outside the W1024: its 512 bytes are free. The read
mode, the density and continuous read follow from them and from MODES (R394). Without the signature the
fall-back of R395 stands. -/
def pmOn (s : State) : State :=
  let s := releaseSel s
  let f := takeFree s 4096
  let bs := bvBytes 512 f.1
  let s := { f.2 with pm := { f.2.pm with sfdp := bs } }
  if leNat (bs.take 4) = 0x50444653 then
    let t := basicTable s bs
    let q := quadUsable t.2 t.1
    let k := flashKib q.2 t.1
    let s := k.2
    let four : Bool := 0x4000 < k.1 && (tableWord t.1 16).getLsbD 29
    let mode := chooseMode t.1 q.1 s.pm.modes
    startFill { s with pm := { s.pm with
      sfdpOk := true, mode := BitVec.ofNat 3 mode, rd := tableRead t.1 mode four,
      densKib := BitVec.ofNat 32 (if four then k.1 else min k.1 0x4000),
      contRead := mode == 4 && (tableWord t.1 15).getLsbD 9 } }
  else
    startFill { s with pm := { s.pm with
      sfdpOk := false, mode := 0, rd := {}, densKib := 0x4000, contRead := false } }

end Sys2Proof.Machine
end

