-- ==== Sys2Proof/Machine/EngOps.lean ====
section
/-! DEFINITION. The block state machine of the switchable engines as shared operations: what an engine
does as it starts, stops, rests and faults, which enables are rejected, requests, link sets
(01_architecture, R17 to R51). -/

namespace Sys2Proof.Machine

/-! ### Link sets and power -/

/-- The engine whose requests e obeys: a member's leader. -/
def headOf (s : State) (e : Eng) : Eng :=
  match e with
  | .plaza p => .plaza (leaderOf s p)
  | e => e

/-- Every Plaza is OFF: IDLE is entered (Table ARC-5). -/
def idleCheck (s : State) : State :=
  if s.glb.pwr = .active && !s.glb.busy && (List.finRange 16).all fun p => isOff s (.plaza p) then
    { s with glb := { s.glb with pwr := .idle } }
  else s

/-- A Plaza leaves OFF: IDLE is left (Table ARC-5). -/
def leaveIdle (s : State) : State :=
  if s.glb.pwr = .idle then { s with glb := { s.glb with pwr := .active } } else s

def setSt (s : State) (e : Eng) (st : EngState) : State := modEng s e fun c => { c with st := st }

/-! ### Which enables are rejected -/

/-- A CAL_RUN that was dispatched and proceeds: it waits for its converter, or its row has not run yet and its
prerequisites hold. -/
def calDue (s : State) (o : Op) (k : CalKey) : Bool :=
  o.live && opcodeOf o.cur == 0x80 && calNamed o.cur == some k &&
    (s.dram.monWait.contains o.id || o.phase == .dispatched && calPrereq s k && calRefOk s k)

/-- A calibration procedure runs on the engine or Plaza, or was dispatched first and is yet to begin (R373,
R385). -/
def calibrating (s : State) (e : Eng) : Bool :=
  (s.cal.running.any fun r => calOn r.key e) ||
    s.ops.any fun o => (calNamed o.cur).any fun k => calOn k e && calDue s o k

/-- The enable of a Plaza is rejected for its link set or its width (R24, R26). -/
def setBad (s : State) (p : Fin 16) : Bool :=
  4 < (s.plz[p]).cfg.width.toNat ||
    (setOf s p).any fun q =>
      (s.plz[q]).cfg.width != (s.plz[p]).cfg.width || !(isOff s (.plaza q) || q == p)

/-- A condition that rejects an enable in any state (R373, R383, R418). -/
def alwaysBlocked (s : State) (e : Eng) : Bool :=
  (together s e).any (fun x => calibrating s x) || throttled s e ||
    (s.boot.stage == .recovery && e != .portM)

/-- A condition that rejects an enable about to start the engine (R26, R35, R51, R109, R129, R217). No Plaza
starts whose PE die has had no sample (R150; notes/assumptions/229.md). R35
rejects until the return to ACTIVE has ended, which after a wake is the end of start-up. DESIGN CHOICE
(R35 names neither STANDBY nor DEEP SLEEP for the state between, notes/assumptions/209.md): port M
may be enabled while DEEP SLEEP is requested and awaited. -/
def startBlocked (s : State) (e : Eng) : Bool :=
  alwaysBlocked s e ||
    (match e with
     | .portM => s.glb.pwr == .deepSleep
     | _ => !peUp s || !startedUp s) ||
    (match e with
     | .plaza _ | .awg _ | .dps _ => s.park.stands
     | _ => false) ||
    (match e with
     | .plaza p => setBad s p || s.patch.st == 1 ||
         (setOf s p).any fun q => !convertible s q || (s.plz[q]).pin.selftest.isSome ||
           ((s.thm.dies[Fin.ofNat 10 (peOf q).val]).band).isNone
     | _ => false)

/-- SPAN_CONFLICT is set on the Plazas whose requests do not convert (R109). -/
def noteSpans (s : State) (e : Eng) : State :=
  match e with
  | .plaza p => (setOf s p).foldl (fun s q =>
      if convertible s q then s else modPin s q fun n => { n with spanConflict := true }) s
  | _ => s

/-- A request is rejected (R41). -/
def rejectReq (s : State) (e : Eng) : State := modEng s e fun c => { c with reqRejected := true }
/-- A request is absorbed (R41); one that meets another of its kind counts with it as one (R44). -/
def absorbReq (s : State) (e : Eng) (m : Meet) : State :=
  if m = .withSame then s else modEng s e fun c => { c with absorbed := true }

/-! ### What each engine does as it changes state -/

/-- Work on Plaza p's channels and TMUs that its FAULT ends with E_ABORTED, what waits first (Table MEA-12). -/
def faultMeas (s : State) (p : Fin 16) : State :=
  let on (o : Op) : Bool :=
    if opcodeOf o.cur = 0x50 then (pmuPlazas s o.cur).contains p else bits (wd o.cur 2) 3 0 == p.val
  let s := killAcqs (endConvs s on) fun a => a.plaza == p
  pumpConv ((List.finRange 64).foldl (fun s n => if tmuPlaza n = p then tmuQuit s n eAborted else s) s)

/-- A FAULT ends a calibration procedure or a self-test on the engine (Table CAL-12). -/
def faultProcs (s : State) (e : Eng) : State :=
  let gone := s.cal.running.filter fun r => calOn r.key e
  let s := gone.foldl (fun s r => leaveMon (finishOp s r.op eAborted []) r.op) s
  match e with
  | .plaza p =>
    match (s.plz[p]).pin.selftest with
    | some id => finishOp (endSelftest s id) id eAborted []
    | none => s
  | _ => s

/-- The engine has entered FAULT: its work ends, its outputs park (R45 and the state tables). -/
def faultActs (s : State) (e : Eng) : State :=
  let s := faultProcs s e
  match e with
  | .plaza p => endMapped (quietOne (faultMeas (faultChans s p) p) p) p
  | .dps n => dpsFault s n
  | .awg a => parkAwg (awgAbort s a eAborted) a
  | .dg p => killAcqs (endConvs s (onDig p)) fun a => !a.madc && a.plaza == p
  | .tmu n => tmuQuit s n eAborted
  | .re k => endRe s k eAborted
  | .portM => pmFault s

/-- The engine has entered STOPPING; a Plaza's outputs park (Table SEQ-7, Table PIN-7). -/
def stopActs (s : State) (e : Eng) : State :=
  match e with
  | .plaza p => parkPlaza s p
  | .dps n => dpsStopping s n
  | .awg a => parkAwg (awgAbort s a eAborted) a
  | .dg p => killAcqs (endConvs s (onDig p)) fun a => !a.madc && a.plaza == p && a.trigAt.isNone
  | .tmu n => tmuQuit s n eAborted
  | .re k => endRe s k eAborted
  | .portM => pmStopping s

/-- The run that a Plaza leads, and the streams it plays, end because it leaves ON (R194, R305). -/
def leaveOn (s : State) (e : Eng) : State :=
  match e with
  | .plaza p => endStreams (endRun s p eAborted false) p eAborted
  | _ => s

/-- The engine has entered STARTING. -/
def startActs (s : State) (e : Eng) : State :=
  match e with
  | .plaza p => leaveIdle (commitCodes s p)
  | .dps n => dpsStarting s n
  | .awg a => awgStarting s a
  | .dg p => dgStarting s p
  | .portM => pmStarting s
  | _ => s

/-- The engine has reached ON. -/
def onActs (s : State) (e : Eng) : State :=
  match e with
  | .plaza p => onChans s p
  | .dps n => dpsOn s n
  | .awg a => onAwg s a
  | .portM => pmOn s
  | _ => s

/-- The engine has reached OFF; `stopped`: through STOPPING. -/
def offActs (s : State) (e : Eng) (stopped : Bool) : State :=
  match e with
  | .plaza p => quietOne (if stopped then parkPlaza s p else s) p
  | .dps n => dpsOff s n
  | .awg a => offAwg s a
  | .portM => pmOff s stopped
  | _ => s

/-! ### Entering FAULT (R27, R43, R45) -/

/-- The core of an engine takes FAULT with a code: descriptors of a start in force end with `st`, those of
a held enable with E_ABORTED. TIMED_OUT notes an expired timeout, not a TRAP that names its code (Table ARC-9). -/
def faultCore (s : State) (e : Eng) (code : BitVec 8) (st : BitVec 8) : State :=
  let c := getEng s e
  let s := modEng s e fun c =>
    { c with st := .fault, faultCode := code, timedOut := c.timedOut || st == eTimeout && code == fcTimeout,
             offCycle := false,
             startOps := [], heldOps := [] }
  finishAll (finishAll s c.startOps st) c.heldOps eAborted

/-- A list of engines enters FAULT, each with its code; those in FAULT already are left alone. The Plazas
of a running link set follow with LINK_SET (R27). `rep`: sources that report. DESIGN CHOICE (R46 gives no
status for it, notes/assumptions/210.md): the enabling descriptors of an engine that enters FAULT from
STARTING for a cause other than its timeout or a trip end with E_ABORTED. -/
def faultMany (s : State) (es : List (Eng × BitVec 8)) (st : BitVec 8)
    (rep : Eng → Bool) : State :=
  let now := es.filter fun x => (getEng s x.1).st != .fault
  let heads := (now.map fun x => headOf s x.1).eraseDups.filter fun h =>
    match h with
    | .plaza p => (getEng s (.plaza p)).st != .off || (getEng s (.plaza p)).offCycle
    | _ => false
  let follow := (heads.flatMap (together s)).eraseDups.filter fun x =>
    (getEng s x).st != .fault && !(now.any fun y => y.1 == x)
  let all := now ++ follow.map fun x => (x, fcLinkSet)
  let left := heads.filter (isOn s)
  let s := all.foldl (fun s x => faultCore s x.1 x.2 st) s
  let s := left.foldl leaveOn s
  let s := all.foldl (fun s x => faultActs s x.1) s
  all.foldl (fun s x => if rep x.1 then report s (srcIx x.1) x.2 else s) s

/-- One engine enters FAULT with a code. -/
def faultEng (s : State) (e : Eng) (code : BitVec 8) : State :=
  faultMany s [(e, code)] eAborted fun _ => true

/-- DPSn trips with a cause: latch, isolation, DPS_TRIP, FAULT; a second cause changes nothing
(R327, R328). -/
def tripDps (s : State) (n : Fin 32) (cause : BitVec 4) : State :=
  if (s.dps[n]).tripped then s
  else
    let was := (getEng s (.dps n)).st
    let s := modDps s n fun D =>
      { D with tripped := true, tripCause := cause, sDps := false, sink := true, parked := false,
               ramping := false, blankCount := D.blankCount || D.ramping }
    let s := fire s (0x41 + n.val) n.val
    if was = .fault then report s (16 + n.val) fcDpsTrip
    else faultMany s [(.dps n, fcDpsTrip)] eTrip fun _ => true

/-! ### Requests (R41 to R46) -/

/-- The engine, with those that act together, enters STARTING with the descriptors of its enable. -/
def startEng (s : State) (e : Eng) (ops : List OpId) : State :=
  let all := together s e
  let s := all.foldl (fun s x => modEng s x fun c => { c with st := .starting, offCycle := false }) s
  let s := modEng s e fun c => { c with startOps := ops, heldOps := [] }
  all.foldl startActs s

/-- The engine, with those that act together, enters STOPPING; a disable's descriptors wait. -/
def stopEng (s : State) (e : Eng) (ops : List OpId) : State :=
  let c := getEng s e
  let all := together s e
  let s := all.foldl (fun s x => setSt s x .stopping) s
  let s := modEng s e fun c => { c with startOps := [], stopOps := c.stopOps ++ ops }
  let s := finishAll s c.startOps eAborted
  let s := if c.st = .on then leaveOn s e else s
  all.foldl stopActs s

/-- The engine, with those that act together, reaches OFF. -/
def offEng (s : State) (e : Eng) (stopped : Bool) : State :=
  let c := getEng s e
  let all := together s e
  let s := all.foldl (fun s x => setSt s x .off) s
  let s := modEng s e fun c => { c with stopOps := [] }
  let s := all.foldl (fun s x => offActs s x stopped) s
  finishAll s c.stopOps stOk

/-- A Plaza that is a member of a link set: its own requests are rejected (R25). -/
def isMember (s : State) (e : Eng) : Bool :=
  match e with
  | .plaza p => (s.plz[p]).cfg.linked
  | _ => false

/-- An enable reaches an engine, with its descriptor if it has one (Table ARC-7, R44). -/
def enableEng (s : State) (e : Eng) (op : Option OpId) (m : Meet) : State :=
  let ops := op.toList
  let c := getEng s e
  if isMember s e then finishAll (rejectReq s e) ops eArg
  else if m = .withDisable then finishAll (absorbReq s e m) ops eAborted
  else if alwaysBlocked s e then finishAll (rejectReq s e) ops eArg
  else
    match c.st with
    | .off =>
      if c.offCycle then modEng (absorbReq s e m) e fun c => { c with heldOps := c.heldOps ++ ops }
      else if startBlocked s e then finishAll (noteSpans (rejectReq s e) e) ops eArg
      else startEng s e ops
    | .starting => modEng (absorbReq s e m) e fun c => { c with startOps := c.startOps ++ ops }
    | .on => finishAll (absorbReq s e m) ops stOk
    | .stopping => modEng ((together s e).foldl (fun s x => setSt s x .pendingOn) s) e fun c =>
        { c with heldOps := ops }
    | .pendingOn => modEng (absorbReq s e m) e fun c => { c with heldOps := c.heldOps ++ ops }
    | .fault => finishAll (rejectReq s e) ops eArg

/-- Members of a set that stand in FAULT while their leader does not go to OFF with its disable (R25). -/
def offFaulted (s : State) (e : Eng) : State :=
  (together s e).foldl (fun s x =>
    if x != e && (getEng s x).st == .fault then
      offActs (setSt s x .off) x false
    else s) s

/-- A disable reaches an engine, with its descriptor if it has one (Table ARC-7, R44). -/
def disableEng (s : State) (e : Eng) (op : Option OpId) (m : Meet) : State :=
  let ops := op.toList
  let c := getEng s e
  if isMember s e then finishAll (rejectReq s e) ops eArg
  else
    match c.st with
    | .off =>
      if c.offCycle then
        let s := (together s e).foldl (fun s x => modEng s x fun c => { c with offCycle := false }) s
        let s := modEng s e fun c => { c with heldOps := [] }
        idleCheck (finishAll (finishAll s c.heldOps eAborted) ops stOk)
      else idleCheck (finishAll (offFaulted (absorbReq s e m) e) ops stOk)
    | .starting => stopEng s e ops
    | .on => stopEng s e ops
    | .stopping => modEng (absorbReq s e m) e fun c => { c with stopOps := c.stopOps ++ ops }
    | .pendingOn =>
      let s := (together s e).foldl (fun s x => setSt s x .stopping) s
      let s := modEng s e fun c => { c with heldOps := [], stopOps := c.stopOps ++ ops }
      finishAll s c.heldOps eAborted
    | .fault =>
      if m = .withFault then finishAll (absorbReq s e m) ops eAborted
      else
        let s := modEng s e fun c => { c with stopOps := c.stopOps ++ ops }
        idleCheck (offEng s e false)

/-- ENABLE by a descriptor, at its dispatch: a throttled die refuses it (R383). -/
def enableOp (s : State) (e : Eng) (id : OpId) (m : Meet) : State :=
  if throttled s e then finishOp s id eThermal [] else enableEng s e (some id) m

/-- Everything that STARTING does has been done: a DPS's ramp has ended (R320). -/
def startReady (s : State) (e : Eng) : Bool :=
  match e with
  | .dps n => (s.dps[n]).stage == .settle
  | _ => true

/-- STARTING ends (R46): ON, and the enabling descriptors end with OK. -/
def startDone (s : State) (e : Eng) : State :=
  let c := getEng s e
  if c.st = .starting && !isMember s e && startReady s e then
    let all := together s e
    let s := all.foldl (fun s x => setSt s x .on) s
    let s := modEng s e fun c => { c with startOps := [] }
    let s := all.foldl onActs s
    finishAll s c.startOps stOk
  else s

/-- Everything that STOPPING does has been done: a digitizer's acquisition and port M's transaction have
ended, and a DPS is discharged (R321). -/
def stopReady (s : State) (e : Eng) : Bool :=
  match e with
  | .dg p => s.dram.acqs.all fun a => a.madc || a.plaza != p
  | .portM => s.pm.xfer.isNone
  | .dps n => (s.dps[n]).stage == .none
  | _ => true

/-- STOPPING ends (R42): OFF, or OFF for one cycle while an enable is held. -/
def stopDone (s : State) (e : Eng) : State :=
  let c := getEng s e
  if isMember s e || !stopReady s e then s
  else
    match c.st with
    | .stopping => idleCheck (offEng s e true)
    | .pendingOn =>
      let s := (together s e).foldl (fun s x => modEng s x fun c => { c with offCycle := true }) s
      offEng s e true
    | _ => s

/-- The held enable takes effect, checked as a fresh one (R42). -/
def heldEnable (s : State) (e : Eng) : State :=
  let c := getEng s e
  if c.offCycle && !isMember s e then
    let s := (together s e).foldl (fun s x => modEng s x fun c => { c with offCycle := false }) s
    if startBlocked s e then
      let s := modEng (noteSpans (rejectReq s e) e) e fun c => { c with heldOps := [] }
      idleCheck (finishAll s c.heldOps eArg)
    else startEng s e c.heldOps
  else s

/-- A STARTING or STOPPING timeout expires (R43). -/
def engTimeout (s : State) (e : Eng) (starting : Bool) : State :=
  let st := (getEng s e).st
  let due : Bool := if starting then st == .starting else st == .stopping || st == .pendingOn
  if due && !isMember s e then
    let all := (together s e).map fun x => (x, if x = e then fcTimeout else fcLinkSet)
    faultMany s all eTimeout fun _ => true
  else s

end Sys2Proof.Machine
end

