-- ==== Sys2Proof/Machine/Abort.lean ====
section
/-! DEFINITION. How an operation is abandoned: by its execution timeout, by a failed read of host memory,
by CTX_ABORT or CTX_CLOSE (02_host_rings, R72, R75, R83, and what each opcode's chapter says). -/

namespace Sys2Proof.Machine

/-- A range of DRAM that an abandoned transfer may or may not have written holds free values. -/
def freeRange (s : State) (a n : Nat) : State :=
  let f := takeFree s (8 * n)
  dramWrite f.2 a (bvBytes n f.1)

/-- An ACQ is abandoned: running, waiting or neither (R258). -/
def dropAcqOp (s : State) (o : Op) (st : BitVec 8) : State :=
  match s.dram.acqs.find? fun a => a.op == o.id with
  | some a => killAcq s a st
  | none =>
    if s.dram.convWait.contains o.id then
      let s := { s with dram := { s.dram with convWait := s.dram.convWait.filter (· != o.id) } }
      pumpConv (finishOp (freeRec s o.aux) o.id st [])
    else finishOp s o.id st []

/-- A TMU_MEAS is abandoned; a timeout keeps the stamps where there are enough (R263, R264). -/
def dropTmuOp (s : State) (o : Op) (d : List Word) (st : BitVec 8) : State :=
  let n : Fin 64 := Fin.ofNat 64 (bits (wd d 2) 5 0)
  let T := s.tmu[n]
  match T.meas with
  | some m =>
    if m.op = o.id then
      let least := if bits (wd d 3) 31 30 = 1 then 3 else 1
      if st = eTimeout && m.arm = .done then tmuEnd s n false
      else if st = eTimeout && least ≤ m.stamps.length then tmuEnd s n true else tmuKill s n st
    else if T.queue.contains o.id then
      finishOp (freeRec (modTmu s n fun T => { T with queue := T.queue.filter (· != o.id) }) o.aux)
        o.id st []
    else finishOp s o.id st []
  | none => finishOp s o.id st []

/-- The pending jump request of a SEQ_JUMP is discarded (R189). -/
def dropSeqJump (s : State) (o : Op) (st : BitVec 8) : State :=
  let s := (List.finRange 16).foldl (fun s p =>
    modRun s p fun r =>
      { r with jump := r.jump.filter fun j => j.op != some o.id,
               jumped := r.jumped.filter (· != o.id) }) s
  finishOp s o.id st []

/-- What abandoning a running operation does, by opcode. DESIGN CHOICE (R72 leaves it to the owning chapter,
which says nothing of them, notes/assumptions/202.md): a RING_DETACH that times out leaves its SQ attached
and fetched again, and the abort or close of a CTX_ABORT or CTX_CLOSE that times out goes on. DESIGN CHOICE (R238 and
R240 close only a step whose records wait, notes/assumptions/256.md): a STEP_CLOSE that times out before it has evaluated
discards its step without verdicts, and one that times out before its row runs leaves the step open. -/
def abandon (s : State) (o : Op) (st : BitVec 8) : State :=
  let d := o.cur
  let id := o.id
  let p : Fin 16 := Fin.ofNat 16 (bits (wd d 2) 3 0)
  let done (s : State) : State := finishOp s id st []
  match opcodeOf d with
  | 0x07 =>
    let f (r : Ring) : Ring := if r.detach = some id then { r with detach := none } else r
    done { s with rings := s.rings.map f }
  | 0x14 => finishOp (dropFill s id) id st [BitVec.ofNat 32 o.aux]
  | 0x15 =>
    if (s.plz[p]).run.op = some id ∧ (s.plz[p]).run.phase ≠ .none then endRun s p st false
    else done (modPlz s p fun P => { P with runQ := P.runQ.filter (· != id) })
  | 0x16 => dropSeqJump s o st
  | 0x30 =>
    let m := o.mask
    finishOp (dropStaged s id) id st [BitVec.ofNat 32 m.toNat]
  | 0x31 => done (dropStaged s id)
  | 0x3B => done (endSelftest s id)
  | 0x43 =>
    let s := { s with steps := s.steps.filter fun t => t.closing != some id }
    finishOp s id st (closeResults o)
  | 0x45 => done ((List.finRange 16).foldl (fun s q =>
      modDg s q fun D => { D with mask := D.mask.filter fun m => m.op != id }) s)
  | 0x50 =>
    pumpConv (done { s with dram := { s.dram with
      pmu := s.dram.pmu.filter (· != id), convWait := s.dram.convWait.filter (· != id) } })
  | 0x51 => dropAcqOp s o st
  | 0x52 =>
    let gone := s.dram.recs.filter fun r =>
      r.readers == [id] && r.freeing.isSome
    let f (r : Rec) : Rec := { r with readers := r.readers.filter (· != id) }
    let s := { s with dram := { s.dram with recs := s.dram.recs.map f } }
    done (gone.foldl (fun s r => freeRec s r.slot) s)
  | 0x53 =>
    let f (r : Rec) : Rec := if r.freeing = some id then { r with freeing := none } else r
    done { s with dram := { s.dram with recs := s.dram.recs.map f } }
  | 0x54 => if o.after.isSome then done (dropTmuRec s o) else dropTmuOp s o d st
  | 0x62 =>
    let w : Fin 256 := Fin.ofNat 256 (bits (wd d 2) 15 8)
    if ((s.awg[p]).wsegs[w]).writing.contains id then
      let s := freeRange s (awgBase p + 2 * bits (wd d 3) 26 0) (2 * bits (wd d 4) 26 0)
      done (modAwg s p fun A => endWrite A w id)
    else done s
  | 0x64 =>
    if (s.awg[p]).run.op = some id then awgAbort s p st
    else done (modAwg s p fun A => { A with queue := A.queue.filter (· != id) })
  | 0x65 => done (modAwg s p fun A =>
      { A with run := { A.run with pend := A.run.pend.filter fun j => j.op != some id,
                                   commit := A.run.commit.map fun j =>
                                     if j.op = some id then { j with op := none } else j } })
  | 0x71 =>
    let k : Fin 4 := Fin.ofNat 4 (bits (wd d 2) 1 0)
    match (s.re[k]).writes.find? fun w => w.1 == id with
    | some w =>
      done (freeRange (modRe s k fun R => { R with writes := R.writes.filter fun x => x.1 != id })
        (partBase s k + w.2.1) w.2.2)
    | none => done s
  | 0x74 =>
    let k : Fin 4 := Fin.ofNat 4 (bits (wd d 2) 1 0)
    if (s.re[k]).run.op = some id then endRe s k st else done s
  | 0x75 =>
    let k : Fin 4 := Fin.ofNat 4 (bits (wd d 2) 1 0)
    done (modRe s k fun R =>
      { R with run := { R.run with halts := R.run.halts.filter (· != id) } })
  | 0x7A => leaveMon (done s) id
  | 0x7B => leaveMon (done s) id
  | 0x7C => leaveMon (done s) id
  | 0x80 => leaveMon (done s) id
  | 0x81 => done (dropStaged s id)
  | 0x91 =>
    if s.pm.xfer = some id then doomXfer s st
    else done { s with pm := { s.pm with queue := s.pm.queue.filter (· != id) } }
  | 0xA4 => done { s with av := { s.av with trainOp := s.av.trainOp.filter (· != id) } }
  | 0xA5 => done { s with av := { s.av with waiting := s.av.waiting.filter fun w => w.2 != id } }
  | _ => done s

/-- An operation ends with a status whatever it is doing; the records it still has to write are
discarded (R72, R83, R240). -/
def abortOp (s : State) (id : OpId) (st : BitVec 8) : State :=
  match op? s id with
  | none => s
  | some o =>
    if !o.live then s
    else
      let s := { s with mqPend := s.mqPend.filter fun m => m.op != id }
      if o.phase = .running then abandon s o st else completeOp s id st []

end Sys2Proof.Machine
end

