-- ==== Sys2Proof/Machine/CtxOps.lean ====
section
/-! DEFINITION. How a context ends: its rings, its operations, its engines and its resources
(02_host_rings, R59, R82, R83; 12_lanes, R347). -/

namespace Sys2Proof.Machine

/-! ### Lanes that lose their holder -/

/-- Both latches of the pair of Lane n clear (R343). -/
def clearLatches (s : State) (n : Fin 64) : State :=
  modLane s (evenOf n) fun l => { l with latchG := false, latchS := false }

/-- A trigger on its way to the gate latch of the pair of Lane n. -/
def gateOf (n : Fin 64) (t : Trigger) : Bool := t.task == 0xFE && evenOf t.lane == evenOf n

/-- Lane n takes EN = 0 and keeps its count (R347); its pair's latches clear, and so does what has not reached the
gate latch yet (R343). -/
def disableLane (s : State) (n : Fin 64) : State :=
  clearLatches (modLane { s with triggers := s.triggers.filter fun t => !gateOf n t } n
    fun l => { l with en := false }) n

/-! ### Releasing -/

/-- The engines that go with a resource: DGp and AWGp go with Plaza p (R81). -/
def engsOf : Res → List Eng
  | .plaza p => [.plaza p, .awg p, .dg p]
  | .dps n => [.dps n]
  | .tmu n => [.tmu n]
  | .re k => [.re k]
  | .lane _ => []
  | .portM => [.portM]

/-- Everything that can be claimed. -/
def allRes : List Res :=
  (List.finRange 16).map .plaza ++ (List.finRange 32).map .dps ++ (List.finRange 64).map .tmu ++
  (List.finRange 4).map .re ++ (List.finRange 64).map .lane ++ [.portM]

/-- What context c holds. -/
def heldBy (s : State) (c : CtxId) : List Res := allRes.filter fun r => holder s r == some c

/-- A resource goes back: a Plaza loses its bindings and an open step, a Lane is disabled (R82, R347). -/
def releaseRes (s : State) (r : Res) : State :=
  let s := setHolder s r none
  match r with
  | .plaza p => dropSteps (clearBindings s p) fun t => t.plazas.getLsbD p.val
  | .lane n => disableLane s n
  | _ => s

/-- A link-set member that stops only with a leader the context does not hold (R83 step 5). -/
def outsideSet (s : State) (held : List Res) (e : Eng) : Bool :=
  match e with
  | .plaza p => (s.plz[p]).cfg.linked && !held.contains (.plaza (leaderOf s p))
  | _ => false

/-- The engines that a context's end stops and waits for. -/
def endEngs (s : State) (held : List Res) : List Eng :=
  (held.flatMap engsOf).filter fun e => !outsideSet s held e

/-- A disable for an engine that is not OFF; a member's goes through its leader. -/
def endDisable (s : State) (e : Eng) : State :=
  if isMember s e || isOff s e then s else disableEng s e none .alone

/-! ### The steps of R83 -/

/-- Context c is open. -/
def isOpen (s : State) (c : CtxId) : Bool := (ctx? s c).isSome

/-- The engine that a running operation holds busy: it stops the operation when disabled. -/
def opEngs (o : Op) : List Eng :=
  let d := o.cur
  let p : Fin 16 := Fin.ofNat 16 (bits (wd d 2) 3 0)
  match opcodeOf d with
  | 0x10 => [.plaza p]
  | 0x11 => [.plaza p]
  | 0x15 => [.plaza p]
  | 0x51 => if (wd d 2).getLsbD 31 then [] else [.dg p]
  | 0x54 => [.tmu (Fin.ofNat 64 (bits (wd d 2) 5 0))]
  | 0x55 =>
    if (wd d 2).getLsbD 24 then [.tmu (Fin.ofNat 64 (bits (wd d 2) 5 0))] else [.dg p]
  | 0x60 => [.awg p]
  | 0x64 => [.awg p]
  | 0x70 => [.re (Fin.ofNat 4 (bits (wd d 2) 1 0))]
  | 0x74 => [.re (Fin.ofNat 4 (bits (wd d 2) 1 0))]
  | 0x78 => [.dps (Fin.ofNat 32 (bits (wd d 2) 4 0))]
  | 0x90 => [.portM]
  | 0x91 => [.portM]
  | _ => []

/-- The operation is in force on that engine: a run, an acquisition, a measurement or a start in progress,
not one that waits its turn. -/
def inForce (s : State) (o : Op) (e : Eng) : Bool :=
  (getEng s e).startOps.contains o.id || (getEng s e).heldOps.contains o.id ||
    match e with
    | .plaza p => (s.plz[p]).run.op == some o.id && (s.plz[p]).run.phase != .none
    | .dg p => s.dram.acqs.any fun a => a.op == o.id && a.plaza == p
    | .tmu n => ((s.tmu[n]).meas.map (·.op)) == some o.id
    | .awg a => (s.awg[a]).run.op == some o.id
    | .re k => (s.re[k]).run.op == some o.id
    | .portM => s.pm.xfer == some o.id
    | .dps _ => false

/-- Operations of context c that have not ended. -/
def liveOps (s : State) (c : CtxId) : List Op := s.ops.filter fun o => o.ctx == c && o.live

/-- Those of some operations that no engine has to end for them are abandoned. -/
def abortLoose (s : State) (ops : List Op) : State :=
  ops.foldl (fun s o =>
    match op? s o.id with
    | some o' =>
      if o'.live && !((opEngs o').any fun e =>
          inForce s o' e || (getEng s e).stopOps.contains o'.id) then abortOp s o'.id eAborted
      else s
    | none => s) s

/-- Digitizer acquisitions that a context's CTX_CLOSE ends with E_ABORTED, those triggered too (Table MEA-12). -/
def closeAcqs (s : State) (c : CtxId) (ops : List Op) : State :=
  match ctx? s c with
  | some x =>
    (match x.phase with
     | .closing _ => killAcqs s fun a => ops.any fun o => o.id == a.op
     | _ => s)
  | none => s

/-- Steps 1 to 3 of R83: undispatched operations end with E_ABORTED, its open steps are discarded (R235), an
engine running one of its operations is disabled, what has no engine to disable is abandoned; one that
waits for its engine's OFF ends with that (R46). -/
def abortCtx (s : State) (c : CtxId) : State :=
  let ops := liveOps s c
  let s := dropSteps s fun t => t.ctx == c
  let s := ops.foldl (fun s o =>
    if o.phase = .waiting then completeOp s o.id eAborted [] else s) s
  let engs := ops.flatMap fun o =>
    if o.phase = .running then (opEngs o).filter (inForce s o) else []
  let s := abortLoose (closeAcqs s c ops) ops
  let s := engs.eraseDups.foldl endDisable s
  abortLoose s ops

/-- No operation of context c is in the operation table. -/
def drained (s : State) (c : CtxId) : Bool := s.ops.all fun o => o.ctx != c

/-- A ring is detached: bindings to it clear, and what waits for it goes (R59, R89, R228, R241). Entries counted
towards a vector that has not been raised are gone with the ring, and raise none (R98;
notes/assumptions/245.md). -/
def detachRing (s : State) (n : RingId) : State :=
  match ring? s n with
  | none => s
  | some r =>
    let s := match r.ty with
      | .fq => dropFq s n
      | .mq => dropMq s n
      | _ => s
    { s with rings := s.rings.filter fun x => x.num != n }

/-- A LANE_EVENT has been written or lost: its Lane may raise another (Table LAN-2, HOST). -/
def eventGone (s : State) (r : EqRec) : State :=
  if r.code = 6 then modLane s (Fin.ofNat 64 r.index.toNat) fun l => { l with hostPend := false } else s

/-- The pending records of a context are discarded (R59). -/
def dropEq (s : State) (c : CtxId) : State :=
  (eqPendOf s c).recs.foldl eventGone { s with eqPend := s.eqPend.filter fun e => e.ctx != c }

/-- A record goes to context 0's EQ; a FAULT record is never lost (R90, R430). -/
def postMoved (s : State) (r : EqRec) : State :=
  let e := eqPendOf s 0
  if r.code = 1 then setEqPend s { e with recs := e.recs ++ [r] }
  else if eqRoom e false then postEq s none r
  else eventGone (postEq s none r) r

/-- The pending records of a context that has lost its EQ go to context 0's EQ (R90, Table BOOT-11). -/
def moveEq (s : State) (c : CtxId) : State :=
  let e := eqPendOf s c
  let s := { s with eqPend := s.eqPend.filter fun e => e.ctx != c }
  let s := e.recs.foldl postMoved s
  if e.lost = 0 then s
  else
    let z := eqPendOf s 0
    setEqPend s { z with lost := z.lost + e.lost }

/-- Step 5 of R83 begins: every engine the context holds is disabled, but for those that a disable reached at
this same instant (R44). -/
def closeEngines (s : State) (c : CtxId) (op : Option OpId) (hit : List Eng) : State :=
  let held := heldBy s c
  let s := modCtx s c fun x => { x with phase := .closingEngines op, held := held }
  ((endEngs s held).filter fun e => !hit.contains e).foldl endDisable s

/-- A context whose engines have all reached OFF: its rings are detached, its records freed, its resources
released; it is free (R83 steps 6 and 7, R235, R255). -/
def finishClose (s : State) (x : Ctx) (op : Option OpId) : State :=
  let s := if x.num = 0 then s
    else ((s.rings.filter fun r => r.ctx == x.num).map (·.num)).foldl detachRing s
  let s := if x.num = 0 then s
    else moveEq { s with dram := { s.dram with recs := s.dram.recs.filter fun r => r.ctx != x.num } } x.num
  let s := x.held.foldl releaseRes s
  let s := { s with ctxs := s.ctxs.filter (· != x) }
  match op with
  | some id => completeOp s id stOk [BitVec.ofNat 32 x.aborted]
  | none => s

/-- Every closing context whose engines are OFF closes. -/
def closeCheck (s : State) : State :=
  s.ctxs.foldl (fun s x =>
    match x.phase with
    | .closingEngines op =>
      if (endEngs s x.held).all (isOff s) then finishClose s x op else s
    | _ => s) s

/-- The last operation of an aborting or closing context has gone (R83 step 4). -/
def ctxDrained (s : State) (c : CtxId) : State :=
  match ctx? s c with
  | none => s
  | some x =>
    if !drained s c then s
    else
      match x.phase with
      | .aborting op =>
        let s := modCtx s c fun x => { x with phase := .normal, aborted := 0 }
        (match op with
         | some id => completeOp s id stOk [BitVec.ofNat 32 x.aborted]
         | none => s)
      | .closing op => closeCheck (closeEngines s c op [])
      | _ => s

end Sys2Proof.Machine
end

