-- ==== Sys2Proof/Machine/Lanes.lean ====
section
/-! DEFINITION. Lanes: sources, events, tasks; the Commons (12_lanes, R338 to R353). -/

namespace Sys2Proof.Machine

/-! ### Lane set-up (R341, R343, R347, R348) -/

/-- A source ID of Table LAN-1. -/
def srcIdOk (i : Nat) : Bool :=
  i ≤ 0x86 || (0x88 ≤ i && i ≤ 0x92) || (0x94 ≤ i && i ≤ 0x97)

/-- A source marked A. -/
def srcAsync (i : Nat) : Bool :=
  (0x41 ≤ i && i ≤ 0x60) || i = 0x85 || (0x90 ≤ i && i ≤ 0x92) || (0x94 ≤ i && i ≤ 0x97)

/-- A task ID of Table LAN-2. -/
def taskIdOk (i : Nat) : Bool := i ≤ 0xF1 || i = 0xFE

/-- A task marked A. -/
def taskAsync (i : Nat) : Bool :=
  (0xA1 ≤ i && i ≤ 0xC0) || i = 0xE6 || i = 0xE7 || i = 0xF0 || i = 0xF1

/-- Tasks that belong to context 0 (R347). -/
def taskOfZero (i : Nat) : Bool := 0xE5 ≤ i && i ≤ 0xF0

/-- What R341, R343 and R348 ask of a set-up word for Lane n by itself. -/
def laneWordOk (n : Fin 64) (w : Word) : Bool :=
  let task := bits w 15 8
  let src := bits w 7 0
  bits w 27 16 == 0 && srcIdOk src && taskIdOk task &&
    (!w.getLsbD 30 || (srcAsync src && taskAsync task)) &&
    (!w.getLsbD 29 || n.val % 2 == 0) && (task != 0xFE || n.val % 2 == 1)

/-- The pair that Lane n would leave is valid (R343): AND_GATE stands only beside an even Lane with AND
(notes/assumptions/174.md). -/
def lanePairOk (s : State) (n : Fin 64) (w : Word) : Bool :=
  let other := s.lanes[partner n]
  (bits w 15 8 != 0xFE || other.andG) &&
    (n.val % 2 == 1 || w.getLsbD 29 || other.task != 0xFE)

/-- A set-up word for Lane n passes R348. -/
def laneCfgOk (s : State) (n : Fin 64) (w : Word) : Bool :=
  laneWordOk n w && lanePairOk s n w && (bits w 15 8 != 0xE5 || s.cm.master)

/-- The resources that a Lane set-up names besides the Lane (R347). -/
def laneRes (w : Word) : List Res :=
  let task := bits w 15 8
  let src := bits w 7 0
  (if 1 ≤ src ∧ src ≤ 0x40 ∨ 0x61 ≤ src ∧ src ≤ 0x80 then [.plaza (Fin.ofNat 16 (src - 1))] else []) ++
  (if 0x41 ≤ src ∧ src ≤ 0x60 then [.dps (Fin.ofNat 32 (src - 0x41))] else []) ++
  (if 1 ≤ task ∧ task ≤ 0x80 then [.plaza (Fin.ofNat 16 (task - 1))] else []) ++
  (if 0x81 ≤ task ∧ task ≤ 0xE0 then [.dps (Fin.ofNat 32 (task - 0x81))] else []) ++
  (if 0xE1 ≤ task ∧ task ≤ 0xE4 then [.re (Fin.ofNat 4 (task - 0xE1))] else [])

/-! ### Events (R338, R342 to R346) -/

/-- The Lane carries events now: EN, outside a reset (R449), and in DEEP SLEEP only asynchronously (R346). -/
def carries (s : State) (n : Fin 64) : Bool :=
  (s.lanes[n]).en && !inReset s && (s.glb.pwr != .deepSleep || (s.lanes[n]).async)

/-- One Lane carries one event; the trigger it delivers, if any, is answered. -/
def carry (s : State) (n : Fin 64) (payload : BitVec 8) : State × Option Trigger :=
  let l := s.lanes[n]
  let s := modLane s n fun l => { l with count := min (l.count + 1) 65535, payload := payload }
  if l.andG then
    let s := modLane s n fun l =>
      { l with latchS := true, latched := if l.latchS then l.latched else payload }
    if l.latchG then (clearLatches s n, some ⟨l.task, n, (s.lanes[n]).latched⟩) else (s, none)
  else (s, some ⟨l.task, n, payload⟩)

/-- Triggers that reach one task input together; each pair of Lanes has a gate input of its own (R342,
notes/assumptions/92.md). -/
def sameInput (a b : Trigger) : Bool := a.task == b.task && (a.lane == b.lane || a.task != 0xFE)

/-- A trigger goes to its task input. One that is still there it meets: the lower Lane's payload stands and
the other Lane notes it (R342; notes/assumptions/92.md). -/
def addTrigger (s : State) (t : Trigger) : State :=
  if t.task = 0 then s
  else
    match s.triggers.find? (sameInput t) with
    | none => { s with triggers := s.triggers ++ [t] }
    | some u =>
      if t.lane < u.lane then
        modLane { s with triggers := s.triggers.map fun x => if sameInput t x then t else x } u.lane
          fun l => { l with coalesced := true }
      else modLane s t.lane fun l => { l with coalesced := true }

/-- The gate latch of the pair is set; with the source latch it delivers one trigger (R343). -/
def setGate (s : State) (n : Fin 64) : State :=
  let e := evenOf n
  let l := s.lanes[e]
  if l.latchS then
    addTrigger (clearLatches s e) ⟨l.task, e, l.latched⟩
  else modLane s e fun l => { l with latchG := true }

/-- An event of the pair of Lane n that is on its way to the gate latch sets it now: before the pair's latches are
cleared (R343, R344, R363). -/
def gateFirst (s : State) (n : Fin 64) : State :=
  match s.triggers.find? (gateOf n) with
  | none => s
  | some t => setGate { s with triggers := s.triggers.filter fun u => !gateOf n u } t.lane

/-- The next event brings the count of Lane n to the runaway limit (R344). -/
def atLimit (s : State) (n : Fin 64) : Bool :=
  (s.lanes[n]).limitEn && (s.lanes[n]).count + 1 == max s.lanLimit.toNat 1

/-- The runaway limit disables a Lane whose count an event has brought to it, once that event is delivered
(R344). -/
def runaway (s : State) (n : Fin 64) : State :=
  postEq (disableLane (modLane (gateFirst s n) n fun l => { l with runaway := true }) n) (holder s (.lane n))
    (mkEq s 0x0005 n.val 0 0)

/-- One Lane carries one event and gives its trigger to its task input. -/
def carryOne (payload : BitVec 8) (s : State) (n : Fin 64) : State :=
  let r := carry s n payload
  match r.2 with
  | some t => addTrigger r.1 t
  | none => r.1

/-- Some Lanes carry one event each in one cycle (R342); all of them deliver it, and both latches of an AND gate may
so be set at once, before a limit disables any (R344, R363). -/
def carryAll (s : State) (ns : List (Fin 64)) (payload : BitVec 8) : State :=
  (ns.filter (atLimit s)).foldl runaway (ns.foldl (carryOne payload) s)

/-- Software fires some Lanes. A Lane whose source has fired and not reached it yet meets that event: the two
are one, with the source's payload (R345; notes/assumptions/92.md). -/
def softFire (s : State) (ns : List (Fin 64)) (payload : BitVec 8) : State :=
  let meets (n : Fin 64) : Bool := s.fired.any fun f => f.1 == (s.lanes[n]).src
  let met := ns.filter fun n => carries s n && meets n
  let s' := carryAll s (ns.filter fun n => carries s n && !meets n) payload
  met.foldl (fun s n => modLane s n fun l => { l with coalesced := true }) s'

/-- The oldest event of a source that has fired reaches its Lanes (R338). -/
def sourceEvent (s : State) (src : BitVec 8) : State :=
  match s.fired.find? fun f => f.1 == src with
  | none => s
  | some f =>
    let s := { s with fired := s.fired.eraseP fun f => f.1 == src }
    carryAll s (ixs 64 fun n => carries s n && (s.lanes[n]).src == src) f.2

def execLaneSourceEvent (src : BitVec 8) (s : State) : Out := .next (sourceEvent s src)

/-- What has fired and not reached Lane n yet reaches it before a new set-up or an acknowledgement does
(R363; notes/assumptions/226.md). -/
def eventsFirst (s : State) (n : Fin 64) : State :=
  (s.fired.filter fun f => f.1 == (s.lanes[n]).src).foldl (fun s f => sourceEvent s f.1) s

/-- A set-up word applies to Lane n (R344, R348, R363). -/
def applyLane (s : State) (n : Fin 64) (w : Word) : State :=
  clearLatches (modLane (gateFirst (eventsFirst s n) n) n fun l =>
    { l with en := w.getLsbD 31, async := w.getLsbD 30, andG := w.getLsbD 29, limitEn := w.getLsbD 28,
             task := BitVec.ofNat 8 (bits w 15 8), src := BitVec.ofNat 8 (bits w 7 0), count := 0 }) n

def execLaneCfg (op : OpId) (s : State) : Out :=
  .next (runDesc s op 0xA0 fun s o d =>
    let n : Fin 64 := Fin.ofNat 64 (bits (wd d 2) 5 0)
    let w := wd d 3
    if laneCfgOk s n w && (o.ctx == 0 || !taskOfZero (bits w 15 8)) then finishOp (applyLane s n w) op stOk []
    else finishOp s op eArg [])

/-- A set-up word is written to LAN_CFG of Lane n (R348). -/
def writeLanCfg (s : State) (n : Fin 64) (w : Word) : State :=
  if laneCfgOk s n w then applyLane s n w else modLane s n fun l => { l with cfgBad := true }

def execLanCfgWrite (n : Fin 64) (w : Word) (s : State) : Out :=
  .next (if barsOn s then writeLanCfg s n w else s)

def execLaneFire (op : OpId) (s : State) : Out :=
  .next (runDesc s op 0xA1 fun s _ d =>
    let m := BitVec.ofNat 64 (wd64 d 2)
    let on := ixs 64 fun n => m.getLsbD n.val && (s.lanes[n]).en
    let off := ixs 64 fun n => m.getLsbD n.val && !(s.lanes[n]).en
    let s := softFire s on (BitVec.ofNat 8 (bits (wd d 4) 7 0))
    finishOp s op stOk [BitVec.ofNat 32 on.length, BitVec.ofNat 32 off.length])

/-- Some Lanes are acknowledged (R344, R363). -/
def ackLanes (s : State) (m : BitVec 64) : State :=
  let s := (ixs 64 fun n => m.getLsbD n.val).foldl eventsFirst s
  { s with lanes := updAll s.lanes fun n l => if m.getLsbD n.val then { l with count := 0 } else l }

def execLaneAck (op : OpId) (s : State) : Out :=
  .next (runDesc s op 0xA2 fun s _ d =>
    finishOp (ackLanes s (BitVec.ofNat 64 (wd64 d 2))) op stOk [])

/-- Some Lanes are fired from the registers (R345). -/
def fireLanes (s : State) (m : BitVec 64) : State :=
  softFire s (ixs 64 fun n => m.getLsbD n.val && (s.lanes[n]).en) 0

def execLanFireWrite (lanes : BitVec 64) (s : State) : Out :=
  .next (if barsOn s then fireLanes s lanes else s)

def execLanAckWrite (lanes : BitVec 64) (s : State) : Out :=
  .next (if barsOn s then ackLanes s lanes else s)

/-! ### Tasks (R340) -/

/-- The oldest trigger for a task (and Lane, where the task is a Lane's own) is taken to its consumer; a busy
consumer ignores it, and the Lane notes it. -/
def onTrig (s : State) (task : Nat) (lane : Option (Fin 64)) (busy : State → Trigger → Bool)
    (f : State → Trigger → State) : State :=
  let sel (t : Trigger) : Bool :=
    t.task == BitVec.ofNat 8 task && (match lane with | some n => t.lane == n | none => true)
  match s.triggers.find? sel with
  | none => s
  | some t =>
    let s := { s with triggers := s.triggers.eraseP sel }
    if busy s t then modLane s t.lane fun l => { l with ignored := true } else f s t

/-- A consumer that is never busy. -/
def never (_ : State) (_ : Trigger) : Bool := false

def execPlzEn (p : PlazaIx) (m : Meet) (s : State) : Out :=
  .next (onTrig s (0x01 + p.val) none never fun s _ => enableEng s (.plaza p) none m)

def execPlzDis (p : PlazaIx) (m : Meet) (s : State) : Out :=
  .next (closeCheck (onTrig s (0x11 + p.val) none never fun s _ => disableEng s (.plaza p) none m))

/-- A SYNC of Plaza p that waits for a source (and line) is released (R177). DESIGN CHOICE (R177 does not say from
when a SYNC waits, notes/assumptions/249.md): it waits from the moment the control store reaches it, even while
entries issued before it still lie in the FIFO or the run is still armed. -/
def releaseSync (s : State) (p : Fin 16) (src line : Nat) : State :=
  modRun s p fun r =>
    { r with sync := r.sync.map fun y =>
        if y.src = src ∧ (src ≠ 1 ∨ y.line = line) then { y with ready := true } else y }

/-- Such a SYNC waits on Plaza p. -/
def syncWaits (s : State) (p : Fin 16) (src : Nat) : Bool :=
  match (s.plz[p]).run.sync with
  | some y => y.src == src && !y.ready
  | none => false

def execSeqSync (p : PlazaIx) (s : State) : Out :=
  .next (onTrig s (0x21 + p.val) none (fun s _ => !syncWaits s p 2) fun s _ => releaseSync s p 2 0)

def execTaskSeqJump (p : PlazaIx) (s : State) : Out :=
  .next (onTrig s (0x31 + p.val) none (fun s _ => !(s.plz[p]).run.on) fun s _ =>
    requestJump s p (s.plz[p]).seq.sjtgt none)

/-- ACQs of Plaza p's converters that await a Lane trigger (R258). -/
def acqWaits (s : State) (p : Fin 16) : Bool :=
  s.dram.acqs.any fun a => a.plaza == p && a.trig == 1 && a.trigAt.isNone && !a.trigged

def execMeasTrig (p : PlazaIx) (s : State) : Out :=
  .next (onTrig s (0x41 + p.val) none (fun s _ => !acqWaits s p) fun s _ =>
    trigAcqs s p fun a => a.trig == 1)

/-- TMUs of Plaza p that wait with ARM 2 (R260). -/
def tmuWaits (s : State) (p : Fin 16) (n : Fin 64) : Bool :=
  tmuPlaza n == p &&
    (match (s.tmu[n]).meas with
     | some m => m.arm == .waitArm && bits (wd (tmuDesc s n) 3) 29 28 == 2
     | none => false)

def execTmuArm (p : PlazaIx) (s : State) : Out :=
  .next (onTrig s (0x51 + p.val) none (fun s _ => !(List.finRange 64).any (tmuWaits s p)) fun s _ =>
    (ixs 64 (tmuWaits s p)).foldl tmuArmNow s)

def execAwgStart (a : PlazaIx) (s : State) : Out :=
  .next (onTrig s (0x61 + a.val) none
    (fun s _ => !((s.awg[a]).run.phase == .armed && (s.awg[a]).run.trig == 1)) fun s _ =>
    awgLaneStart s a)

def execTaskAwgJump (a : PlazaIx) (s : State) : Out :=
  .next (onTrig s (0x71 + a.val) none (fun s _ => (s.awg[a]).run.phase != .playing) fun s _ =>
    awgLaneJump s a)

def execDpsEn (n : Fin 32) (m : Meet) (s : State) : Out :=
  .next (onTrig s (0x81 + n.val) none never fun s _ => enableEng s (.dps n) none m)

def execDpsDis (n : Fin 32) (m : Meet) (s : State) : Out :=
  .next (closeCheck (onTrig s (0xA1 + n.val) none never fun s _ => disableEng s (.dps n) none m))

def execDpsBlank (n : Fin 32) (s : State) : Out :=
  .next (onTrig s (0xC1 + n.val) none never fun s _ => blankDps s n)

def execReStart (k : Fin 4) (s : State) : Out :=
  .next (onTrig s (0xE1 + k.val) none
    (fun s _ => !((s.re[k]).run.phase == .armed && (s.re[k]).run.trig == 2)) fun s _ =>
    modRe s k fun R => { R with run := { R.run with fired := true } })

/-- WAKE_N is driven low, but in a reset it is released (R38, R449). -/
def execWake (s : State) : Out :=
  .next (onTrig s 0xF0 none never fun s _ =>
    if inReset s then s else { s with glb := { s.glb with wakeNLow := true } })

/-- A LANE_EVENT record of Lane n (Table LAN-2, HOST); one that finds no pending entry is lost (R430). -/
def laneEvent (s : State) (n : Fin 64) (payload : BitVec 8) : State :=
  let c := holder s (.lane n)
  let room := eqRoom (eqPendOf s (eqTarget s c)) false
  let r := mkEq s 0x0006 n.val (payload.setWidth 32) (BitVec.ofNat 32 (s.lanes[n]).count)
  modLane (postEq s c r) n fun l => { l with hostPend := room }

def execHost (lane : Fin 64) (s : State) : Out :=
  .next (onTrig s 0xF1 (some lane) (fun s t => (s.lanes[t.lane]).hostPend) fun s t =>
    laneEvent s t.lane t.payload)

def execAndGate (lane : Fin 64) (s : State) : Out :=
  .next (onTrig s 0xFE (some lane) never fun s t => setGate s t.lane)

/-! ### The Commons (R349 to R353) -/

/-- STANDBY or DEEP SLEEP: the pulse tasks find their consumer busy (Table LAN-2), and no line is driven
(R48). -/
def cmAsleep (s : State) : Bool :=
  s.glb.pwr == .standby || s.glb.pwr == .deepReq || s.glb.pwr == .deepSleep

/-- CM_ARM_N is driven low, or released; on a unit that is not the master it is refused (R350). -/
def cmArm (s : State) (on : Bool) : State :=
  if !s.cm.master then { s with cm := { s.cm with armRefused := true } }
  else if (s.cm.en && !cmAsleep s) || !on then { s with cm := { s.cm with armDriven := on } }
  else s

/-- A fire or halt pulse begins (R352). -/
def cmPulse (s : State) (halt : Bool) : State :=
  if !s.cm.en || cmAsleep s then s
  else if halt then { s with cm := { s.cm with haltDriven := true } }
  else { s with cm := { s.cm with fireDriven := true } }

/-- A CM_CTL action, by descriptor or by the register (R353, Table LAN-11). -/
def cmCtl (s : State) (op : Option OpId) (action : Nat) (f : State → State) : State :=
  match op with
  | none => if barsOn s then f s else s
  | some id =>
    match op? s id with
    | none => s
    | some o =>
      if bits (wd o.cur 2) 1 0 ≠ action then s
      else
        runDesc s id 0xA3 fun s o _ =>
          let bad : Bool := o.ctx != 0 || !s.cm.en || (action ≤ 1 && !s.cm.master)
          let refused : Bool := o.ctx == 0 && action ≤ 1 && !s.cm.master
          if bad then
            finishOp (if refused then { s with cm := { s.cm with armRefused := true } } else s) id eArg []
          else finishOp (f s) id stOk []

def execCmCtlArm (op : Option OpId) (s : State) : Out := .next (cmCtl s op 0 fun s => cmArm s true)
def execCmCtlDisarm (op : Option OpId) (s : State) : Out := .next (cmCtl s op 1 fun s => cmArm s false)
def execCmCtlFire (op : Option OpId) (s : State) : Out := .next (cmCtl s op 2 fun s => cmPulse s false)
def execCmCtlHalt (op : Option OpId) (s : State) : Out := .next (cmCtl s op 3 fun s => cmPulse s true)

def execCmArmOut (s : State) : Out :=
  .next (onTrig s 0xE5 none (fun s _ => !s.cm.master) fun s _ => cmArm s true)

def execCmFireOut (s : State) : Out :=
  .next (onTrig s 0xE6 none (fun s _ => s.cm.fireDriven || cmAsleep s) fun s _ => cmPulse s false)

def execCmHaltOut (s : State) : Out :=
  .next (onTrig s 0xE7 none (fun s _ => s.cm.haltDriven || cmAsleep s) fun s _ => cmPulse s true)

def execCmPulseEnd (halt : Bool) (s : State) : Out :=
  .next (
    if halt then { s with cm := { s.cm with haltDriven := false } }
    else { s with cm := { s.cm with fireDriven := false } })

def execCmArmDetect (s : State) : Out := .next (fire s 0x90 0)

/-- Runs that wait with an ARM value may set timing zero (R351, R357). -/
def startArmed (s : State) (arm : Nat) : State :=
  (List.finRange 16).foldl (fun s p =>
    modRun s p fun r => if r.phase = .armed ∧ r.arm = arm then { r with go := true } else r) s

/-- A falling CM_FIRE_N is detected: `armLow` is the level of CM_ARM_N at the ball (R351). -/
def execCmFireDetect (armLow : Bool) (s : State) : Out :=
  .next (
    if !(armLow || s.cm.armDriven) then { s with cm := { s.cm with fireUnarmed := true } }
    else
      let s := fire s 0x91 0
      if !s.cm.en then s
      else
        let s := { s with cm := { s.cm with
          fires := s.cm.fires + 1, autoDue := s.cm.autoDue || (s.cm.autodisarm && s.cm.armDriven) } }
        let s := startArmed s 1
        (List.finRange 16).foldl (fun s p => releaseSync s p 0 0) s)

/-- A falling CM_HALT_N: CM_HALT fires and the Plazas of HALTMASK get a disable (R352). -/
def execCmHaltDetect (s : State) : Out :=
  .next (closeCheck
    ((plazasOf s.cm.haltMask).foldl (fun s p => disableEng s (.plaza p) none .alone) (fire s 0x92 0)))

def execAutodisarm (s : State) : Out :=
  .next (
    if s.cm.autoDue && s.cm.autodisarm then
      { s with cm := { s.cm with armDriven := false, autoDue := false } }
    else s)

end Sys2Proof.Machine
end

