-- ==== Sys2Proof/Machine/Avenue.lean ====
section
/-! DEFINITION. The Avenue: training, frames and pulses, effects (12_lanes, R354 to R361). -/

namespace Sys2Proof.Machine

/-- A quotient in whole units where the spec names no rounding: the units below or above it, open which
(notes/assumptions/43.md). -/
def openDiv (s : State) (a : Int) (b : Nat) : Int × State :=
  let q := a.fdiv b
  if q * b = a then (q, s)
  else
    let f := takeFree s 1
    (if f.1 = 1 then q + 1 else q, f.2)

/-- The present Avenue time in TCLK ticks (R354). -/
def avTime (s : State) : Int := (2 * (625 * (s.now.toNat : Int) + s.av.timeOfs)).fdiv 625

/-- AV_LAT in ps, within its bounds (Table LAN-15). -/
def avLatPs (s : State) : Int := clampInt 100 10000 s.av.latNs.toNat * 1000

/-- A version 2 line is owned, a version 1 line is sent on by the master (R359). -/
def sendable (s : State) (n : Fin 8) : Bool :=
  s.av.st == .trained && (if s.av.ver = 2 then s.av.own.getLsbD n.val else s.av.master)

/-- One bit through the CRC-8 register of polynomial 0x07 (R356). -/
def crc8Bit (c : BitVec 8) (b : Bool) : BitVec 8 :=
  if c.msb != b then (c <<< 1) ^^^ 0x07#8 else c <<< 1

/-- CRC-8 over bits 4 to 31 of a frame: taken as a bit string with bit 31 first (notes/assumptions/44.md). -/
def frameCrc (f : BitVec 40) : BitVec 8 :=
  (List.range 28).foldl (fun c i => crc8Bit c (f.getLsbD (31 - i))) 0

/-- The frame of an event (R356): preamble, payload, the low bits of its effect time, CRC. -/
def avFrame (payload : BitVec 8) (effect : Nat) : BitVec 40 :=
  let body : BitVec 40 := 5#40 ||| (payload.setWidth 40 <<< 4) ||| ((BitVec.ofNat 20 effect).setWidth 40 <<< 12)
  body ||| ((frameCrc body).setWidth 40 <<< 32)

/-- Line n is sending. -/
def onLine (s : State) (n : Fin 8) : Bool := s.av.sending.any fun x => x.1 == n

/-- A frame, or in version 1 a pulse, starts on a line; its effect time is now plus AV_LAT (R356, R358). -/
def avSendNow (s : State) (n : Fin 8) (payload : BitVec 8) (op : Option OpId) : State :=
  let l := openDiv s (avLatPs s * 2) 625
  let s := l.2
  let t := ((avTime s + l.1) % 2 ^ 48).toNat
  let p : BitVec 8 := if s.av.ver = 2 then payload else 0
  let f : Option (BitVec 40) := if s.av.ver = 2 then some (avFrame payload t) else none
  { s with av := { s.av with
      sending := (n, f) :: s.av.sending, events := s.av.events ++ [⟨n, p, t, op⟩] } }

/-- AV_SENDs that have started or wait when the Avenue leaves TRAINED end with E_LINK; nothing takes
effect any more (R360). -/
def avStop (s : State) (st : AvState) : State :=
  let ids := s.av.events.filterMap (·.op) ++ s.av.waiting.map (·.2)
  finishAll { s with av := { s.av with st := st, events := [], waiting := [], sending := [] } } ids eLink

/-! ### Training (R354, R361) -/

/-- Training begins on this unit: AV_CFG is committed (R354). -/
def avBegin (s : State) (op : Option OpId) : State :=
  let s := avStop s .training
  { s with av := { s.av with committed := true, trainOp := op } }

/-- Training fails: the unit is OFF. -/
def avFail (s : State) : State :=
  let ids := s.av.trainOp.toList
  finishAll { s with av := { s.av with st := .off, ver := 0, trainOp := none } } ids eLink

/-- Two units own one line. -/
def ownClash (own : BitVec 8) : List AvUnit → Bool
  | [] => false
  | u :: r => (own &&& u.own != 0) || ownClash (own ||| u.own) r

/-- D of a unit, ps (R354). -/
def avDelay (s : State) (u : AvUnit) : Int × State := openDiv s (u.sumT21 + u.sumT43) 32

/-- The master's training ends. -/
def avTrained (s : State) (us : List AvUnit) (ver : Nat) : State :=
  let r := us.foldl (fun (a : Int × State) u =>
    let d := avDelay a.2 u
    (max a.1 d.1, d.2)) (0, s)
  let s := r.2
  let m : Nat := us.foldl (fun m u => m ||| 2 ^ u.chipid.val) (2 ^ s.glb.chipid.toNat)
  let ids := s.av.trainOp.toList
  let s := { s with av := { s.av with st := .trained, ver := ver, ofs := 0, dly := 0, trainOp := none } }
  ids.foldl (fun s id => finishOp s id stOk
    [BitVec.ofNat 32 m, BitVec.ofNat 32 (m / 2 ^ 32), BitVec.ofNat 32 ver, w32 r.1]) s

/-- A follower's training ends: it takes its delay and offset and raises AV_TRAINED. -/
def avFollow (s : State) (us : List AvUnit) (ver : Nat) : State :=
  match us.find? fun u => u.chipid.val == s.glb.chipid.toNat with
  | none => s
  | some u =>
    let d := avDelay s u
    let o := openDiv d.2 (u.sumT21 - u.sumT43) 32
    let s := o.2
    postEq { s with av := { s.av with
        st := .trained, ver := ver, ofs := o.1, dly := d.1, timeOfs := s.av.timeOfs - o.1 } }
      none (mkEq s 0x0007 0 0 0)

/-- What a training in progress reports. -/
def avReport (s : State) (res : AvTrainRes) : State :=
  if s.av.st != .training then s
  else
    match res with
    | .begun => s
    | .stepFailed => avFail s
    | .answers us =>
      let others := us.filter fun u => u.chipid.val != s.glb.chipid.toNat
      if ownClash s.av.own others then
        avFail { s with av := { s.av with ownerClash := true } }
      else
        let ver := us.foldl (fun v u => min v u.version) 2
        if ver = 0 then avFail s
        else if s.av.trainOp.isSome then avTrained s others ver
        else if s.av.master then s
        else avFollow s us ver

def execAvTrain (op : Option OpId) (res : AvTrainRes) (s : State) : Out :=
  .next (
    match op with
    | none =>
      match res with
      | .begun => if s.av.en && !s.av.master then avBegin s none else s
      | r => if s.av.trainOp.isNone then avReport s r else s
    | some id =>
      match res with
      | .begun => runDesc s id 0xA4 fun s' o _ =>
        if o.ctx ≠ 0 ∨ !s'.av.master ∨ !s'.av.en then finishOp s' id eArg []
        else if s'.av.st = .training then s
        else avBegin s' (some id)
      | r => if s.av.trainOp = some id then avReport s r else s)

def execAvTrainTimeout (s : State) : Out :=
  .next (if s.av.st = .training then avFail s else s)

/-! ### Events (R356 to R361) -/

def execAvSend (op : OpId) (s : State) : Out :=
  .next (runDesc s op 0xA5 fun s o d =>
    let n : Fin 8 := Fin.ofNat 8 (bits (wd d 2) 2 0)
    if o.ctx ≠ 0 then finishOp s op eArg []
    else if s.av.st ≠ .trained then finishOp s op eLink []
    else if !sendable s n then finishOp s op eArg []
    else if onLine s n then
      { s with av := { s.av with waiting := s.av.waiting ++ [(n, op)] } }
    else avSendNow s n (BitVec.ofNat 8 (bits (wd d 2) 15 8)) (some op))

def execAvOut (line : Fin 8) (s : State) : Out :=
  .next (onTrig s (0xE8 + line.val) none
    (fun s _ => !sendable s line || onLine s line) fun s t => avSendNow s line t.payload none)

/-- The line is free; the next AV_SEND that waits for it starts (R359). -/
def execAvFrameSent (line : Fin 8) (s : State) : Out :=
  .next (
    let s := { s with av := { s.av with sending := s.av.sending.filter fun x => x.1 != line } }
    match s.av.waiting.find? fun w => w.1 == line with
    | none => s
    | some (_, id) =>
      let s := { s with av := { s.av with waiting := s.av.waiting.filter fun w => w.2 != id } }
      match op? s id with
      | some o =>
        if o.live then avSendNow s line (BitVec.ofNat 8 (bits (wd o.cur 2) 15 8)) (some id) else s
      | none => s)

/-- The effect time of a frame: the value nearest this unit's Avenue time (R356). -/
def extendEffect (t : Int) (e : Nat) : Int :=
  let d := ((e : Int) - t) % 2 ^ 20
  t + (if d < 2 ^ 19 then d else d - 2 ^ 20)

def execAvFrameReceive (line : Fin 8) (frame : BitVec 40) (s : State) : Out :=
  .next (
    if s.av.st != .trained || s.av.ver != 2 || bits frame 3 0 != 5 then s
    else if frameCrc frame ≠ BitVec.ofNat 8 (bits frame 39 32) then
      postEq { s with av := { s.av with crcErr := true } } none (mkEq s 0x0008 line.val 0 0)
    else
      let t := avTime s
      let e := extendEffect t (bits frame 31 12)
      let late : Bool := decide (e < t + 64)
      let e := if late then t + 64 else e
      let s := { s with av := { s.av with
        late := s.av.late || late,
        events := s.av.events ++ [⟨line, BitVec.ofNat 8 (bits frame 11 4), (e % 2 ^ 48).toNat, none⟩] } }
      if late then postEq s none (mkEq s 0x0009 line.val 0 0) else s)

def execAvPulseReceive (line : Fin 8) (s : State) : Out :=
  .next (
    if s.av.st != .trained || s.av.ver != 1 then s
    else
      let l := openDiv s ((avLatPs s - s.av.dly) * 2) 625
      let s := l.2
      let t := ((avTime s + l.1) % 2 ^ 48).toNat
      { s with av := { s.av with events := s.av.events ++ [⟨line, 0, t, none⟩] } })

/-- The oldest event on a line takes effect (R357). -/
def execAvEffect (line : Fin 8) (s : State) : Out :=
  .next (
    match s.av.events.find? fun e => e.line == line with
    | none => s
    | some e =>
      if s.av.st != .trained then s
      else
        let s := { s with av := { s.av with events := s.av.events.eraseP fun e => e.line == line } }
        let s := fire s (0x88 + line.val) e.payload.toNat
        let s := (List.finRange 16).foldl (fun s p => releaseSync s p 1 line.val) s
        let s := if line = s.av.startLine then startArmed s 2 else s
        (e.op.toList).foldl (fun s id => finishOp s id stOk
          [BitVec.ofNat 32 e.effect, BitVec.ofNat 32 (e.effect / 2 ^ 32)]) s)

def execAvLinkLost (s : State) : Out :=
  .next (
    if s.av.st == .trained && !s.av.master then
      postEq (avStop s .lost) none (mkEq s 0x000A 0 0 0)
    else s)

/-- AV_CFG.EN is written 0: OFF, and the fields are free again (Table LAN-13). -/
def avOff (s : State) : State :=
  let s := avStop (avFail s) .off
  { s with av := { s.av with en := false, committed := false } }

def execAvCfgEnClear (s : State) : Out := .next (if barsOn s then avOff s else s)

end Sys2Proof.Machine
end

