-- ==== Sys2Proof/Machine/BootOps.lean ====
section
/-! DEFINITION. Start-up as shared operations: rails, what a whole reset keeps, the boot's steps, manifests and
the microcode patch (01_architecture, R30 to R39; 06_control_store, R211 to R217; 11_power, R310 to R314;
15_boot_security_recovery, R413 to R420). -/

namespace Sys2Proof.Machine

/-! ### Rails (Table PWR-2) -/

/-- Index of a rail in `railUp`. -/
def railIx : Rail → Fin 31
  | .vlich => 0
  | .vio => 1
  | .vcore => 2
  | .vsram => 3
  | .vdd1 => 4
  | .vdd2 => 5
  | .vddq => 6
  | .vped n => ⟨7 + n.val, by omega⟩
  | .vpep n => ⟨15 + n.val, by omega⟩
  | .vpen n => ⟨23 + n.val, by omega⟩

/-- Order of a rail. -/
def railOrder : Rail → Nat
  | .vlich => 1
  | .vio => 2
  | .vcore | .vsram => 3
  | .vdd1 => 4
  | .vdd2 | .vddq => 5
  | .vped _ => 6
  | .vpep _ | .vpen _ => 7

def allRails : List Rail :=
  [.vlich, .vio, .vcore, .vsram, .vdd1, .vdd2, .vddq] ++ (List.finRange 8).map .vped ++
  (List.finRange 8).map .vpep ++ (List.finRange 8).map .vpen

def railGood (s : State) (r : Rail) : Bool := s.pwr.railUp[railIx r]

def setRail (s : State) (r : Rail) (b : Bool) : State :=
  { s with pwr := { s.pwr with railUp := s.pwr.railUp.set (railIx r) b } }

/-- The rails of orders 1 to 5 are good. -/
def coreUp (s : State) : Bool := allRails.all fun r => 5 < railOrder r || railGood s r

/-- The highest order that the state the W1024 is in, or on its way to, keeps up (Table PWR-2); PE rails
come up once the boot has begun (Table BOOT-1). -/
def railsWanted (s : State) : Nat :=
  if s.glb.pwr = .deepSleep then 1
  else if s.boot.stage = .reset then 5
  else
    match s.glb.pwr with
    | .active | .idle => 7
    | _ => if s.glb.busy && s.glb.target == .active then 7 else 5

/-- The rails of the lowest order that is not up start, once every rail before them is good (R313, R314). -/
def bringUp (s : State) : State :=
  if !s.pwr.starting.isEmpty || s.pwr.seqStopped || !s.glb.vinGood then s
  else
    let down := allRails.filter fun r => railOrder r ≤ railsWanted s && !railGood s r
    let o := (down.map railOrder).foldl min 8
    { s with pwr := { s.pwr with starting := down.filter fun r => railOrder r == o } }

/-- Rails of an order above o go down (R313). -/
def railsDown (s : State) (o : Nat) : State :=
  let s := (allRails.filter fun r => o < railOrder r).foldl (fun s r => setRail s r false) s
  { s with pwr := { s.pwr with starting := s.pwr.starting.filter fun r => railOrder r ≤ o } }

/-! ### What resets keep (Table BOOT-2, R440) -/

/-- The flags of PWR_EVT held in the Lichen domain (Table PWR-20). -/
def lichenFlags (e : PwrEvt) : PwrEvt :=
  { extV := e.extV, vinOvSeen := e.vinOvSeen, brownout := e.brownout }

/-- Everything at its reset value but what is outside the W1024, in MTP or in eFuses, the straps, the rails,
the lock of the PLLs and RST_CAUSE. -/
def freshCore (s : State) : State :=
  { pending := s.pending, freeCount := s.freeCount, hostMem := s.hostMem, flash := s.flash,
    rdata := s.rdata, nextOp := s.nextOp, msixSent := s.msixSent,
    glb := { chipid := s.glb.chipid, psChain := s.glb.psChain, refsel := s.glb.refsel, lock := s.glb.lock,
             por := s.glb.por, perst := s.glb.perst, vinGood := s.glb.vinGood },
    pwr := { railUp := s.pwr.railUp, starting := s.pwr.starting, evt := lichenFlags s.pwr.evt },
    boot := { rst := s.boot.rst, fwFloor := s.boot.fwFloor, patchFloor := s.boot.patchFloor,
              revoked := s.boot.revoked },
    park := { image := s.park.image, writes := s.park.writes } }

/-- The temperature history of s, in t: that of the dies whose sensors the Lichen domain reads, the core die and
the power die (Table ARC-5, Table CAL-9). The samples of a rate begin afresh (R381). -/
def keepHist (s t : State) : State :=
  { t with thm := { t.thm with dies := updAll t.thm.dies fun d D =>
      if 8 ≤ d.val then { D with past := (s.thm.dies[d]).past } else D } }

/-- The monitor set-ups and the temperature history of s, in t (Table ARC-5). -/
def keepMon (s t : State) : State :=
  { keepHist s t with dps := updAll t.dps fun n D => { D with mon := (s.dps[n]).mon } }

/-- A LANE_EVENT of Lane n waits in t (Table LAN-2, HOST). -/
def eventWaits (t : State) (n : Fin 64) : Bool :=
  t.eqPend.any fun e => e.recs.any fun r => r.code == 6 && r.index.toNat == n.val

/-- The Lanes and port S of s, in t (R346, R440). -/
def keepLanes (s t : State) : State :=
  { t with lanes := updAll s.lanes fun n l => { l with hostPend := l.hostPend && eventWaits t n },
           lanLimit := s.lanLimit, ps := s.ps }

/-- The records that the Lichen domain raised in DEEP SLEEP and that are not yet written (R330, R346), in t. -/
def keepRecs (s t : State) : State :=
  { t with eqPend := s.eqPend.filterMap fun e =>
      let rs := e.recs.filter (·.lich)
      if rs.isEmpty then none else some { ctx := e.ctx, recs := rs } }

/-- The whole Lichen domain of s, in t (R311, R330, R346, R440, Table ARC-5). -/
def keepLichen (s t : State) : State := keepLanes s (keepMon s (keepRecs s t))

/-- What an FLR holds for context 0's EQ, with the reports on their way to the fault aggregator and an open
storm window (R59, R425, R430; notes/assumptions/231.md), in t. -/
def keepFaults (s t : State) : State :=
  { t with eqPend := s.eqPend.filter fun e => e.ctx == 0,
           fag := { t.fag with window := s.fag.window, inFlight := s.fag.inFlight } }

/-- A port S frame in progress goes on through a reset (Table SER-10). -/
def keepFrame (s t : State) : State :=
  { t with ps := { t.ps with slow := s.ps.slow, inFrame := s.ps.inFrame, abandoned := s.ps.abandoned, cut := s.ps.cut,
                             resp := s.ps.resp, sdo := s.ps.sdo, taken := s.ps.taken } }

/-! ### The boot begins (Table BOOT-1 from 10,200,000 ns) -/

/-- Outputs take their park modes: the W1024 is powered and out of reset (R48, R50). -/
def parkAll (s : State) : State :=
  let s := (List.finRange 16).foldl parkPlaza s
  let s := (List.finRange 16).foldl parkAwg s
  (List.finRange 32).foldl parkDps s

/-- Every DAC takes its code from the park store, every switch open (R36, R49, R112, R141). -/
def firstCodes (s : State) (restore : Bool) : State :=
  let s := (List.finRange 16).foldl (fun s p => modTim (loadDacs s p restore) p defaultTiming) s
  let s := (List.finRange 16).foldl (fun s a =>
    modAwg s a fun A => { A with sAwg := false, code := parkCodeAwg s a, parked := true }) s
  (List.finRange 32).foldl (fun s n =>
    modDps s n fun D => { D with sDps := false, sink := false, parked := false, vcode := parkCodeDps s n }) s

/-- The boot ROM runs: the park store is read, the PE rails start, port M starts. -/
def bootBegin (s : State) : State :=
  let s := firstCodes (parkLoad s) false
  let s := pmStarting (modEng s .portM fun c => { c with st := .starting })
  bringUp { s with boot := { s.boot with stage := .rom, trying := 1 } }

/-- The rails of the sequence that the boot brings up have ended: good, or stopped at one that failed (R313, R314,
Table BOOT-1). -/
def railsSettled (s : State) : Bool :=
  s.pwr.starting.isEmpty && (s.pwr.seqStopped || allRails.all fun r => railsWanted s < railOrder r || railGood s r)

/-- The boot begins where no reset is in force, the core rails are good and the PLLs locked; else rails come
up. -/
def resume (s : State) : State :=
  if s.boot.stage = .reset && !s.glb.por && !s.glb.perst && s.glb.lock && coreUp s &&
      s.glb.pwr != .deepSleep then bootBegin s
  else bringUp s

/-! ### Whole resets -/

/-- Power-on reset is in force: the PLLs are off, the straps unknown, RST_CAUSE names it. -/
def porMarks (t : State) : State :=
  { t with
    glb := { t.glb with por := true, vinGood := false, lock := false, chipid := 0, psChain := false },
    boot := { t.boot with rst := {} } }

/-- The Lichen domain's flags and REFSEL are lost as well. -/
def lichenLost (t : State) : State :=
  { t with pwr := { t.pwr with evt := {} }, glb := { t.glb with refsel := false } }

/-- Power-on reset (R310, R415): all rails but VLICH down; `lichen`: the Lichen domain keeps running
(R311). -/
def porNow (s : State) (lichen : Bool) : State :=
  let t := porMarks (freshCore s)
  if lichen then keepFrame s (keepLichen s (railsDown t 1)) else railsDown (lichenLost t) 0

/-- PERST_N is asserted, and RST_CAUSE names it. -/
def perstMarks (t : State) : State :=
  { t with glb := { t.glb with perst := true }, boot := { t.boot with rst := { t.boot.rst with perst := true } } }

/-- PERST_N: the Lichen domain too, except RST_CAUSE and its flags of PWR_EVT. -/
def perstNow (s : State) : State := bringUp (keepFrame s (railsDown (perstMarks (freshCore s)) 5))

/-- RST_CAUSE names the cause of a self-reset (R425, Table BOOT-13). -/
def noteSelf (r : RstCause) : SelfCause → RstCause
  | .watchdog => { r with selfWdog := true }
  | .internal => { r with selfWdog := true }
  | .rail => { r with selfRail := true }
  | .host => { r with selfHost := true }

/-- The Lanes that contexts hold are disabled as contexts close (R347). -/
def freeLanes (s t : State) : State :=
  let freed (n : Fin 64) : Bool := (s.own.lane[n]).isSome
  { t with lanes := updAll t.lanes fun n l =>
      let pair : Bool := freed n || freed (partner n)
      { l with en := l.en && !freed n, latchG := l.latchG && !pair, latchS := l.latchS && !pair } }

def selfMarks (t : State) (c : SelfCause) : State :=
  { t with boot := { t.boot with rst := noteSelf t.boot.rst c } }

/-- PERST_N holds the W1024 in reset; low in DEEP SLEEP it is only noted (notes/assumptions/112.md). -/
def perstHolds (s : State) : Bool := s.glb.perst && s.glb.pwr != .deepSleep

/-- Chip-level self-reset (R425): the Lichen domain stays but for the monitors, which every reset sets back
(R331), context 0's records are held as an FLR holds them, and the boot runs again. In DEEP SLEEP only a rail
brings it (R314). -/
def selfReset (s : State) (c : SelfCause) : State :=
  if s.glb.por || perstHolds s || (s.glb.pwr == .deepSleep && c != .rail) then s
  else
    resume (railsDown (selfMarks (freeLanes s (keepLanes s (keepFaults s (keepHist s (freshCore s))))) c) 5)

/-- What DEEP SLEEP keeps besides: the limits and exclusions the sensors use, PWR_EVT, the power limit. -/
def sleepMarks (s t : State) : State :=
  { t with
    thm := { t.thm with lims := s.thm.lims, bad := s.thm.bad, excl := s.thm.excl, limBad := s.thm.limBad },
    pwr := { t.pwr with evt := s.pwr.evt, limitMw := s.pwr.limitMw },
    glb := { t.glb with pwr := .deepSleep, lock := false, linkL23 := true, wakeNLow := s.glb.wakeNLow } }

/-- DEEP SLEEP is entered: the Lichen domain stays, with the limits and exclusions its sensors use (R37, Table
ARC-5). -/
def sleepNow (s : State) : State := railsDown (sleepMarks s (keepLichen s (freshCore s))) 1

/-- What a wake keeps of the Lichen domain and of the records it raised (R330, R346), and the exclusions of
sensors, whose bits in THM_BAD are reset (R380, R440; notes/assumptions/108.md). -/
def wakeMarks (s t : State) : State :=
  { t with lanes := s.lanes, lanLimit := s.lanLimit, ps := s.ps, eqPend := s.eqPend,
           thm := { t.thm with excl := s.thm.excl },
           boot := { t.boot with rst := { t.boot.rst with wake := true } } }

/-- A wake from DEEP SLEEP (R38, R415): the Lichen domain and the records it raised stay (R330, R346), and
excluded sensors stay excluded (R380). -/
def wakeNow (s : State) : State := resume (wakeMarks s (keepMon s (freshCore s)))

/-! ### Manifests (Tables BOOT-3 and BOOT-4) -/

/-- Flash address of the primary (1) or secondary (2) manifest. -/
def manAddr (t : Nat) : Nat := if t = 2 then 0x800000 else 0

/-- Some bytes are all 0. -/
def zeros (bs : List Byte) : Bool := bs.all (· == 0)

/-- The digest of a manifest or a patch image: SHAKE256 of what precedes its signature (R212, R416). -/
def digestOf (bs : List Byte) (n : Nat) : List Byte := bvBytes 64 (Config.shake256 64 (bs.take n))

/-- PUBKEY belongs to a slot that is not revoked (R419). -/
def keyOk (s : State) (slot : Nat) (pub : List Byte) : Bool :=
  if h : slot < 4 then
    bvBytes 32 (Config.shake256 32 pub) == bvBytes 32 (Config.keyHash ⟨slot, h⟩) &&
      !s.boot.revoked[slot]
  else false

/-- Step 2 of Table BOOT-4. -/
def manForm (m : List Byte) : Bool :=
  sliceB m 0 4 == [0x50, 0x58, 0x42, 0x4D] && numAt m 4 2 == 1 && numAt m 6 1 < 4 && zeros (sliceB m 7 1) &&
    numAt m 0x0C 4 % 4096 == 0 && decide (4096 ≤ numAt m 0x10 4) && decide (numAt m 0x10 4 ≤ 4194304) &&
    numAt m 0x18 1 < 64 && numAt m 0x19 1 < 64 && zeros (sliceB m 0x1A 6) && zeros (sliceB m 0x60 160)

/-- What a control core reads of the boot flash: 0xFF from PM_DENS on (R396). -/
def coreRead (s : State) (a n : Nat) : List Byte :=
  let k := min n (pmBytes s - a)
  flashRead s a k ++ List.replicate (n - k) 0xFF

/-- The firmware image of a manifest has its FW_DIGEST. -/
def fwGood (s : State) (m : List Byte) : Bool :=
  bvBytes 64 (Config.shake256 64 (coreRead s (numAt m 0x0C 4) (numAt m 0x10 4))) == sliceB m 0x20 64

/-- Steps 1 to 6 of Table BOOT-4 on a manifest: the code of the first that fails. `reads`: bit 0, the manifest
reads from the flash, as it does not where none is fitted (R455); bit 1, its image does. -/
def manCheck (s : State) (reads : BitVec 2) (m : List Byte) : Option (BitVec 4) :=
  let pub := sliceB m 0x100 1952
  if !Config.flashFitted || !reads.getLsbD 0 || !isOn s .portM then some 1
  else if !manForm m then some 2
  else if !keyOk s (numAt m 6 1) pub then some 3
  else if !Config.mlDsaVerify pub (digestOf m 0x8A0) (sliceB m 0x8A0 3309) then some 4
  else if numAt m 8 4 < s.boot.fwFloor * 2 ^ 24 then some 5
  else if !reads.getLsbD 1 || !fwGood s m then some 6
  else none

/-- RECOVERY is entered (R418). -/
def recover (s : State) : State :=
  let s := { s with
    boot := { s.boot with stage := .recovery, manifest := 0, keyslot := 0, trying := 0, runMan := [] },
    glb := { s.glb with fwVer := 0 },
    patch := { limit := s.patch.limit, st := 0 } }
  idleCheck (parkAll s)

/-- A manifest has passed steps 1 to 6: its firmware starts. -/
def startFw (s : State) (t : Nat) (m : List Byte) : State :=
  { s with boot := { s.boot with stage := .fwInit, trying := t, runMan := m } }

/-- The secondary manifest is checked. Whether it and its image read from the flash without error is free
(notes/assumptions/219.md). -/
def trySecond (s : State) : State :=
  let f := takeFree s 2
  let s := f.2
  let m := coreRead s (manAddr 2) 5517
  match manCheck s f.1 m with
  | none => startFw s 2 m
  | some c => recover { s with boot := { s.boot with failS := c } }

/-- The manifest being tried is checked, once the rails have settled and port M has ended its STARTING (R417,
Table BOOT-1). -/
def bootTry (s : State) : State :=
  if (getEng s .portM).st == .starting || !railsSettled s then { s with boot := { s.boot with stage := .rom } }
  else if s.boot.trying = 2 then trySecond s
  else
    let f := takeFree s 2
    let s := f.2
    let m := coreRead s (manAddr 1) 5517
    match manCheck s f.1 m with
    | none => startFw s 1 m
    | some c => trySecond { s with boot := { s.boot with failP := c, trying := 2 } }

/-- Port M's STARTING, or the rails' rise, has ended during the boot. -/
def bootHook (s : State) (e : Eng) : State :=
  if e = .portM && s.boot.stage == .rom && (getEng s .portM).st != .starting && railsSettled s then bootTry s else s

/-- Rails have reached their value or stopped. Outputs that waited for them take their park modes, and the boot
goes on (R48, R313, Table BOOT-1). -/
def railsEnded (s : State) : State :=
  let s := if s.pwr.starting.isEmpty && startedUp s && peUp s then parkAll s else s
  bootHook s .portM

/-! ### The microcode patch (Tables UCS-4 and UCS-5) -/

/-- Bytes of the image that the tag covers besides the payload: IV of the tag taken as 0 (R212). -/
def patchAad (im : List Byte) : List Byte :=
  im.take 0x20 ++ List.replicate 16 0 ++ (im.drop 0x30).take 0xD0

/-- The plaintext of the payload, where the tag matches. -/
def patchPlain (im : List Byte) : Option (List Byte) :=
  Config.aesGcmOpen (sliceB im 0x14 12) (patchAad im) (sliceB im 0x8A0 4096) (sliceB im 0x20 16)

/-- No page of the patch is named twice. -/
def pagesOnce : List Byte → Bool
  | [] => true
  | v :: r => (v == 0 || !r.contains v) && pagesOnce r

/-- Step 8 of Table UCS-5 (R213). -/
def patchFits (im plain : List Byte) : Bool :=
  let n := numAt im 0x10 2
  let map := sliceB im 0x40 64
  decide (1 ≤ n) && decide (n ≤ 1024) && map.all (fun v => v.toNat ≤ 16) && pagesOnce map &&
    map.all (fun v => v == 0 || v.toNat - 1 < (n + 63) / 64) && zeros ((sliceB plain 0 4096).drop (4 * n))

/-- Steps 1 to 8 of Table UCS-5: the words, or the code of the first that fails. -/
def patchCheck (s : State) (im : List Byte) : (BitVec 4) ⊕ (List Word) :=
  let pub := sliceB im 0x100 1952
  if !isOn s .portM then .inl 0xA
  else if sliceB im 0 4 != [0x50, 0x58, 0x55, 0x43] || numAt im 4 2 != 1 || !zeros (sliceB im 6 2) ||
      !zeros (sliceB im 0x13 1) || !zeros (sliceB im 0x30 16) || !zeros (sliceB im 0x80 128) then .inl 1
  else if !keyOk s (numAt im 0x12 1) pub then .inl 2
  else if !Config.mlDsaVerify pub (digestOf im 0x18A0) (sliceB im 0x18A0 3309) then .inl 3
  else if numAt im 0x0C 4 < s.boot.patchFloor * 2 ^ 24 then .inl 4
  else if numAt im 8 4 != 0xB001 then .inl 5
  else
    match patchPlain im with
    | none => .inl 6
    | some plain => if patchFits im plain then .inr (wordsOf 1024 plain) else .inl 7

/-- The load has failed: ROM alone, FAIL_CODE and one record (R215). -/
def failPatch (s : State) (c : BitVec 4) : State :=
  postEq { s with patch := { limit := s.patch.limit, st := 3, failCode := c } } none
    (mkEq s 0x0004 0 (c.setWidth 32) 0)

/-- The parity bit of a patch RAM word: 1 for an odd number of ones (R207; notes/assumptions/220.md). -/
def parityOf (w : Word) : Bool := (List.range 32).foldl (fun b i => b != w.getLsbD i) false

/-- The firmware loads the patch that its manifest names (R214 to R216). Whether the image reads without error
and the 16 Plazas read back what was written (steps 1 and 9) is free (notes/assumptions/219.md). -/
def loadPatch (s : State) : State :=
  let off := numAt s.boot.runMan 0x14 4
  if s.patch.st ≠ 1 then s
  else if off = 0 then { s with patch := { s.patch with st := 0 } }
  else
    let f := takeFree s 2
    let s := f.2
    let im := coreRead s off 9613
    match if f.1.getLsbD 0 then .inl 0xA else patchCheck s im with
    | .inl c => failPatch s c
    | .inr ws =>
      if f.1.getLsbD 1 then failPatch s 8
      else
        { s with patch :=
            { limit := s.patch.limit, st := 2, failCode := 0, ver := BitVec.ofNat 32 (numAt im 0x0C 4), ram := ws,
              par := ws.map parityOf, pageMap := sliceB im 0x40 64, digest := digestOf im 0x18A0 } }

/-- The firmware declares itself RUNNING: the manifest is named, BAR0 is served, outputs park (R414, R417). -/
def fwRunning (s : State) : State :=
  let s := loadPatch s
  let m := s.boot.runMan
  let s := { s with
    boot := { s.boot with stage := .running, manifest := BitVec.ofNat 2 s.boot.trying,
                          keyslot := BitVec.ofNat 2 (numAt m 6 1) },
    glb := { s.glb with fwVer := BitVec.ofNat 32 (numAt m 8 4) } }
  idleCheck (parkAll s)

end Sys2Proof.Machine
end

