-- ==== Sys2Proof/Machine/Dps.lean ====
section
/-! DEFINITION. The commands of the DUT supplies, their monitors, the power budget and the supply
channels (11_power, R315 to R337). -/

namespace Sys2Proof.Machine

/-- The DPS a descriptor names. -/
def dpsIx (d : List Word) : Fin 32 := Fin.ofNat 32 (bits (wd d 2) 4 0)

/-- The set-up a DPS_CFG gives (Table PWR-5). -/
def dpsCfgOf (d : List Word) : DpsCfg :=
  let slew := bits (wd d 7) 15 0
  { vset := (wd d 4).toNat, isrc := (wd d 5).toNat, isnk := (wd d 6).toNat,
    slew := if slew = 0 then 10000 else slew, range := bits (wd d 3) 2 0,
    sense := (wd d 3).getLsbD 8 }

/-- The fields of a set-up are in range (Table PWR-5). -/
def DpsCfg.inRange (c : DpsCfg) : Bool :=
  c.range ≤ 5 && c.vset ≤ 15000000 && 1 ≤ c.isrc && c.isrc ≤ dpsScale c.range &&
    1 ≤ c.isnk && c.isnk ≤ dpsScale c.range && c.slew ≤ 10000

/-- A set-up applies as the DPS's state says (R323): in STARTING the ramp retargets; in ON a new VSET is ramped
to, and a new range blanks. -/
def applyDpsCfg (D : Dps) (c : DpsCfg) : Dps :=
  let D := { D with cfg := c, pkgSense := D.pkgSense && !c.sense }
  match D.eng.st with
  | .starting =>
    if D.stage = .discharge then { D with live := c } else { D.setLimits c with stage := .ramp }
  | .on =>
    { D.setLimits c with ramping := D.ramping || c.vset != D.live.vset,
                         blankCount := D.blankCount || c.range != D.live.range }
  | _ => D

def execDpsCfg (op : OpId) (s : State) : Out :=
  .next (runDesc s op 0x79 fun s _ d =>
    let n := dpsIx d
    let D := s.dps[n]
    let c := dpsCfgOf d
    let live : Bool := D.eng.st == .on || D.eng.st == .starting
    if !c.inRange || dpsTop s < c.vset || !c.converts (if live then D.corr else dpsCal s n) ||
        1000 * c.slew * dpsStartMs s < c.vset then finishOp s op eArg []
    else finishOp (modDps s n fun D => applyDpsCfg D c) op stOk [])

/-- A ramp ends: of a DPS_CFG, and its BLANK count starts (R329); of a start at VSET (R320); of a stop at 0 V
(R321). -/
def execDpsRampEnd (n : Fin 32) (s : State) : Out :=
  .next (modDps s n fun D =>
    match D.eng.st with
    | .on =>
      if D.ramping then { D with ramping := false, blankCount := true, vcode := D.code D.live } else D
    | .starting => if D.stage = .ramp then { D with stage := .settle, vcode := D.code D.live } else D
    | .stopping | .pendingOn => if D.stage = .ramp then dpsIsolate D else D
    | _ => D)

/-- A BLANK count ends (R329). -/
def execBlankEnd (n : Fin 32) (s : State) : Out := .next (modDps s n fun D => { D with blankCount := false })

def execDpsMeas (op : OpId) (s : State) : Out :=
  .next (runDesc s op 0x7A fun s _ d =>
    let navg := bits (wd d 4) 9 0
    if !isOn s (.dps (dpsIx d)) || navg = 0 || 1000 < navg || !peUp s then finishOp s op eArg []
    else queueMon s op)

/-- The calibrated mean of a DPS_MEAS, nV or pA (R333). -/
def dpsValue (D : Dps) (qty : Nat) (navg : Nat) (sum : Int) : Int :=
  if qty = 0 then
    let go := goOf D.corr 7
    divAway (500000 * sum * (2 ^ 31 + go.1) + 100 * go.2 * (navg * 2 ^ 31)) (navg * 2 ^ 31)
  else
    let go := goOf D.corr (8 + D.live.range)
    divAway (1250 * dpsScale D.live.range * sum * (2 ^ 31 + go.1) + 10 * go.2 * (32768 * navg * 2 ^ 31))
      (32768 * navg * 2 ^ 31)

/-- A code that a monitor ADC can give (R333). -/
def monCode (n : Int) : Bool := -32768 ≤ n && n ≤ 32767

def execDpsMeasDone (op : OpId) (codes : List Int) (limited : Bool) (s : State) : Out :=
  .next (onRunning s op 0x7A fun _ d =>
    if s.dram.mon.contains op && codes.length == bits (wd d 4) 9 0 && codes.all monCode then
      let D := s.dps[dpsIx d]
      let navg := bits (wd d 4) 9 0
      let sum : Int := codes.foldl (· + ·) 0
      let clipped : Bool := codes.any fun n => n == -32768 || n == 32767
      let v : BitVec 64 := BitVec.ofInt 64 (dpsValue D (bits (wd d 3) 0 0) navg sum)
      let fl := 8 * b2n D.senseLost + 4 * b2n limited + 2 * b2n D.dropout + b2n clipped
      let s := finishOp s op stOk
        [v.setWidth 32, (v >>> 32).setWidth 32, BitVec.ofNat 32 fl, w32 ((16 * sum).tdiv navg)]
      leaveMon s op
    else s)

/-- A monitor set-up passes R331. -/
def Mon.ok (m : Mon) : Bool :=
  m.vhi ≤ 16380000 && m.vlo ≤ 16380000 && (!m.vEn || m.vlo + 100000 ≤ m.vhi) &&
    (!m.iEn || (m.isrcT != 0 && m.isnkT != 0 && m.mode != 3))

def execMonCfg (op : OpId) (s : State) : Out :=
  .next (runDesc s op 0x7B fun s _ d =>
    if (monOf d).ok then queueMon s op else finishOp s op eArg [])

def execMonCheck (op : OpId) (s : State) : Out :=
  .next (runDesc s op 0x7C fun s _ d =>
    if wd d 2 = 0 || !peUp s then finishOp s op eArg [] else queueMon s op)

/-- The accuracy of Table PWR-6 is doubled (R446). -/
def hotPower (s : State) : Bool :=
  match (s.thm.dies[(9 : Fin 10)]).temp with
  | some t => 10000 ≤ t && t ≤ 11500
  | none => false

/-- A voltage threshold whose reading is e nV from the v uV set lies within k times its accuracy (Table PWR-6). -/
def vErrOk (k : Nat) (micro : Bool) (v e : Int) : Bool :=
  if micro then decide ((e.natAbs : Int) ≤ k * (20 * v + 40000000))
  else decide ((e.natAbs : Int) ≤ k * (5 * v + 10000000))

/-- A current threshold whose reading is e / 32768 pA from n steps in range r lies within k times its accuracy. -/
def iErrOk (k r : Nat) (n e : Int) : Bool :=
  decide ((e.natAbs : Int) ≤ k * (100 * n * dpsScale r + 65536 * dpsScale r))

/-- The trip test runs on DPSn (R332). -/
def tripTested (s : State) (d : List Word) (n : Fin 32) : Bool :=
  (wd d 3).getLsbD 0 && isOn s (.dps n) && (s.dps[n]).mon.vEn && decide ((s.dps[n]).mon.mode ≤ 2)

/-- The 16 conversions of a threshold are codes that the monitor ADC can give. -/
def checkCodes (m : Mon) (r : MonCheckRes) : Bool :=
  let ok (en : Bool) (cs : List Int) : Bool := !en || (cs.length == 16 && cs.all monCode)
  ok m.vEn r.vhi && ok m.vEn r.vlo && ok m.iEn r.isrc && ok m.iEn r.isnk

/-- The four result words of one DPS, and whether it passes: the readings are corrected as a DPS_MEAS corrects
its own, and the value set is the requested threshold at its step (R329, R332, R333, R368). -/
def monResult (s : State) (d : List Word) (r : MonCheckRes) : List Word × Bool :=
  let D := s.dps[r.dps]
  let m := D.mon
  let g := D.live.range
  let R : Int := dpsScale g
  let k := if hotPower s then 2 else 1
  let sum (cs : List Int) : Int := cs.foldl (· + ·) 0
  let vSet := monVolt (0, 0)
  let iSet := monAmp g (0, 0)
  let vErr (x : Nat) (cs : List Int) : Int := dpsValue D 0 16 (sum cs) - 1000 * vSet x
  let iErr (x : Nat) (cs : List Int) : Int :=
    32768 * dpsValue D 1 16 (sum cs) - 10000 * iSet x * R
  let v (x : Nat) (cs : List Int) : Bool :=
    !m.vEn || vErrOk k (m.mode == 3) (vSet x) (vErr x cs)
  let i (x : Nat) (cs : List Int) : Bool :=
    !m.iEn || iErrOk k g (iSet x) (iErr x cs)
  let tested := tripTested s d r.dps
  let a := v m.vhi r.vhi
  let b := v m.vlo r.vlo
  let c := i m.isrcT r.isrc
  let e := i m.isnkT r.isnk
  let pass : Bool := a && b && c && e && (!tested || r.tripOk)
  let h (en : Bool) (x : Int) : Nat := if en then (BitVec.ofInt 16 (clampInt (-32768) 32767 x)).toNat else 0
  let hv (x : Nat) (cs : List Int) : Nat := h m.vEn (divAway (vErr x cs) 1000000)
  let hi (x : Nat) (cs : List Int) : Nat := h m.iEn (divAway (iErr x cs) (32768 * dpsScale g))
  ([BitVec.ofNat 32 (at_ 31 1 + at_ 30 (b2n pass) + at_ 29 (b2n (tested && r.tripOk)) +
      at_ 28 (b2n a) + at_ 27 (b2n b) + at_ 26 (b2n c) + at_ 25 (b2n e)),
    BitVec.ofNat 32 (at_ 16 (hv m.vlo r.vlo) + hv m.vhi r.vhi),
    BitVec.ofNat 32 (at_ 16 (hi m.isnkT r.isnk) + hi m.isrcT r.isrc), 0], pass)

def execMonCheckDone (op : OpId) (res : List MonCheckRes) (s : State) : Out :=
  .next (onRunning s op 0x7C fun _ d =>
    let ns := ixs 32 fun n => (wd d 2).getLsbD n.val
    if s.dram.mon.contains op && res.map (·.dps) == ns &&
        res.all fun r => checkCodes (s.dps[r.dps]).mon r then
      let rs := res.map fun r => monResult s d r
      let failed := (rs.filter fun r => !r.2).length
      let s := hostWrite s (wd64 d 4) (bytesOf (rs.flatMap (·.1)))
      let s := ns.foldl (fun s n => if tripTested s d n then blankDps s n else s) s
      let s := finishOp s op (if failed = 0 then stOk else stPartial)
        [BitVec.ofNat 32 failed, BitVec.ofNat 32 ns.length]
      leaveMon s op
    else s)

/-- A MON_CHECK that may have DPSn's trip path open is in progress (R332). -/
def tripPathOpen (s : State) (n : Fin 32) : Bool :=
  s.dram.mon.any fun id =>
    match op? s id with
    | some o => opcodeOf o.cur == 0x7C && (wd o.cur 2).getLsbD n.val && tripTested s o.cur n
    | none => false

/-- The output of DPSn crosses a window, as the monitor's comparators see it: uV at the sense point, nA
sourced (R327). During a trip test it is left free whether the crossing falls into it. -/
def execWindowMonitorTrip (n : Fin 32) (vout iout : Int) (s : State) : Out :=
  let D := s.dps[n]
  let st := D.eng.st
  let acts : Bool := D.mon.en && !D.blanked && !D.tripped &&
    (st == .starting || st == .on || st == .stopping || st == .pendingOn)
  match monCause D vout iout with
  | none => .next s
  | some c =>
    if !acts then .next s
    else if tripPathOpen s n then
      let f := takeFree s 1
      .next (if f.1 = 1 then tripDps f.2 n c else f.2)
    else .next (tripDps s n c)

def execSenseLost (n : Fin 32) (s : State) : Out :=
  .next (modDps s n fun D =>
    let live : Bool := D.eng.st == .starting || D.eng.st == .on || D.eng.st == .stopping ||
      D.eng.st == .pendingOn
    if live && D.live.sense && !D.pkgSense then { D with pkgSense := true, senseLost := true } else D)

def execDpsDropout (n : Fin 32) (s : State) : Out :=
  .next (modDps s n fun D =>
    if D.eng.st == .starting || D.eng.st == .on || D.eng.st == .stopping || D.eng.st == .pendingOn then
      { D with dropout := true }
    else D)

def execDpsDropoutEnd (n : Fin 32) (s : State) : Out :=
  .next (modDps s n fun D => { D with dropout := false })

def execDpsDischarged (n : Fin 32) (s : State) : Out := .next (dpsDischarged s n)

def execOffWatchCrossing (n : Fin 32) (s : State) : Out :=
  let m := (s.dps[n]).mon
  if isOff s (.dps n) && m.en && m.offWatch && !(s.dps[n]).blanked then
    let s := if s.glb.pwr = .deepSleep then { s with glb := { s.glb with wakeNLow := true } } else s
    if s.pwr.evt.extV then .next s
    else
      let s := { s with pwr := { s.pwr with evt := { s.pwr.evt with extV := true } } }
      .next (postEq s (holder s (.dps n)) (mkEq s 0x000B n.val 0 0))
  else .next s

/-- Every DPS that is not OFF trips with a cause (R312, R334). -/
def tripAll (s : State) (cause : BitVec 4) : State :=
  (List.finRange 32).foldl (fun s n => if isOff s (.dps n) then s else tripDps s n cause) s

/-- A sample of the DUT power in mW, once every 10 us; the average runs over the last 100 (R334). -/
def execBudgetSample (mw : Nat) (s : State) : Out :=
  let xs := (mw :: s.pwr.samples).take 100
  let sum := xs.foldl (· + ·) 0
  let lim := s.pwr.limitMw.toNat
  let p := BitVec.ofNat 16 (min (sum / 100) 65535)
  let warn : Bool := decide (100 * sum > 90 * (100 * lim)) && s.pwr.warnArmed
  let armed : Bool := decide (100 * sum < 85 * (100 * lim)) || (s.pwr.warnArmed && !warn)
  let trip : Bool := decide (sum > 100 * lim)
  let evt := { s.pwr.evt with budgetWarn := s.pwr.evt.budgetWarn || warn,
                              budgetTrip := s.pwr.evt.budgetTrip || trip }
  let s := { s with pwr := { s.pwr with
    samples := xs, pMw := p, peakMw := if s.pwr.peakMw < p then p else s.pwr.peakMw,
    warnArmed := armed, evt := evt } }
  let s := if warn then postEq s none (mkEq s 0x000C 0 (p.setWidth 32) 0) else s
  .next (if trip then tripAll s 5 else s)

def execPsupCfg (op : OpId) (s : State) : Out :=
  .next (runDesc s op 0x7D fun s _ d =>
    let p : Fin 16 := Fin.ofNat 16 (bits (wd d 2) 3 0)
    let m : BitVec 64 := BitVec.ofNat 64 (wd64 d 4)
    let bad : Bool := (List.finRange 64).any fun k =>
      m.getLsbD k.val && (((s.plz[p]).chans[k]).mode != .pmuFv || ((s.plz[p]).chans[k]).leader.isSome)
    if bad then finishOp s op eArg []
    else
      let s := modPlz s p fun P => { P with psup := m, psupHold := max (bits (wd d 3) 15 0) 1 }
      finishOp s op stOk [])

/-- A channel leaves PMU force: MODE OFF, and the gang it leads dissolves (R122). -/
def dissolve (s : State) (p : Fin 16) (k : Fin 64) : State :=
  mapChans s p fun c ch =>
    if chIx c = k then { ch with mode := .off, gang := 0, leader := none }
    else if ch.leader = some k then parkChan s c { ch with mode := .off, gang := 0, leader := none }
    else ch

def execPsupTrip (c : Fin 1024) (s : State) : Out :=
  let p := chPlaza c
  let k := chIx c
  if (s.plz[p]).psup.getLsbD k.val && (getChan s c).mode == .pmuFv then
    let s := dissolve s p k
    let s := modChan s c fun ch => openChan { ch with hiz := true }
    let s := modPlz s p fun P => { P with psup := P.psup &&& ~~~(1#64 <<< k.val) }
    let s := { s with pwr := { s.pwr with evt := { s.pwr.evt with psupTrip := true } } }
    .next (postEq s (holder s (.plaza p)) (mkEq s 0x000D c.val 0 0))
  else .next s

end Sys2Proof.Machine
end

