-- ==== Sys2Proof/Machine/Thermal.lean ====
section
/-! DEFINITION. Temperature: sensors, die temperatures and rates, bands, levels and limits
(13_calibration_thermal, R379 to R384; 04_timing, R149). -/

namespace Sys2Proof.Machine

/-- The sensors of die d (Table CAL-9). -/
def sensorsOf (d : Fin 10) : List (Fin 32) :=
  if d.val < 8 then [Fin.ofNat 32 (3 * d.val), Fin.ofNat 32 (3 * d.val + 1), Fin.ofNat 32 (3 * d.val + 2)]
  else if d.val = 8 then [24, 25, 26, 27] else [28, 29, 30, 31]

/-- Die d is sampled (Table CAL-9): a PE die while it is powered, in ACTIVE, IDLE and on the way there (R36), the
others always. -/
def sampled (s : State) (d : Fin 10) : Bool :=
  if h : d.val < 8 then
    peGood s ⟨d.val, h⟩ &&
      (match s.glb.pwr with
       | .active | .idle => true
       | .standby | .deepReq => s.glb.busy && s.glb.target == .active
       | _ => false)
  else true

/-! ### Excluding sensors (R380) -/

/-- Twice the median of some readings, given in rising order: of two middle ones, their sum. -/
def median2 (xs : List Int) : Int :=
  let n := xs.length
  if n % 2 = 1 then 2 * xs.getD (n / 2) 0 else xs.getD (n / 2 - 1) 0 + xs.getD (n / 2) 0

/-- A reading put into its place in rising order. -/
def insertInt (x : Int) : List Int → List Int
  | [] => [x]
  | y :: r => if x ≤ y then x :: y :: r else y :: insertInt x r

def sortInt (xs : List Int) : List Int := xs.foldr insertInt []

/-- Twice the distance of sensor i's reading from the median of the others; 0 where it is alone. -/
def awayBy (ts : List (Fin 32 × Int)) (i : Fin 32 × Int) : Nat :=
  let others := (ts.filter fun x => x.1 != i.1).map (·.2)
  if others.isEmpty then 0 else (2 * i.2 - median2 (sortInt others)).natAbs

/-- The sensors that lie farthest from the median of the others, by more than 10 degC, leave; then those
that remain are looked at again. -/
def keepNear : Nat → List (Fin 32 × Int) → List (Fin 32 × Int)
  | 0, ts => ts
  | n + 1, ts =>
    let far := (ts.map (awayBy ts)).foldl max 0
    if far ≤ 2000 then ts else keepNear n (ts.filter fun x => awayBy ts x < far)

/-- The sensors of a die that are good at a sample, with their readings. -/
def goodOf (s : State) (rs : List Int) (d : Fin 10) : List (Fin 32 × Int) :=
  let ts := ((sensorsOf d).filter fun i => !s.thm.excl[i]).map fun i => (i, rs.getD i.val 0)
  keepNear 4 (ts.filter fun x => -4000 ≤ x.2 && x.2 ≤ 15000)

/-- A sensor is excluded: THM_BAD and one SENSOR_BAD record. -/
def excludeSensor (s : State) (i : Fin 32) (x : Int) : State :=
  let s := { s with thm := { s.thm with bad := s.thm.bad.set i true, excl := s.thm.excl.set i true,
                                         t := s.thm.t.set i none } }
  postEq s none (mkEq s 0x000E i.val (w32 x) 0)

/-! ### Die temperature, rate and band (R381, R149) -/

/-- The die temperature in 1/600 degC: the mean of a PE die's good sensors, the highest of another's. -/
def dieTemp (d : Fin 10) (ts : List (Fin 32 × Int)) : Option Int :=
  match ts with
  | [] => none
  | x :: r =>
    if d.val < 8 then some (6 * ((ts.map (·.2)).sum) / (ts.length : Int))
    else some (6 * (r.map (·.2)).foldl max x.2)

/-- The slope over 11 samples of 1 ms, newest first, times 110 x 600 / 1000 (degC/s). -/
def slope (h : List Int) : Int := ((h.take 11).mapIdx fun j t => (5 - (j : Int)) * t).sum

/-- The rate is at or above c / 10 degC/s; false while it is not evaluated. -/
def rateReaches (h : List Int) (c : Int) : Bool :=
  11 ≤ h.length && decide (slope h * 10000 ≥ c * (110 * 600))

/-- The target band that follows band b at t (1/600 degC): up past B + 1, down past B - 1. -/
def bandUp : Nat → Nat → Int → Nat
  | 0, b, _ => b
  | n + 1, b, t => if b < 7 && decide (t ≥ 600 * (31 + 10 * (b : Int))) then bandUp n (b + 1) t else b

def bandDown : Nat → Int → Nat
  | 0, _ => 0
  | b + 1, t => if t ≤ 600 * (29 + 10 * (b : Int)) then bandDown b t else b + 1

/-- The target band of a die at t (R149). -/
def nextBand (b : Option (Fin 8)) (t : Int) : Fin 8 :=
  match b with
  | none => Fin.ofNat 8 (clampInt 0 7 ((t - 600 * 20).fdiv 6000)).toNat
  | some b => Fin.ofNat 8 (bandDown (bandUp 8 b.val t) t)

/-! ### Levels (R382, R383) -/

/-- The class of a die (Table CAL-10). -/
def dieClass (d : Fin 10) : Fin 3 := if d.val < 8 then 0 else if d.val = 8 then 1 else 2

/-- t is at or above l degC. -/
def tempReaches (t : Int) (l : Nat) : Bool := decide (t ≥ 600 * (l : Int))

/-- t is at least 3 degC below l degC. -/
def tempBelow (t : Int) (l : Nat) : Bool := decide (t ≤ 600 * ((l : Int) - 3))

/-- Whether warn, throttle and trip are reached; without two good sensors, all (R381). -/
def levels3 (lim : ThmLim) (few : Bool) (h : List Int) : Bool × Bool × Bool :=
  let t := h.headD 0
  (few || tempReaches t lim.warn.toNat || rateReaches h 20,
   few || tempReaches t lim.throttle.toNat || rateReaches h 50,
   few || tempReaches t lim.trip.toNat || rateReaches h 100)

/-- The clear condition of warn, and of throttle and trip (Table CAL-11). -/
def warnClears (lim : ThmLim) (few : Bool) (h : List Int) : Bool :=
  !few && !h.isEmpty && tempBelow (h.headD 0) lim.warn.toNat && !rateReaches h 10

def throttleClears (lim : ThmLim) (few : Bool) (h : List Int) : Bool :=
  !few && !h.isEmpty && tempBelow (h.headD 0) lim.throttle.toNat && !rateReaches h 25

/-- Fewer than two of a die's sensors are good. -/
def fewGood (s : State) (d : Fin 10) : Bool :=
  ((sensorsOf d).filter fun i => !s.thm.excl[i]).length < 2

/-- The hottest good sensor of a die at the last sample, the lowest index of equals. -/
def hottest (s : State) (d : Fin 10) : Nat :=
  let go := (sensorsOf d).foldl (fun (a : Nat × Option Int) i =>
    match s.thm.t[i], a.2 with
    | none, _ => a
    | some t, none => (i.val, some t)
    | some t, some m => if m < t then (i.val, some t) else a) (((sensorsOf d).headD 0).val, none)
  go.1

def modDie (s : State) (d : Fin 10) (f : Die → Die) : State :=
  { s with thm := { s.thm with dies := upd s.thm.dies d f } }

/-- Every engine that a die serves (R383). -/
def servedBy (d : Fin 10) : List Eng := allEngs.filter fun e => (diesOf e).contains d

/-- The trip of a die: every served engine to FAULT, and the report (R383). In DEEP SLEEP no engine is
powered. -/
def tripDie (s : State) (d : Fin 10) : State :=
  if s.glb.pwr = .deepSleep then s
  else
    let es := servedBy d
    let s := faultMany s (es.map fun e => (e, fcThermal)) eAborted fun e => !es.contains e
    report s (150 + d.val) fcThermal

/-- The levels of die d after a sample: what is newly reached acts, what has cleared clears. A trip raises the one
record THERMAL_TRIP (Table CAL-12); warn and throttle each raise theirs. -/
def levelDie (s : State) (d : Fin 10) : State :=
  let lim := s.thm.lims[dieClass d]
  let D := s.thm.dies[d]
  let few := fewGood s d
  let (w, th, tr) := levels3 lim few D.hist
  let trip := D.trip || tr
  let throttle := trip || th || (D.throttle && !throttleClears lim few D.hist)
  let warn := throttle || w || (D.warn && !warnClears lim few D.hist)
  let s := modDie s d fun D => { D with warn := warn, throttle := throttle, trip := trip }
  let s := if warn && !D.warn then fire s 0x85 (hottest s d) else s
  let s := if s.glb.pwr == .deepSleep && warn && !D.warn &&
      (few || tempReaches (D.hist.headD 0) lim.warn.toNat)
    then { s with glb := { s.glb with wakeNLow := true } } else s
  let rec_ (c : BitVec 16) (s : State) : State :=
    postEq s none (mkEq s c d.val (w32 (D.temp.getD (-32768))) (w32 D.rate))
  if trip && !D.trip then rec_ 0x0011 (tripDie s d)
  else
    let s := if warn && !D.warn then rec_ 0x000F s else s
    if throttle && !D.throttle then rec_ 0x0010 s else s

/-! ### A sample -/

/-- Die d after its sensors are read: exclusions, temperature, rate, band. -/
def sampleDie (s : State) (rs : List Int) (d : Fin 10) : State :=
  let good := goodOf s rs d
  let s := (sensorsOf d).foldl (fun s i =>
    if s.thm.excl[i] then s
    else if good.any fun x => x.1 == i then
      { s with thm := { s.thm with t := s.thm.t.set i (some (rs.getD i.val 0)) } }
    else excludeSensor s i (rs.getD i.val 0)) s
  match dieTemp d good with
  | none => modDie s d fun D => { D with temp := none, hist := [], rate := 0 }
  | some t =>
    let h : List Int := if s.glb.pwr == .deepSleep then [t] else (t :: (s.thm.dies[d]).hist).take 11
    let past := (t :: (s.thm.dies[d]).past).take 11
    let a := openDiv s t 6
    let b := openDiv a.2 (slope h * 100000) (110 * 600)
    let r : Int := if 11 ≤ h.length then clampInt (-32768) 32767 b.1 else 0
    let s := if 11 ≤ h.length then b.2 else a.2
    let s := { s with cal := { s.cal with
      running := s.cal.running.map fun j => if calDie j.key = d then j.see t else j } }
    modDie s d fun D => { D with temp := some a.1, rate := r, hist := h, past := past,
                                 band := if d.val < 8 then some (nextBand D.band t) else none }

/-- A die that is not sampled has no readings; its sampling starts afresh, and its own register stands
(R380, R381, R439). -/
def unsampled (s : State) (d : Fin 10) : State :=
  let s := (sensorsOf d).foldl (fun s i =>
    { s with thm := { s.thm with t := s.thm.t.set i none } }) s
  modDie s d fun D => { D with hist := [], past := [], band := none }

/-- Every die of a list by its state; then its levels. -/
def execThermalSample (readings : List Int) (s : State) : Out :=
  .next (
    if inReset s then s
    else
      let (on, off) := (List.finRange 10).partition (sampled s)
      let s := off.foldl unsampled s
      let s := on.foldl (fun s d => sampleDie s readings d) s
      let s := (List.finRange 16).foldl (fun s p =>
        if on.contains (Fin.ofNat 10 (p.val / 2)) then bandMoved s p else s) s
      on.foldl levelDie s)

/-- TRIP of die d clears once its condition has held for 1 s (Table CAL-11). -/
def execThermalTripClear (d : Fin 10) (s : State) : Out :=
  .next (
    let lim := s.thm.lims[dieClass d]
    let D := s.thm.dies[d]
    let few := fewGood s d
    if D.trip && throttleClears lim few D.hist then
      modDie s d fun D => { D with trip := false, throttle := false,
                                   warn := D.warn && !warnClears lim few D.hist }
    else s)

/-- The highest trip that can be set (Table CAL-10). -/
def thmCeil (c : Fin 3) : Nat := if c = 2 then 130 else 110

/-- A valid write of THM_LIM applies; another sets LIM_BAD (R384). -/
def writeThmLim (s : State) (c : Fin 3) (w : Word) : State :=
  let l : ThmLim := { warn := BitVec.ofNat 8 (bits w 7 0), throttle := BitVec.ofNat 8 (bits w 15 8),
                      trip := BitVec.ofNat 8 (bits w 23 16) }
  if l.warn < l.throttle && l.throttle < l.trip && l.trip.toNat ≤ thmCeil c then
    { s with thm := { s.thm with lims := s.thm.lims.set c l } }
  else { s with thm := { s.thm with limBad := true } }

def execThmLimWrite (c : Fin 3) (w : Word) (s : State) : Out :=
  .next (if barsOn s then writeThmLim s c w else s)

end Sys2Proof.Machine
end

