-- ==== Sys2Proof/Machine/Boot.lean ====
section
/-! DEFINITION. The commands of start-up, input power, rails, clocks and die links (01_architecture, R18 to R32;
11_power, R309 to R314; 15_boot_security_recovery, R413 to R418). -/

namespace Sys2Proof.Machine

/-! ### Input power (R310, R311, R413) -/

/-- VIN is good: the rails come up; REFSEL is sampled as VLICH becomes good (R30). -/
def powerUp (s : State) (sample : Bool) (refsel : Bool) : State :=
  if s.glb.por && !s.glb.vinGood then
    let r : Bool := if sample then refsel else s.glb.refsel
    bringUp { s with glb := { s.glb with vinGood := true, refsel := r } }
  else s

/-- VIN crosses the start threshold; REFSEL is sampled only where VLICH comes up (R30). -/
def execColdStart (refsel : Bool) (s : State) : Out := .next (powerUp s (!railGood s .vlich) refsel)

/-- REFSEL is sampled again only where the Lichen domain was lost. -/
def execVinRestored (refsel : Bool) (s : State) : Out :=
  .next (powerUp s (!railGood s .vlich) refsel)

/-- VIN leaves its range: every output opens, the rails go down, power-on reset (R310, R311). -/
def vinFails (s : State) (f : PwrEvt → PwrEvt) : State :=
  if s.glb.vinGood then
    let t := porNow s true
    { t with pwr := { t.pwr with evt := f t.pwr.evt } }
  else s

def execVinUndervoltage (s : State) : Out :=
  .next (vinFails s fun e => { e with brownout := true })

def execVinOvervoltage (s : State) : Out :=
  .next (vinFails s fun e => { e with vinOvSeen := true })

def execLichenPowerLoss (s : State) : Out := .next (porNow s false)

/-- VIN and the average input current over 100 us (R312). -/
def execVinSample (vin10mV : BitVec 16) (iavgMA : Nat) (s : State) : Out :=
  .next (
    if s.glb.por || s.glb.perst || s.glb.pwr == .deepSleep then s
    else
      let s := reparkDps { s with pwr := { s.pwr with vin := vin10mV } }
      if 15000 < iavgMA then
        tripAll { s with pwr := { s.pwr with evt := { s.pwr.evt with vinOc := true } } } 6
      else s)

/-! ### Rails (R313, R314) -/

def execRailGood (r : Rail) (s : State) : Out :=
  .next (
    if s.pwr.starting.contains r then
      let s := setRail s r true
      railsEnded (resume { s with pwr := { s.pwr with starting := s.pwr.starting.filter (· != r) } })
    else s)

/-- The rail and every rail after it stay off, until the next reset. -/
def execRailStartTimeout (r : Rail) (s : State) : Out :=
  .next (
    if s.pwr.starting.contains r then
      railsEnded { s with pwr := { s.pwr with
          starting := s.pwr.starting.filter (· != r), seqStopped := true,
          evt := { s.pwr.evt with railFault := true } } }
    else s)

/-- The engines of PE die n (R314). -/
def dieEngs (n : Fin 8) : List Eng :=
  allEngs.filter fun e =>
    match e with
    | .plaza p => peOf p == n
    | .awg p => peOf p == n
    | .dg p => peOf p == n
    | .tmu m => peOf (tmuPlaza m) == n
    | _ => false

/-- Every output switch of PE die n opens, whatever the park modes (R314). -/
def openDie (s : State) (n : Fin 8) : State :=
  (List.finRange 16).foldl (fun s p =>
    if peOf p = n then
      modAwg (mapChans s p fun _ ch => openChan ch) p fun A => { A with sAwg := false }
    else s) s

/-- A rail of PE die n fails in operation: its engines go to FAULT, its outputs open, and its sensors are not
sampled any more. -/
def peRailFails (s : State) (n : Fin 8) : State :=
  unsampled (openDie (faultMany s ((dieEngs n).map fun e => (e, fcPeRail)) eAborted fun _ => true) n)
    (Fin.ofNat 10 n.val)

def execRailOutOfTolerance (r : Rail) (s : State) : Out :=
  .next (
    if railGood s r && !s.glb.por && !perstHolds s then
      match r with
      | .vped n => peRailFails (setRail s r false) n
      | .vpep n => peRailFails (setRail s r false) n
      | .vpen n => peRailFails (setRail s r false) n
      | _ => selfReset s .rail
    else s)

/-! ### Clocks and die links (R18, R32) -/

/-- The PLLs lock: power-on reset ends and the straps are sampled (R20, R401, R413). -/
def execPllLock (chipid : BitVec 6) (psChain : Bool) (s : State) : Out :=
  .next (
    if s.glb.vinGood && !s.glb.lock && coreUp s && s.glb.pwr != .deepSleep then
      let s := if s.glb.por then
          { s with glb := { s.glb with por := false, chipid := chipid, psChain := psChain } }
        else s
      resume { s with glb := { s.glb with lock := true } }
    else s)

/-- A PLL loses lock: in ACTIVE and IDLE every engine but port M goes to FAULT, and its outputs park. -/
def execPllLockLoss (s : State) : Out :=
  .next (
    if s.glb.lock then
      let s := { s with glb := { s.glb with lock := false, lockLost := true } }
      if (s.glb.pwr == .active || s.glb.pwr == .idle) && !s.glb.perst && !s.glb.por then
        faultMany (report s 149 fcPllLock)
          ((allEngs.filter (· != .portM)).map fun e => (e, fcPllLock)) eAborted fun _ => false
      else s
    else s)

/-- The engines that a failure of die link n sends to FAULT: the Plazas and AWGs of its die (R18, R285). -/
def linkEngs (n : Fin 8) : List Eng :=
  let a : Fin 16 := ⟨2 * n.val, by omega⟩
  let b : Fin 16 := ⟨2 * n.val + 1, by omega⟩
  [.plaza a, .plaza b, .awg a, .awg b]

/-- A flit of die link n fails its CRC while the die is powered; the failure reports at Plaza 2n (R18, R285,
R427). -/
def execDieLinkCrcFail (n : Fin 8) (s : State) : Out :=
  .next (
    if peGood s n && s.glb.lock && !s.glb.por && !s.glb.perst then
      faultMany (report s (2 * n.val) fcDieLink) ((linkEngs n).map fun e => (e, fcDieLink)) eAborted
        fun e => !(linkEngs n).contains e
    else s)

/-! ### The boot (R414 to R418) -/

def execPerstNAssert (s : State) : Out :=
  .next (
    if s.glb.perst then s
    else if s.glb.pwr = .deepSleep then { s with glb := { s.glb with perst := true } }
    else perstNow s)

/-- PERST_N is deasserted: the straps are sampled and the boot runs, or a W1024 in DEEP SLEEP wakes (R38). -/
def execPerstNDeassert (chipid : BitVec 6) (psChain : Bool) (s : State) : Out :=
  .next (
    if s.glb.perst then
      let s := { s with glb := { s.glb with perst := false } }
      if s.glb.por then s
      else
        let s := { s with glb := { s.glb with chipid := chipid, psChain := psChain } }
        if s.glb.pwr = .deepSleep then wakeNow s else resume s
    else s)

/-- The firmware declares itself RUNNING, which it does only once every powered PE die has been sampled (R150). -/
def execFirmwareRunning (s : State) : Out :=
  .next (
    match s.boot.stage with
    | .fwInit => if peSampled s then fwRunning s else s
    | .restarting => { s with boot := { s.boot with stage := .running } }
    | _ => s)

/-- A manifest's 80 ms are over (step 7 of Table BOOT-4). -/
def execBootManifestTimeout (s : State) : Out :=
  .next (
    if s.boot.stage = .rom ∨ s.boot.stage = .fwLoad ∨ s.boot.stage = .fwInit then
      if s.boot.trying = 2 then recover { s with boot := { s.boot with failS := 7 } }
      else
        let p := { s.patch with st := 1 }
        bootTry { s with patch := p, boot := { s.boot with failP := 7, trying := 2 } }
    else s)

/-- The 20 ms of the patch load are over (step 10 of Table UCS-5). -/
def execPatchLoadTimeout (s : State) : Out :=
  .next (
    if s.boot.stage = .fwInit && s.patch.st == 1 && numAt s.boot.runMan 0x14 4 != 0 then failPatch s 9 else s)

end Sys2Proof.Machine
end

