-- ==== Sys2Proof/Machine/Seq.lean ====
section
/-! DEFINITION. The sequencer's descriptors: programs, segments and slots, runs and jump requests, site
data, mask groups, hold vector, slot query (05_sequencer, R160 to R164, R182 to R198). -/

namespace Sys2Proof.Machine

/-- The Plaza in word 2 of a descriptor. -/
def plzIx (d : List Word) : Fin 16 := Fin.ofNat 16 (bits (wd d 2) 3 0)

/-- A run is armed or in progress on the Plaza or on the leader of its link set (R196, R197). -/
def runBusy (s : State) (p : Fin 16) : Bool :=
  (s.plz[p]).run.phase != .none || (s.plz[leaderOf s p]).run.phase != .none

/-- SEG_COUNT is committed (R161), by the first transfer that is not refused (R12, R68). -/
def commitSegs (s : State) : State := { s with dram := { s.dram with committed := true } }

/-! ### Program images (R167, R196, Table SEQ-10) -/

/-- The bits of an instruction that Table SEQ-3 names, by OP. -/
def instrMask (o : Nat) : Nat :=
  let op := 0x1F * 2 ^ 59
  let cond := 7 * 2 ^ 56
  let vaddr := (2 ^ 31 - 1) * 2 ^ 24
  match o with
  | 1 => op + vaddr + (2 ^ 24 - 1)
  | 2 => op + vaddr + (2 ^ 24 - 1)
  | 3 => op + (2 ^ 59 - 2)
  | 4 => op + 0xFFFF
  | 5 => op + 0xFFFF
  | 7 => op + 0xFFFF
  | 8 => op + cond + 0xFFFF
  | 9 => op + cond + vaddr + (2 ^ 24 - 1)
  | 10 => op + cond + vaddr + 7
  | 11 => op + 0xFF
  | 12 => op + 0x1_7FFF
  | 13 => op + 0xFFFF
  | _ => op

/-- Fields of a LOOP. -/
def loopCount (i : BitVec 64) : Nat := bits i 58 35
def loopEnd (i : BitVec 64) : Nat := bits i 34 19
def loopLen (i : BitVec 64) : Nat := bits i 18 13
def loopPtr (i : BitVec 64) : Nat := bits i 12 1
/-- VADDR, COUNT or TMO, COND or SRC of an instruction. -/
def iVaddr (i : BitVec 64) : Nat := bits i 54 24
def iCount (i : BitVec 64) : Nat := bits i 23 0
def iCond (i : BitVec 64) : Nat := bits i 58 56
/-- TARGET or START of an instruction. -/
def iTarget (i : BitVec 64) : BitVec 16 := BitVec.ofNat 16 (bits i 15 0)

/-- One instruction of a program passes the checks of R196 that concern it and its pair. -/
def instrOk (segCount nsset : Nat) (prog : List (BitVec 64)) (a : Nat) (i : BitVec 64) : Bool :=
  let n := prog.length
  let o := opOf i
  let seg (v : Nat) : Bool := decide (v / 2048 < segCount)
  decide (1 ≤ o && o ≤ 15) && i.toNat &&& instrMask o == i.toNat &&
    (match o with
     | 1 => seg (iVaddr i + iCount i)
     | 2 => seg (iVaddr i)
     | 3 =>
       let e := loopEnd i
       let j := prog.getD e 0
       decide (e < n) && decide (a < e) && opOf j == 4 && bits j 15 0 == a &&
         decide (1 ≤ loopLen i && loopLen i ≤ 60) && decide (loopPtr i + loopLen i ≤ nsset)
     | 4 =>
       let b := bits i 15 0
       let j := prog.getD b 0
       decide (b < n) && opOf j == 3 && loopEnd j == a
     | 5 => decide (bits i 15 0 < n)
     | 7 => decide (bits i 15 0 < n)
     | 8 => decide (bits i 15 0 < n) && decide (iCond i < 6)
     | 9 => seg (iVaddr i) && decide (iCond i < 6)
     | 10 => seg (iVaddr i) && decide (iCond i < 3)
     | _ => true)

/-- The LOOPs of a program as (address, END). -/
def loopPairs (prog : List (BitVec 64)) : List (Nat × Nat) :=
  (prog.zipIdx.filter fun x => opOf x.1 == 3).map fun x => (x.2, loopEnd x.1)

/-- Body of (a, e), the addresses a + 1 to e, lies in that of (b, f). -/
def within (x y : Nat × Nat) : Bool := decide (y.1 ≤ x.1) && decide (x.2 ≤ y.2)

/-- Two loop bodies nest or lie apart. -/
def nests (x y : Nat × Nat) : Bool :=
  within x y || within y x || decide (x.2 ≤ y.1) || decide (y.2 ≤ x.1)

/-- The image of Table SEQ-10: instructions and segment-set table, if it passes every check of R196. -/
def parseImage (segCount len : Nat) (bs : List Byte) : Option (List (BitVec 64) × List Word) :=
  let n := numAt bs 4 4
  let k := numAt bs 8 4
  if numAt bs 0 4 ≠ 1 ∨ n = 0 ∨ 65536 < n ∨ 4096 < k ∨ numAt bs 12 52 ≠ 0 ∨
      len ≠ 64 + 8 * n + 4 * k then none
  else
    let prog := (List.range n).map fun i => BitVec.ofNat 64 (numAt bs (64 + 8 * i) 8)
    let sset := (List.range k).map fun i => BitVec.ofNat 32 (numAt bs (64 + 8 * n + 4 * i) 4)
    let pairs := loopPairs prog
    if (prog.zipIdx.all fun x => instrOk segCount k prog x.2 x.1) &&
        (pairs.all fun x => pairs.all (nests x)) &&
        (pairs.all fun x => decide ((pairs.filter (within x)).length ≤ 8)) &&
        (sset.all fun w => decide (w.toNat < segCount)) then some (prog, sset)
    else none

def execSeqLoad (op : OpId) (s : State) : Out :=
  .next (runDesc s op 0x12 fun s _ d =>
    let m := BitVec.ofNat 16 (bits (wd d 2) 15 0)
    let len := bits (wd d 6) 19 0
    let img := parseImage s.dram.segCount len (hostRead s (wd64 d 4) len)
    if (plazasOf m).any (runBusy s) then finishOp s op eArg []
    else
      match img with
      | none => finishOp s op eArg []
      | some (prog, sset) =>
        let s := commitSegs s
        let s := (plazasOf m).foldl (fun s p =>
          modSeq s p fun q => { q with imem := prog, sset := sset }) s
        finishOp s op stOk [m.setWidth 32])

/-! ### Segments and slots (R161, R182, R183, R198) -/

/-- Segment g is resident in, or being filled into, a slot of some Plaza. -/
def segHeld (s : State) (g : Nat) : Bool :=
  (List.finRange 16).any fun p => (List.finRange 64).any fun n =>
    let sl := (s.plz[p]).seq.slots[n]
    sl.seg == some g || sl.filling.map (·.1) == some g

def execSegWrite (op : OpId) (s : State) : Out :=
  .next (runDesc s op 0x13 fun s _ d =>
    let g := bits (wd d 2) 19 0
    let n := bits (wd d 3) 10 0
    if s.dram.segCount < g + n then finishOp s op eArg []
    else if (List.range n).any fun i => segHeld s (g + i) then finishOp s op eResidency []
    else
      let s := commitSegs s
      let s := dramWrite s (81920 * g) (hostRead s (wd64 d 4) (81920 * n))
      finishOp s op stOk [BitVec.ofNat 32 n])

/-- SEG_FILL. DESIGN CHOICE (R198 shows the segment of a fill "in progress" and does not say whether one that waits
behind another on the Plaza's fill engine is, notes/assumptions/253.md): it is, from the moment its row runs. -/
def execSegFill (op : OpId) (s : State) : Out :=
  .next (runDesc s op 0x14 fun s _ d =>
    let p := plzIx d
    let n : Fin 64 := Fin.ofNat 64 (bits (wd d 2) 13 8)
    let g := bits (wd d 3) 19 0
    let P := s.plz[p]
    let elsewhere : Bool := (List.finRange 64).any fun k => k != n &&
      (P.seq.slots[k].seg == some g || P.seq.slots[k].filling.map (·.1) == some g)
    if slotActive P n then finishOp s op eResidency []
    else if s.dram.segCount ≤ g || elsewhere then finishOp s op eArg []
    else
      let old := (P.seq.slots[n].seg).getD 0xFFFFF
      let s := modOp (commitSegs s) op fun o => { o with aux := old }
      modSeq s p fun q =>
        { q with slots := upd q.slots n fun sl => { filling := some (g, op), data := sl.data },
                 fillQ := q.fillQ ++ [(n, op)] })

/-- A microword ends: the next one, or the dispatch word of the next instruction, follows (R202, R209). -/
def endUword (s : State) (p : Fin 16) (h : UHdr) : State :=
  modUc s p fun u =>
    { u with wait := none, need := none, busy := !h.last, count := u.count + 1, uaddr := u.uaddr + 1,
             cycles := u.cycles + (h.clen.val + 1) }

/-- The control store goes on with an issue that had to wait, and with the microword that issues
(R184, R203). -/
def goOn (s : State) (p : Fin 16) : State :=
  if (s.plz[p]).run.issue.isNone then s
  else
    let s := issueAll s p
    match (s.plz[p]).run.issue, (s.plz[p]).uc.wait with
    | none, some h => endUword s p h
    | _, _ => s

/-- The fill engine of Plaza p ends the oldest fill, that of this slot (R182, R199). A later SEG_FILL that has
taken the slot meanwhile is the one whose segment becomes resident; this one then ends with OK all the same
(notes/assumptions/218.md). -/
def execSegFillDone (p : PlazaIx) (slot : Fin 64) (s : State) : Out :=
  .next (
    let q := (s.plz[p]).seq
    match q.fillQ with
    | [] => s
    | (n, id) :: rest =>
      if n ≠ slot then s
      else
        let s := modSeq s p fun q => { q with fillQ := rest }
        let s := match q.slots[n].filling with
          | some (g, o) =>
            if o = id then
              let sl : Slot :=
                { seg := some g, data := Mem.writeBytes 0 [] 0 (dramRead s (81920 * g) 81920) }
              modSeq s p fun q => { q with slots := q.slots.set n sl }
            else s
          | none => s
        let s := goOn s p
        finishOp s id stOk [BitVec.ofNat 32 (((op? s id).map (·.aux)).getD 0xFFFFF)])

/-- The entry of a slot in SLOT_QUERY (R198). -/
def slotEntry (P : Plaza) (n : Fin 64) : List Byte :=
  let sl := P.seq.slots[n]
  let g : Nat := match sl.seg, sl.filling with
    | some g, _ => g
    | none, some (g, _) => g
    | none, none => 0xFFFFF
  let locked : Bool := match sl.seg with | some g => segLocked P g | none => false
  leBytes 4 g ++
    leBytes 4 (8 * b2n sl.filling.isSome + 4 * b2n locked + 2 * b2n (slotActive P n) +
      b2n sl.seg.isSome)

def execSlotQuery (op : OpId) (s : State) : Out :=
  .next (runDesc s op 0x1A fun s _ d =>
    let P := s.plz[plzIx d]
    let s := hostWrite s (wd64 d 4) ((List.finRange 64).flatMap (slotEntry P))
    finishOp s op stOk [])

/-! ### Runs and jump requests (R188, R189, R192) -/

def execSeqRun (op : OpId) (s : State) : Out :=
  .next (runDesc s op 0x15 fun s _ d =>
    let p := plzIx d
    if !runAllowed s p d then finishOp s op eArg []
    else if (s.plz[p]).run.phase = .none && (s.plz[p]).runQ.isEmpty then armRun s p op d
    else modPlz s p fun P => { P with runQ := enqueue s op P.runQ })

def execSeqJump (op : OpId) (s : State) : Out :=
  .next (runDesc s op 0x16 fun s _ d =>
    let p := plzIx d
    let P := s.plz[p]
    let t := bits (wd d 3) 15 0
    if P.run.phase = .none || P.cfg.linked || P.seq.imem.length ≤ t then finishOp s op eArg []
    else requestJump s p (BitVec.ofNat 16 t) (some op))

/-! ### Site data, mask groups, hold vector (R160, R164, R197) -/

def execSitedataLoad (op : OpId) (s : State) : Out :=
  .next (runDesc s op 0x17 fun s _ d =>
    let p := plzIx d
    let first := bits (wd d 2) 15 12
    let num := bits (wd d 2) 11 8
    let n := bits (wd d 3) 12 0
    if runBusy s p || sitesOf s p ≤ first + num then finishOp s op eArg []
    else
      let s := (List.range (num + 1)).foldl (fun (s : State) (i : Nat) =>
        let bs := hostRead s (wd64 d 4 + 4096 * i) n
        modSeq s p fun q =>
          { q with site := upd q.site (Fin.ofNat 16 (first + i)) fun m => Mem.writeBytes 0 m 0 bs }) s
      finishOp s op stOk [])

/-- MASK_LOAD: group i stands at bytes 8i to 8i + 7, little-endian (notes/assumptions/243.md). -/
def execMaskLoad (op : OpId) (s : State) : Out :=
  .next (runDesc s op 0x18 fun s _ d =>
    let p := plzIx d
    let bs := hostRead s (wd64 d 4) 128
    let g : Vector (BitVec 64) 16 :=
      updAll (s.plz[p]).seq.masks fun i _ => BitVec.ofNat 64 (numAt bs (8 * i.val) 8)
    if runBusy s p || (List.finRange 16).any fun i => 2 ^ widthOf s p ≤ g[i].toNat then
      finishOp s op eArg []
    else finishOp (modSeq s p fun q => { q with masks := g }) op stOk [])

def execHoldLoad (op : OpId) (s : State) : Out :=
  .next (runDesc s op 0x19 fun s _ d =>
    let v := BitVec.ofNat 320 (leNat (hostRead s (wd64 d 4) 40))
    finishOp (modSeq s (plzIx d) fun q => { q with holdVec := v }) op stOk [])

end Sys2Proof.Machine
end

