-- ==== Sys2Proof/Machine/Timing.lean ====
section
/-! DEFINITION. The timing commands: timing sets, deskew tables, quiet points, the band-hold time
(04_timing, R138 to R156). -/

namespace Sys2Proof.Machine

/-! ### Timing sets (R138, R140, R143) -/

/-- Column entry k of a timing set table (Table TIM-5). -/
def tsCol (bs : List Byte) (k : Nat) : TCol :=
  let w (i : Nat) : Nat := numAt bs (16 + 32 * k + 4 * i) 4
  { don := w 0, dat := w 1, ret := w 2, doff := w 3, sopn := w 4, scls := w 5,
    win := (w 6).testBit 4, dfmt := w 6 % 8 }

/-- Reserved bits of column entry k are 0 and DFMT is valid (Table TIM-5). -/
def tsRsv (bs : List Byte) (k : Nat) : Bool :=
  let w (i : Nat) : Nat := numAt bs (16 + 32 * k + 4 * i) 4
  ((List.range 6).all fun i => decide (w i < 2 ^ 25)) && w 6 &&& 0x17 == w 6 && w 7 == 0 &&
    decide (w 6 % 8 < 4)

/-- The constraints of R138 on a column entry. -/
def TCol.ok (p : Nat) (ddm : Bool) (c : TCol) : Bool :=
  decide (c.don ≤ c.dat && c.dat + 1 ≤ p && c.doff + 1 ≤ p) &&
    (!(c.dfmt == 0 && !ddm) || c.ret == 0) &&
    (!(c.dfmt != 0 || ddm) || decide (c.dat + 625 ≤ c.ret && c.ret + 1 ≤ p && c.ret + 625 ≤ c.dat + p)) &&
    (c.dfmt != 3 || c.don == c.dat || decide (c.don + 625 ≤ c.dat)) && (!ddm || c.dfmt == 0) &&
    (if c.win then decide (c.sopn + 400 ≤ c.scls && c.scls ≤ c.sopn + p && c.scls + 1 ≤ 2 * p)
     else decide (c.sopn + 1 ≤ 2 * p) && c.scls == 0)

/-- A timing set table of length len passes R138 and R140 on Plaza p. -/
def tsOk (s : State) (bs : List Byte) (len : Nat) (p : Fin 16) : Bool :=
  let w := widthOf s p
  let per := numAt bs 4 4
  let ddm : Bool := numAt bs 8 4 == 1
  len == 16 + 32 * w && numAt bs 0 4 == at_ 16 w + 1 && decide (1250 ≤ per && per < 2 ^ 24) &&
    decide (numAt bs 8 4 < 2) && numAt bs 12 4 == 0 &&
    ((List.range w).all fun k => tsRsv bs k && (tsCol bs k).ok per ddm)

/-- The timing set of a table. A table has entries for the columns below W only (R140); the columns above it take the
defaults of R141, which a site made wider later would use (notes/assumptions/247.md). -/
def tsSet (bs : List Byte) (w : Nat) : TSet :=
  { period := numAt bs 4 4, ddm := numAt bs 8 4 == 1,
    cols := updAll (Vector.replicate 64 ({} : TCol)) fun k c => if k.val < w then tsCol bs k.val else c }

/-- Plaza p takes a staged load at once or waits for a quiet point (R143). -/
def stageTs (s : State) (p : Fin 16) (x : Staged) : State :=
  if quietThroughout s p || (s.plz[p]).cfg.linked then applyStaged s p x
  else modTim s p fun t => { t with staged := t.staged ++ [x] }

def execTsLoad (op : OpId) (s : State) : Out :=
  .next (runDesc s op 0x30 fun s _ d =>
    let ps := plazasOf (BitVec.ofNat 16 (bits (wd d 2) 15 0))
    let i : Fin 64 := Fin.ofNat 64 (bits (wd d 3) 5 0)
    let len := bits (wd d 6) 11 0
    let bs := hostRead s (wd64 d 4) len
    if ps.all (tsOk s bs len) then
      endStaged (ps.foldl (fun s p => stageTs s p (.ts i (tsSet bs (widthOf s p)) op)) s) op
    else finishOp s op eArg [])

/-! ### Deskew (R147, R148) -/

/-- The deskew entry of channel i in a table (Table TIM-7). -/
def dskEnt (bs : List Byte) (i : Nat) : Dsk :=
  let h (k : Nat) : Int := sgn 16 (numAt bs (16 + 8 * i + 2 * k) 2)
  { r := h 0, f := h 1, z := h 2, s := h 3 }

/-- The limits of R147 on an entry. -/
def Dsk.ok (e : Dsk) : Bool :=
  ([e.r, e.f, e.z, e.s].all fun x => decide (x.natAbs ≤ 10000)) &&
    decide ((e.r - e.f).natAbs ≤ 200 && (e.r - e.z).natAbs ≤ 200 && (e.f - e.z).natAbs ≤ 200)

/-- A deskew table passes R147. -/
def dskOk (bs : List Byte) : Bool :=
  numAt bs 0 16 == 1 && (List.range 64).all fun i => (dskEnt bs i).ok

/-- The table of some bytes. -/
def dskTab (bs : List Byte) : Vector Dsk 64 :=
  updAll (Vector.replicate 64 ({} : Dsk)) fun i _ => dskEnt bs i.val

/-- The bytes of a held table (Table TIM-7). -/
def dskBytes (t : Vector Dsk 64) : List Byte :=
  let h (x : Int) : List Byte := leBytes 2 (BitVec.ofInt 16 x).toNat
  leBytes 16 1 ++ (List.finRange 64).flatMap fun i => h t[i].r ++ h t[i].f ++ h t[i].z ++ h t[i].s

/-- Plaza p takes a deskew table at once, or at its next quiet point where the band is the applied one
(R148). -/
def stageDsk (s : State) (p : Fin 16) (b : Fin 8) (x : Staged) : State :=
  if quietThroughout s p || (s.plz[p]).tim.applied != b then applyStaged s p x
  else modTim s p fun t => { t with staged := t.staged ++ [x] }

def execDskLoad (op : OpId) (s : State) : Out :=
  .next (runDesc s op 0x31 fun s _ d =>
    let b : Fin 8 := Fin.ofNat 8 (bits (wd d 3) 2 0)
    let bs := hostRead s (wd64 d 4) 528
    if bits (wd d 6) 11 0 = 528 && dskOk bs then
      endStaged (stageDsk s (plzIx d) b (.dsk b (dskTab bs) op none)) op
    else finishOp s op eArg [])

def execDskRead (op : OpId) (s : State) : Out :=
  .next (runDesc s op 0x32 fun s _ d =>
    let t := ((s.plz[plzIx d]).tim.dsk)[Fin.ofNat 8 (bits (wd d 3) 2 0)]
    finishOp (hostWrite s (wd64 d 4) (dskBytes t)) op stOk [])

/-! ### Quiet points and bands (R144, R150, R151) -/

/-- A quiet point that no other command brings: the Plaza that leads is OFF or in FAULT, or a run stands at
the cycle start of its first vector (R144). -/
def execQuietPoint (p : PlazaIx) (s : State) : Out :=
  .next (
    let l := leaderOf s p
    let r := (s.plz[l]).run
    if quietThroughout s l || (r.phase == .running && r.cyc == 0) then quietSet s l else s)

def execBandHoldExpiry (p : PlazaIx) (s : State) : Out :=
  .next (
    let t := (s.plz[p]).tim
    let b := targetBand s p
    if b = t.applied ∨ t.stale then s
    else postEq (modTim s p fun t => { t with stale := true }) (holder s (.plaza p))
      (mkEq s 0x0003 p.val (BitVec.ofNat 32 b.val) 0))

end Sys2Proof.Machine
end

