-- ==== Sys2Proof/Machine/Cal.lean ====
section
/-! DEFINITION. The calibration commands: procedures, loading and reading sets, and the writing of the park
store (13_calibration_thermal, R366 to R378; 03_pin_channels, R126, R127). -/

namespace Sys2Proof.Machine

/-! ### Limits (Table CAL-6) -/

/-- Limits of one quantity: of GERR in 10^-5, of O in hundredths of its unit, first absolute, then of a
change. -/
structure CalLim where
  g  : Nat
  o  : Nat
  dg : Nat
  do_ : Nat

/-- Limits for voltages of the pins and of the DPS. -/
def limVolt : CalLim := { g := 500, o := 20000000, dg := 50, do_ := 2000000 }

/-- Limits that scale with a full scale: 1 % of it is o hundredths of a unit. -/
def limScale (o : Nat) : CalLim := { g := 1000, o := o, dg := 100, do_ := o / 10 }

/-- Full scale of digitizer range r in uV (R248). -/
def digFs (r : Nat) : Nat :=
  match r with
  | 0 => 500000
  | 1 => 2000000
  | _ => 5000000

/-- The limits of entry i of a set; none for entries with a form of their own. -/
def calLim (k : CalKey) (i : Nat) : Option CalLim :=
  match k with
  | .chDc _ =>
    let q := i % 22
    if q = 21 then none
    else if q = 5 || q = 6 then some { g := 2000, o := 2000000000, dg := 200, do_ := 200000000 }
    else if 10 ≤ q && q ≤ 19 then some (limScale (100 * pmuScale (q % 5)))
    else some limVolt
  | .deskew _ _ => none
  | .dig _ => some (limScale (10 * digFs i))
  | .awg _ => some (limScale (10 * if i < 3 then awgFs i else awgOffsetScale))
  | .dps _ =>
    if i = 0 || i = 7 then some limVolt
    else if i ≤ 6 then some (limScale (100 * dpsScale (i - 1)))
    else if i ≤ 13 then some (limScale (100 * dpsScale (i - 8)))
    else if i = 14 then some { g := 2000, o := 40000000, dg := 200, do_ := 4000000 }
    else
      let r := dpsScale (i - 15)
      some { g := 2000, o := 200 * r, dg := 200, do_ := 20 * r }
  | .mon _ => some { g := 200, o := 5000000, dg := 20, do_ := 500000 }

/-- A gain difference lies within g 10^-5. -/
def gainIn (g : Nat) (x : Int) : Bool := decide (x.natAbs * 100000 ≤ g * 2 ^ 31)

/-- An offset difference lies within o hundredths of a unit. -/
def offIn (o : Nat) (x : Int) : Bool := decide (x.natAbs * 100 ≤ o)

/-- The deskew entry that two words hold (Table TIM-7). -/
def dskOfWords (e : Word × Word) : Dsk :=
  { r := sgn 16 (bits e.1 15 0), f := sgn 16 (bits e.1 31 16),
    z := sgn 16 (bits e.2 15 0), s := sgn 16 (bits e.2 31 16) }

/-- The two words of a deskew entry. -/
def wordsOfDsk (e : Dsk) : Word × Word :=
  let h (x : Int) : BitVec 16 := BitVec.ofInt 16 x
  (h e.f ++ h e.r, h e.s ++ h e.z)

/-- Check code 1 or 2 of an entry against the absolute limits, 0 where it passes (Tables CAL-6, CAL-7). -/
def absCheck (k : CalKey) (i : Nat) (e : Word × Word) : Nat :=
  match calLim k i with
  | some l => if !gainIn l.g e.1.toInt then 1 else if !offIn l.o e.2.toInt then 2 else 0
  | none =>
    match k with
    | .deskew _ _ => if (dskOfWords e).ok then 0 else 2
    | _ =>
      let d := dwOf e
      if 150 ≤ d.1 && d.1 ≤ 400 && 150 ≤ d.2 && d.2 ≤ 400 then 0 else 2

/-- |a - b|. -/
def natDist (a b : Nat) : Nat := (a - b) + (b - a)

/-- The entry passes the change limits against the current one. -/
def changeOk (k : CalKey) (i : Nat) (old new : Word × Word) : Bool :=
  match calLim k i with
  | some l => gainIn l.dg (new.1.toInt - old.1.toInt) && offIn l.do_ (new.2.toInt - old.2.toInt)
  | none =>
    match k with
    | .deskew _ _ =>
      let a := dskOfWords old
      let b := dskOfWords new
      decide ((a.r - b.r).natAbs ≤ 50 && (a.f - b.f).natAbs ≤ 50 && (a.z - b.z).natAbs ≤ 50 &&
        (a.s - b.s).natAbs ≤ 50)
    | _ => natDist (dwOf old).1 (dwOf new).1 ≤ 50 && natDist (dwOf old).2 (dwOf new).2 ≤ 50

/-- The current entry i of a set; a DESKEW set's is that of the held table (R367). -/
def curEntry (s : State) (k : CalKey) (i : Nat) : Word × Word :=
  match k with
  | .deskew p b => wordsOfDsk (((s.plz[p]).tim.dsk[b])[Fin.ofNat 64 i])
  | _ => calEntry s k i

/-! ### Claims (R373, R377) -/

/-- The resources of which one must be held to act on a set. -/
def calRes : CalKey → List Res
  | .chDc p => [.plaza p]
  | .deskew p _ => [.plaza p]
  | .dig p => [.plaza p]
  | .awg p => [.plaza p]
  | .dps n => [.dps n]
  | .mon n => [.plaza (Fin.ofNat 16 (2 * n.val)), .plaza (Fin.ofNat 16 (2 * n.val + 1))]

/-- The claim of a set by a context: none where it holds one of them. -/
def calClaim (s : State) (c : CtxId) (k : CalKey) : Option (BitVec 8) :=
  let hs := (calRes k).map (holder s)
  if hs.any (· == some c) then none
  else if hs.any (·.isSome) then some eOwned
  else some eArg

/-! ### CAL_RUN (R373 to R376) -/

/-- Declared REF_IN in uV: 0 acts as 5,000,000 (Table CAL-5). -/
def refinOf (d : List Word) : Nat := if wd d 3 = 0 then 5000000 else (wd d 3).toNat

/-- The fields of a CAL_RUN are valid. -/
def calRunFields (k : CalKey) (d : List Word) : Bool :=
  (match k with
   | .deskew _ _ => true
   | _ => 4990000 ≤ refinOf d && refinOf d ≤ 5010000)

def execCalRun (op : OpId) (s : State) : Out :=
  .next (runDesc s op 0x80 fun s _ d =>
    match calNamed d with
    | none => finishOp s op eArg []
    | some k =>
      if calRunFields k d && calPrereq s k && calRefOk s k then queueMon s op
      else finishOp s op eArg [])

/-- Check code of each entry of a procedure's set, 0 where it passes (R375). -/
def entryChecks (s : State) (k : CalKey) (step : Bool) (es : List (Word × Word)) : List Nat :=
  es.mapIdx fun i e =>
    let a := absCheck k i e
    if a != 0 then a else if step || changeOk k i (curEntry s k i) e then 0 else 3

/-- round(a / b), halves upward, of a divisor that is not 0. -/
def roundQuot (a b : Int) : Int := if 0 < b then roundUp a b.toNat else roundUp (-a) (-b).toNat

/-- A signed 32-bit word, at the nearest limit where x lies outside. -/
def calWord (x : Int) : Word := w32 (clampInt (-(2 ^ 31)) (2 ^ 31 - 1) x)

/-- GERR and O of two points: with Y = aX + b, G = 1 / a and O = -b / a (R374). Readings that do not differ
give no gain, and GERR its limit (notes/assumptions/227.md). -/
def fitPoints (x1 y1 x2 y2 : Int) : Word × Word :=
  let dy := y2 - y1
  if dy = 0 then (calWord (2 ^ 31), 0)
  else (calWord (roundQuot ((x2 - x1 - dy) * 2 ^ 31) dy), calWord (roundQuot (x1 * y2 - x2 * y1) dy))

/-- The narrowest pulse, of 150 ps, 160 ps to 400 ps, that counted on 16 of 16 tries (R374); 65,535 where none
did. -/
def widthOfCounts (ns : List Nat) : Nat :=
  let i := (ns.take 26).findIdx (· == 16)
  if i < (ns.take 26).length then 150 + 10 * i else 65535

/-- The span of a source in the unit of O of its entry (R105, R106, R316, Tables PIN-3, PWR-6; notes/assumptions/237.md):
its ends, or for an AWG its full scale from 0. -/
def sourceSpan (s : State) (k : CalKey) (i : Nat) : Option (Int × Int) :=
  let volts (c : BitVec 3) : Option (Int × Int) := (spanRange c).map fun r => (10 * r.1, 10 * r.2)
  match k with
  | .chDc p =>
    let n := (s.plz[p]).pin
    let q := i % 22
    if q ≤ 1 then volts n.drvSpan
    else if q ≤ 3 then volts n.cmpSpan
    else if q = 4 then volts n.vtSpan
    else if q ≤ 6 then some (0, 2560000000)
    else if q ≤ 8 then volts n.clampSpan
    else if q = 9 then volts n.fvSpan
    else if q ≤ 14 then
      let r : Int := 125 * pmuScale (q - 10)
      some (-r, r)
    else none
  | .awg _ => some (0, 10 * if i < 3 then awgFs i else awgOffsetScale)
  | .dps _ =>
    if i = 0 || i = 14 then some (0, 163840000)
    else if i ≤ 6 then some (0, 125 * dpsScale (i - 1))
    else if 15 ≤ i then some (0, 125 * dpsScale (i - 15))
    else none
  | _ => none

/-- The entry's unit is 0.1 uV, so that the monitor ADC's own set corrects its readings (R368). -/
def inVolts (k : CalKey) (i : Nat) : Bool :=
  match k with
  | .chDc _ => !(5 ≤ i % 22 && i % 22 ≤ 6 || 10 ≤ i % 22 && i % 22 ≤ 19)
  | .dps _ => i == 0 || i == 7 || i == 14
  | _ => true

/-- The monitor ADC that measures a set (Table CAL-1). -/
def monOfKey : CalKey → Fin 8
  | .chDc p => peOf p
  | .deskew p _ => peOf p
  | .dig p => peOf p
  | .awg p => peOf p
  | .dps n => Fin.ofNat 8 (n.val / 4)
  | .mon n => n

/-- The entry of a set that a measurement makes, where the entry is measured so (R374, Table CAL-3): a source at
10 % and 90 % of its span, a converter against the monitor ADC, a monitor ADC against the declared REF_IN. -/
def entryOf (s : State) (k : CalKey) (d : List Word) (i : Nat) (m : CalMeas) : Option (Word × Word) :=
  let calD (x : Int) : Int := clampInt (-32768) 32767 (8000 - x)
  let adc (x : Int) : Int := if inVolts k i then monRead s (monOfKey k) x else x
  match k, m with
  | .deskew _ _, .delays r f z s => some (wordsOfDsk ⟨calD r, calD f, calD z, calD s⟩)
  | .deskew _ _, _ => none
  | .mon _, .reference y1 y2 => some (fitPoints 0 y1 (10 * refinOf d) y2)
  | .mon _, _ => none
  | .chDc _, .widths h l =>
    if i % 22 = 21 then some (BitVec.ofNat 32 (widthOfCounts h + at_ 16 (widthOfCounts l)), 0) else none
  | _, .source y1 y2 =>
    (sourceSpan s k i).map fun (lo, hi) =>
      fitPoints (lo + (hi - lo) / 10) (adc y1) (lo + 9 * (hi - lo) / 10) (adc y2)
  | _, .converter x1 y1 x2 y2 =>
    if (sourceSpan s k i).isSome || (match k with | .chDc _ => i % 22 == 21 | _ => false) then none
    else some (fitPoints (adc x1) y1 (adc x2) y2)
  | _, _ => none

/-- The entries that a procedure makes, where it measured every one. -/
def calEntries (s : State) (k : CalKey) (d : List Word) (r : CalRes) : Option (List (Word × Word)) :=
  if r.meas.length = calNent k then (r.meas.mapIdx fun i m => entryOf s k d i m).mapM id else none

/-- The die temperature moved by more than 2 degC while a procedure ran. -/
def CalJob.moved (j : CalJob) : Bool :=
  match j.span with
  | none => false
  | some (a, b) => decide (2 * 600 < b - a)

/-- Check 5: REF_IN, as the monitor ADC under its set read it, lies more than 0.2 % from REFIN_UV or below 4.5 V
(Table CAL-7, R368, R455). -/
def refBad (s : State) (k : CalKey) (d : List Word) (r : CalRes) : Bool :=
  match k with
  | .deskew _ _ => false
  | _ =>
    let y := monRead s (monOfKey k) (10 * r.refin)
    decide ((y - 10 * refinOf d).natAbs * 500 > 10 * refinOf d) || decide (y < 45000000)

/-- Check code 6 or 7 of a procedure, 0 where it passes (Table CAL-7). -/
def procCheck (j : CalJob) (r : CalRes) : Nat := if r.spreadBad then 6 else if j.moved then 7 else 0

/-- The check code of a procedure whose entries have these codes, 0 where it passes (R375, R376): without its
reference the procedure fails under check 5, whatever the entries (R455; notes/assumptions/182.md). -/
def checkCode (s : State) (j : CalJob) (d : List Word) (r : CalRes) (cs : List Nat) : Nat :=
  if refBad s j.key d r then 5
  else if cs.all (· == 0) then procCheck j r
  else cs.getD (cs.findIdx (· != 0)) 0

/-- The set that a procedure makes of some entries. -/
def newSet (s : State) (k : CalKey) (d : List Word) (es : List (Word × Word)) : CalSet :=
  let dsk : Bool := match k with | .deskew _ _ => true | _ => false
  { key := k, loaded := false, count := min ((calSet s k).count + 1) (2 ^ 32 - 1),
    wall := BitVec.ofNat 64 (wd64 d 4), tick := s.now,
    temp := w32 ((s.thm.dies[calDie k]).temp.getD (-32768)),
    refin := if dsk then 0 else BitVec.ofNat 32 (refinOf d),
    spans := (match k with
      | .chDc p =>
        let n := (s.plz[p]).pin
        n.fvSpan ++ n.clampSpan ++ n.vtSpan ++ n.cmpSpan ++ n.drvSpan
      | _ => 0),
    entries := if dsk then [] else es }

/-- A set is put in force: a DESKEW set through its Plaza's held table (R148, R372). -/
def putSet (s : State) (c : CalSet) (es : List (Word × Word)) (id : OpId) : State :=
  match c.key with
  | .deskew p b =>
    let tab := updAll (Vector.replicate 64 ({} : Dsk)) fun i _ => dskOfWords (es.getD i.val (0, 0))
    stageDsk s p b (.dsk b tab id (some c))
  | _ => setCal s c

/-- A procedure ends: accepted or rejected as a whole (R376). -/
def execCalRunDone (op : OpId) (res : CalRes) (s : State) : Out :=
  .next (onRunning s op 0x80 fun _ d =>
    match s.cal.running.find? fun r => r.op == op with
    | none => s
    | some j =>
      let k := j.key
      match calEntries s k d res with
      | none => s
      | some es =>
        let cs := entryChecks s k ((wd d 2).getLsbD 31 || (calSet s k).count == 0) es
        let n := (cs.filter (· != 0)).length
        let first := cs.findIdx (· != 0)
        let code := checkCode s j d res cs
        if code = 0 then
          let c := newSet s k d es
          let s := putSet s c es op
          leaveMon (finishOp s op stOk [BitVec.ofNat 32 c.count, 0xFFFF, 0]) op
        else
          let s := { s with cal := { s.cal with
            rejected := true, check := BitVec.ofNat 3 code, kind := BitVec.ofNat 8 (calKind k),
            index := BitVec.ofNat 6 (calIndex k) } }
          let w5 := at_ 16 n + (if n = 0 then 0xFFFF else first)
          leaveMon (finishOp s op eCalReject
            [BitVec.ofNat 32 (calSet s k).count, BitVec.ofNat 32 w5, BitVec.ofNat 32 code]) op)

/-! ### CAL_LOAD and CAL_READ (R369, R377) -/

/-- Entry i of an image. -/
def imgEntry (bs : List Byte) (i : Nat) : Word × Word :=
  (BitVec.ofNat 32 (numAt bs (64 + 8 * i) 4), BitVec.ofNat 32 (numAt bs (68 + 8 * i) 4))

/-- The set an image names, where its header is well formed (Table CAL-4). -/
def imgKey (bs : List Byte) (len : Nat) : Option CalKey :=
  let w (i : Nat) : Word := BitVec.ofNat 32 (numAt bs (4 * i) 4)
  match calKeyOf (bits (w 0) 23 16) (bits (w 1) 5 0) (bits (w 1) 18 16) with
  | none => none
  | some k =>
    if bits (w 0) 31 24 = 0 && bits (w 0) 15 0 = 1 && bits (w 1) 30 19 = 0 && bits (w 1) 15 6 = 0 &&
        (w 3).toNat = calNent k && bits (w 10) 31 15 = 0 && numAt bs 44 20 = 0 &&
        (calKind k != 1 || w 9 == 0) && (calKind k == 0 || w 10 == 0) &&
        len = 64 + 8 * calNent k then some k
    else none

/-- The reserved bits of the entries are 0 (R368). -/
def imgRsv (k : CalKey) (es : List (Word × Word)) : Bool :=
  match k with
  | .chDc _ => (List.range 64).all fun c => (es.getD (22 * c + 21) (0, 0)).2 == 0
  | _ => true

/-- The set that an image makes, loaded now. -/
def imgSet (s : State) (k : CalKey) (bs : List Byte) (es : List (Word × Word)) : CalSet :=
  { key := k, loaded := true, count := numAt bs 8 4, wall := BitVec.ofNat 64 (numAt bs 16 8),
    tick := s.now, temp := BitVec.ofNat 32 (numAt bs 32 4), refin := BitVec.ofNat 32 (numAt bs 36 4),
    spans := BitVec.ofNat 15 (numAt bs 40 4),
    entries := (match k with | .deskew _ _ => [] | _ => es) }

def execCalLoad (op : OpId) (s : State) : Out :=
  .next (runDesc s op 0x81 fun s o d =>
    let len := (wd d 6).toNat
    let bs := hostRead s (wd64 d 4) (min len 16384)
    match imgKey bs len with
    | none => finishOp s op eArg [0xFFFF]
    | some k =>
      let es := (List.range (calNent k)).map (imgEntry bs)
      match (if imgRsv k es then calClaim s o.ctx k else some eArg) with
      | some st => finishOp s op st [0xFFFF]
      | none =>
        if s.cal.running.any (fun r => r.key == k) then finishOp s op eArg [0xFFFF]
        else
          let cs := es.mapIdx fun i e => absCheck k i e
          if cs.any (· != 0) then
            finishOp s op eCalReject [BitVec.ofNat 32 (cs.findIdx (· != 0))]
          else
            let s := putSet s (imgSet s k bs es) es op
            endStaged s op)

/-- The image of a set (Tables CAL-3 and CAL-4). -/
def setImage (s : State) (k : CalKey) : List Byte :=
  let c := calSet s k
  let es := (List.range (calNent k)).map (curEntry s k)
  let w1 := at_ 31 (b2n c.loaded) + at_ 16 (calBand k) + calIndex k
  leBytes 4 (at_ 16 (calKind k) + 1) ++ leBytes 4 w1 ++ leBytes 4 c.count ++ leBytes 4 (calNent k) ++
    bvBytes 8 c.wall ++ bvBytes 8 c.tick ++ bvBytes 4 c.temp ++ bvBytes 4 c.refin ++
    leBytes 4 c.spans.toNat ++ List.replicate 20 0 ++ bytesOf (es.flatMap fun e => [e.1, e.2])

def execCalRead (op : OpId) (s : State) : Out :=
  .next (runDesc s op 0x82 fun s _ d =>
    match calNamed d with
    | none => finishOp s op eArg []
    | some k => finishOp (hostWrite s (wd64 d 4) (setImage s k)) op stOk [])

/-! ### PARK_WRITE (R126, R127, R378) -/

/-- The canonical image of 4,096 bytes. -/
def parkImage (bs : List Byte) : Mem := Mem.writeBytes 0 [] 0 bs

def execParkWrite (op : OpId) (s : State) : Out :=
  .next (runDesc s op 0x83 fun s o d =>
    let img := parkImage (hostRead s (wd64 d 4) 4096)
    if o.ctx = 0 && parkGood img && s.park.writes < 1000 then
      let s := { s with park := { s.park with image := img, writes := s.park.writes + 1, stands := false } }
      finishOp s op stOk [BitVec.ofNat 32 s.park.writes]
    else finishOp s op eArg [])

end Sys2Proof.Machine
end

