-- ==== Sys2Proof/Machine/Capture.lean ====
section
/-! DEFINITION. The capture commands: set-ups and triggers, records going into their rings, measurements on
records, mask tests, test steps and verdicts (07_capture_verdicts, R224 to R241). -/

namespace Sys2Proof.Machine

/-! ### Set-ups (R224, R229) -/

/-- A run is in progress on the Plaza that leads p. -/
def runOn (s : State) (p : Fin 16) : Bool := (s.plz[leaderOf s p]).run.on

/-- Ring n is attached to context c with a type. -/
def ringIs (s : State) (n : RingId) (c : CtxId) (t : RingTy) : Bool :=
  match ring? s n with
  | some r => r.ctx == c && r.ty == t
  | none => false

/-- The set-up of Table CAP-3. -/
def capCfgOf (d : List Word) : CapCfg :=
  { mqEn := (wd d 3).getLsbD 31, mq := bits (wd d 3) 30 16, fqEn := (wd d 3).getLsbD 15,
    fq := bits (wd d 3) 14 0, cmode := bits (wd d 4) 2 0, failLimit := bits (wd d 5) 15 0,
    mfSuppr := (wd d 6).getLsbD 26, mfSites := bits (wd d 6) 24 16, mfWindow := bits (wd d 6) 15 0,
    post := bits (wd d 7) 31 16, pre := bits (wd d 7) 11 0 }

def execCapCfg (op : OpId) (s : State) : Out :=
  .next (runDesc s op 0x40 fun s o d =>
    let ps := plazasOf (BitVec.ofNat 16 (bits (wd d 2) 15 0))
    let c := capCfgOf d
    if ps.isEmpty || 3 < c.cmode || 256 < c.mfSites || (c.fqEn && !ringIs s c.fq o.ctx .fq) ||
        (c.mqEn && !ringIs s c.mq o.ctx .mq) then finishOp s op eArg []
    else
      let s := ps.foldl (fun s p =>
        let on := runOn s p
        modCap s p fun x => { x with next := c, cur := if on then x.cur else c }) s
      finishOp s op stOk [])

/-- The trigger of Table CAP-7. -/
def trigOf (d : List Word) : TrigCfg :=
  { enable := (wd d 2).getLsbD 8, occur := bits (wd d 3) 23 0, any := (wd d 4).getLsbD 31,
    site := bits (wd d 4) 5 0, window := (wd d 5).getLsbD 1, event := (wd d 5).getLsbD 0,
    pattern := BitVec.ofNat 128 (wd64 d 8 + wd64 d 10 * 2 ^ 64) }

/-- The arguments of a TRIG_LOAD are in range (R229). -/
def trigArgs (s : State) (d : List Word) : Bool :=
  let p : Fin 16 := Fin.ofNat 16 (bits (wd d 2) 3 0)
  let t := trigOf d
  (t.any || t.site < sitesOf s p) &&
    (List.range 64).all fun k => k < widthOf s p || bits t.pattern (2 * k + 1) (2 * k) == 2

def execTrigLoad (op : OpId) (s : State) : Out :=
  .next (runDesc s op 0x41 fun s _ d =>
    if trigArgs s d then
      finishOp (modCap s (Fin.ofNat 16 (bits (wd d 2) 3 0)) fun c => { c with trigNext := trigOf d }) op stOk []
    else finishOp s op eArg [])

/-! ### Records into their rings (R228, R240) -/

/-- The oldest FQ record of Plaza p goes into its ring, where it has room (R228). -/
def execFqRecordWrite (p : PlazaIx) (s : State) : Out :=
  .next (
    match (s.plz[p]).cap.buf with
    | [] => s
    | r :: rest =>
      match ring? s r.ring with
      | none => s
      | some q =>
        if q.full then s
        else
          let ws := fqWords s p r
          let s := ringPut (modCap s p fun c => { c with buf := rest }) r.ring ws true
          fqFlush s p 4080)

/-- The oldest record that waits for an MQ goes into it, where it has room (R240). -/
def execMqRecordWrite (ring : RingId) (s : State) : Out :=
  .next (
    match s.mqPend.find? fun m => m.ring == ring, ring? s ring with
    | some m, some q =>
      if q.full then s
      else
        let ws := mqWords s m.rec_
        let s := ringPut { s with mqPend := s.mqPend.eraseP fun m => m.ring == ring } ring ws true
        let bad : Nat := b2n (m.rec_.typ == 0x11 && !(wd m.rec_.words 0).getLsbD 24)
        settleOp (modOp s m.op fun o => { o with count := o.count + 1, aux := o.aux + bad }) m.op
    | _, _ => s)

/-! ### Measurements on a record (R231 to R233) -/

/-- MIN and MAX of the samples. -/
def minOf (xs : List Int) : Int := xs.foldl min (xs.headD 0)
def maxOf (xs : List Int) : Int := xs.foldl max (xs.headD 0)

/-- Bin of a sample in the 256-bin histogram (Table CAP-9). -/
def binOf (lo hi x : Int) : Nat := min (((x - lo) * 256).toNat / max (hi - lo).toNat 1) 255

/-- The fullest of some bins, the first among equals. -/
def fullest (cnt : Nat → Nat) (bins : List Nat) : Nat :=
  bins.foldl (fun b i => if cnt i > cnt b then i else b) (bins.headD 0)

/-- TOP and BASE. -/
def topBase (xs : List Int) : Rat × Rat :=
  let lo := minOf xs
  let hi := maxOf xs
  if lo = hi then (lo, lo)
  else
    let bins := xs.map (binOf lo hi)
    let cnt (i : Nat) : Nat := bins.count i
    let centre (b : Nat) : Rat := lo + mkRat ((2 * b + 1) * (hi - lo)) 512
    (centre (fullest cnt ((List.range 128).map fun i => 255 - i)), centre (fullest cnt (List.range 128)))

/-- Time in sample intervals of a crossing of y between samples i and i + 1. -/
def crossAt (i : Nat) (a b : Int) (y : Rat) : Rat := i + (y - a) / ((b : Rat) - a)

def upCross (a b : Int) (y : Rat) : Bool := decide ((a : Rat) < y ∧ y ≤ b)
def downCross (a b : Int) (y : Rat) : Bool := decide ((a : Rat) > y ∧ y ≥ b)

/-- From the first crossing of level y to the next of level z the same way, with no crossing of y back
between (RISE; FALL with `dn`). -/
def edgeTime (dn : Bool) (y z : Rat) : List Int → Nat → Option Rat → Option Rat
  | a :: b :: r, i, cur =>
    let fwd := if dn then downCross a b else upCross a b
    let back := if dn then upCross a b else downCross a b
    let cur := if fwd y && cur.isNone then some (crossAt i a b y) else cur
    match cur with
    | some t =>
      if fwd z then some (crossAt i a b z - t)
      else edgeTime dn y z (b :: r) (i + 1) (if back y then none else some t)
    | none => edgeTime dn y z (b :: r) (i + 1) none
  | _, _, _ => none

/-- Counted upward crossings of L50 as (count, first, last) (PERIOD). -/
def periodScan (l10 l50 : Rat) : List Int → Nat → Bool → Nat × Rat × Rat → Nat × Rat × Rat
  | a :: b :: r, i, armed, acc =>
    let armed := armed || downCross a b l10
    if armed && upCross a b l50 then
      let t := crossAt i a b l50
      periodScan l10 l50 (b :: r) (i + 1) false (acc.1 + 1, if acc.1 = 0 then t else acc.2.1, t)
    else periodScan l10 l50 (b :: r) (i + 1) armed acc
  | _, _, _, acc => acc

/-- A rational rounded to the nearest integer, halves away from zero (R232). -/
def roundRat (q : Rat) : Int := divAway q.num q.den

/-- The measurement in bit b of Table CAP-9 over samples at an interval of delta ps; none: invalid. -/
def measure (b : Nat) (delta : Nat) (xs : List Int) : Option Int :=
  let n := xs.length
  let sum : Int := xs.foldl (· + ·) 0
  let tb := topBase xs
  let a := tb.1 - tb.2
  let l (k : Nat) : Rat := tb.2 + a * mkRat k 100
  let per : Option Rat :=
    let c := periodScan (l 10) (l 50) xs 0 true (0, 0, 0)
    if a = 0 || c.1 < 2 then none else some ((c.2.2 - c.2.1) / ((c.1 : Rat) - 1) * delta)
  if n = 0 then none
  else
    match b with
    | 0 => some (minOf xs)
    | 1 => some (maxOf xs)
    | 2 => some (divAway sum n)
    | 3 => some ((Nat.sqrt (4 * (xs.foldl (fun a x => a + x.natAbs ^ 2) 0) / n) + 1) / 2 : Nat)
    | 4 => some (roundRat tb.1)
    | 5 => some (roundRat tb.2)
    | 6 => some (roundRat a)
    | 7 => if a = 0 then none else (edgeTime false (l 10) (l 90) xs 0 none).map fun t => roundRat (t * delta)
    | 8 => if a = 0 then none else (edgeTime true (l 90) (l 10) xs 0 none).map fun t => roundRat (t * delta)
    | 9 => if a = 0 then none else some (roundRat (10000 * ((maxOf xs : Rat) - tb.1) / a))
    | 10 => per.map roundRat
    | 11 => match per with
      | some t => if t = 0 then none else some (roundRat (10 ^ 12 / t))
      | none => none
    | _ =>
      if n < 2 || delta = 0 then none
      else
        let sx : Int := (xs.zipIdx.foldl (fun a x => a + x.1 * x.2) 0)
        let si : Int := (List.range n).foldl (fun (a : Int) (i : Nat) => a + (i : Int)) 0
        let sii : Int := (List.range n).foldl (fun (a : Int) (i : Nat) => a + (i : Int) * i) 0
        some (roundRat (mkRat ((n * sx - si * sum) * 1000000) ((n * sii - si * si).toNat * delta)))

/-- The RECMEAS record of one measurement; the flag says that it is invalid (Table CAP-10). -/
def recMeasOne (s : State) (op : OpId) (seq site base : Nat) (h : Word) (delta : Nat) (xs : List Sample)
    (b : Nat) : State × Bool :=
  let v := measure b delta (xs.map (·.uv))
  let sat := sat32s (v.getD 0)
  let del := deliver s site (base + b) 1 seq (v.map fun _ => sat.1)
  let s := del.1
  let q : Fin 16 := Fin.ofNat 16 (site / 16)
  let w3 := at_ 12 (b2n del.2.2) + at_ 11 (b2n del.2.1) + at_ 10 (b2n sat.2) +
    at_ 9 (b2n (xs.any (·.ovr))) + at_ 8 (b2n v.isNone) + b
  let ws : List Word :=
    [w32 sat.1, BitVec.ofNat 32 w3, h, 0, 0, 0, 0, 0, 0, 0, s.now.setWidth 32, (s.now >>> 32).setWidth 32]
  (mqPost s (opMq s op q) op
    { typ := 0x12, hi := BitVec.ofNat 16 (base + b), plaza := q, site := site % 16,
      stale := (s.plz[q]).tim.stale, words := ws }, v.isNone)

def execRecMeas (op : OpId) (s : State) : Out :=
  .next (runDesc s op 0x44 fun s o d =>
    let site := bits (wd d 2) 7 0
    let meas := bits (wd d 3) 12 0
    let base := bits (wd d 4) 15 0
    let h := wd d 5
    let bs := (List.range 13).filter fun i => meas.testBit i
    match mqsBound o [Fin.ofNat 16 (site / 16)], recOf s o.ctx h with
    | true, some r =>
      match r.data with
      | .stamps _ => finishOp s op eArg []
      | .samples xs =>
        if meas = 0 || !r.complete || 65535 < base + bs.getLastD 0 then finishOp s op eArg []
        else
          let res := bs.foldl (fun (a : State × Nat) (b : Nat) =>
            let x := recMeasOne a.1 op o.seq site base h r.delta xs b
            (x.1, a.2 + b2n x.2)) (s, 0)
          endAfter res.1 op stOk [BitVec.ofNat 32 bs.length, BitVec.ofNat 32 res.2]
    | _, _ => finishOp s op eArg [])

/-! ### Mask tests (R234) -/

/-- The bounds of a mask table, if it passes R234. -/
def maskTable (bs : List Byte) (len : Nat) : Option (List (Int × Int)) :=
  let n := numAt bs 4 4
  if numAt bs 0 4 ≠ 1 ∨ n = 0 ∨ 65536 < n ∨ numAt bs 8 8 ≠ 0 ∨ len ≠ 16 + 8 * n then none
  else
    let es := (List.range n).map fun i =>
      (sgn 32 (numAt bs (16 + 8 * i) 4), sgn 32 (numAt bs (20 + 8 * i) 4))
    if es.any fun e => e.1 < e.2 then none else some es

/-- The site of a MASK_ARM lies in its Plaza (R234). -/
def maskSiteOk (s : State) (d : List Word) : Bool :=
  let p : Fin 16 := Fin.ofNat 16 (bits (wd d 2) 3 0)
  let site := bits (wd d 3) 23 16
  site / 16 == p.val && site % 16 < sitesOf s p

def execMaskArm (op : OpId) (s : State) : Out :=
  .next (runDesc s op 0x45 fun s o d =>
    let p : Fin 16 := Fin.ofNat 16 (bits (wd d 2) 3 0)
    let site := bits (wd d 3) 23 16
    let len := bits (wd d 6) 19 0
    match mqsBound o [p], maskTable (hostRead s (wd64 d 4) len) len with
    | true, some es =>
      if (s.dg[p]).mask.isSome || !maskSiteOk s d then finishOp s op eArg []
      else
        modDg s p fun D =>
          { D with mask := some { op := op, stop := (wd d 2).getLsbD 8, site := site,
                                  test := BitVec.ofNat 16 (bits (wd d 3) 15 0), bounds := es } }
    | _, _ => finishOp s op eArg [])

/-! ### Test steps (R235 to R239) -/

/-- Entry i of a limit table, if its reserved bits are 0 and its kind valid (Table CAP-13). -/
def limitEnt (bs : List Byte) (i : Nat) : Option Limit :=
  let w (k : Nat) : Nat := numAt bs (16 + 32 * i + 4 * k) 4
  let l : Limit :=
    { test := w 0 % 2 ^ 16, kind := w 0 / 2 ^ 16 % 4, loEn := (w 0).testBit 18, hiEn := (w 0).testBit 19,
      lo := sgn 32 (w 1), hi := sgn 32 (w 2), failHard := BitVec.ofNat 8 (w 3 / 2 ^ 16),
      failSoft := BitVec.ofNat 16 (w 3) }
  if w 0 < 2 ^ 20 ∧ l.kind < 3 ∧ w 3 < 2 ^ 24 ∧ numAt bs (16 + 32 * i + 16) 16 = 0 ∧
      !(l.loEn && l.hiEn && decide (l.hi < l.lo)) then some l else none

/-- The limit table of some bytes, if it passes R235. -/
def limitTable (bs : List Byte) (len : Nat) : Option (List Limit) :=
  let n := numAt bs 2 2
  if numAt bs 0 2 ≠ 1 ∨ n = 0 ∨ 1024 < n ∨ len ≠ 16 + 32 * n ∨ 2 ^ 24 ≤ numAt bs 4 4 ∨
      2 ^ 24 ≤ numAt bs 8 4 ∨ numAt bs 12 4 ≠ 0 then none
  else
    match (List.range n).mapM (limitEnt bs) with
    | none => none
    | some ls => if (ls.map (·.test)).eraseDups.length = n then some ls else none

def execStepOpen (op : OpId) (s : State) : Out :=
  .next (runDesc s op 0x42 fun s o d =>
    let m := BitVec.ofNat 16 (bits (wd d 2) 15 0)
    let ps := plazasOf m
    let grp : Bool := (wd d 2).getLsbD 16
    let len := bits (wd d 6) 15 0
    let bs := hostRead s (wd64 d 4) len
    let en := BitVec.ofNat 256 (leNat (bytesOf ((d.drop 7).take 8)))
    match limitTable bs len with
    | none => finishOp s op eArg []
    | some ls =>
      if ps.isEmpty || ps.any (fun p => (stepOf s p).isSome || (mqOf s p).isNone ||
          (grp && widthOf s p != 64)) then finishOp s op eArg []
      else
        let sites := ps.flatMap fun p =>
          ((List.range (sitesOf s p)).filter fun j => siteIn en p j).map fun j => 16 * p.val + j
        let t : TStep :=
          { num := BitVec.ofNat 16 (bits (wd d 3) 15 0), ctx := o.ctx, group := grp, plazas := m,
            since := s.nextZero, limits := ls, passHard := BitVec.ofNat 8 (numAt bs 6 1),
            passSoft := BitVec.ofNat 16 (numAt bs 4 2), noHard := BitVec.ofNat 8 (numAt bs 10 1),
            noSoft := BitVec.ofNat 16 (numAt bs 8 2), sites := sites.map fun n => { site := n } }
        finishOp { s with steps := s.steps ++ [t] } op stOk [])

def execStepClose (op : OpId) (s : State) : Out :=
  .next (runDesc s op 0x43 fun s o d =>
    let p : Fin 16 := Fin.ofNat 16 (bits (wd d 2) 3 0)
    match stepOf s p with
    | none => finishOp s op eArg []
    | some t =>
      if t.num ≠ BitVec.ofNat 16 (bits (wd d 3) 15 0) ∨ t.closing.isSome ∨ (closer s t).map (·.id) ≠ some o.id then
        finishOp s op eArg []
      else { s with steps := s.steps.map fun u => if u = t then { t with closing := some op } else u })

/-- A descriptor that can feed a step: it works on a Plaza of the step (R238). -/
def feedsDesc (s : State) (t : TStep) (d : List Word) : Bool :=
  let on (p : Fin 16) : Bool := t.plazas.getLsbD p.val
  let site (n : Nat) : Bool := on (Fin.ofNat 16 (n / 16))
  match opcodeOf d with
  | 0x15 => (setOf s (Fin.ofNat 16 (bits (wd d 2) 3 0))).any on
  | 0x44 => site (bits (wd d 2) 7 0)
  | 0x45 => site (bits (wd d 3) 23 16)
  | 0x50 => (pmuPlazas s d).any on
  | 0x54 => bits (wd d 3) 31 30 != 2 && site (bits (wd d 10) 7 0)
  | _ => false

/-- An operation that can feed a step is not yet over: it was dispatched before the step's STEP_CLOSE, and one
of its descriptors works on a Plaza of the step (R237, R238). -/
def feeds (s : State) (t : TStep) (o : Op) : Bool :=
  o.live && o.seq != 0 && beforeClose s t o.seq && o.descs.any (feedsDesc s t)

/-- What an entry comes to: it passes, fails for want of a value, or fails with the value to report. -/
inductive Verd where
  | pass | noVal (v : Int) | fail (v : Int)
  deriving DecidableEq, Repr

/-- The functional value of a site (R236). -/
def SiteStep.value (x : SiteStep) : Option Int := if x.runs = 0 then none else some x.fcount

/-- The value of an entry for a site (R238). -/
def entryVal (t : TStep) (l : Limit) (x : SiteStep) : Option Int :=
  if l.kind = 0 then x.value
  else (t.values.find? fun v => v.1 == l.test && v.2.1 == x.site).map (·.2.2)

/-- An entry on a value. -/
def judgeOne (l : Limit) : Option Int → Verd
  | none => .noVal 0
  | some v => if l.passes v then .pass else .fail v

/-- An entry on the members of a verdict: one site, or a group (R238, R239). -/
def judgeEntry (t : TStep) (xs : List SiteStep) (l : Limit) : Verd :=
  let vs := xs.map (entryVal t l)
  if l.kind = 0 then
    judgeOne l (if vs.any (·.isNone) then none else some (vs.foldl (fun a v => a + v.getD 0) 0))
  else
    let bad : Option Int := (vs.filterMap id).find? fun v => !l.passes v
    if vs.any (·.isNone) then .noVal (bad.getD 0)
    else match bad with
      | some v => .fail v
      | none => .pass

/-- The earlier of two first fails (R239). -/
def earlier (a b : Option (Nat × BitVec 48)) : Option (Nat × BitVec 48) :=
  match a, b with
  | some x, some y => if x.1 < y.1 ∨ (x.1 = y.1 ∧ x.2.toNat ≤ y.2.toNat) then some x else some y
  | some x, none => some x
  | none, y => y

/-- The VERDICT record of the members xs, and PASS (Table CAP-14). -/
def verdict (s : State) (t : TStep) (xs : List SiteStep) : MqRec × Bool :=
  let js := t.limits.map fun l => (l, judgeEntry t xs l)
  let bad := js.filter fun j => j.2 != .pass
  let noval : Bool := js.any fun j => match j.2 with | .noVal _ => true | _ => false
  let hard : BitVec 8 := match bad.head? with
    | none => t.passHard
    | some (_, .noVal _) => t.noHard
    | some (l, _) => l.failHard
  let soft : BitVec 16 := match bad.head? with
    | none => t.passSoft
    | some (_, .noVal _) => t.noSoft
    | some (l, _) => l.failSoft
  let value : Int := match bad.head? with
    | some (_, .fail v) => v
    | some (_, .noVal v) => v
    | _ => 0
  let site := (xs.map (·.site)).headD 0
  let q : Fin 16 := Fin.ofNat 16 (site / 16)
  let first := xs.foldl (fun a x => earlier a x.first) none
  let ff : Nat := match first with | some f => f.2.toNat | none => 2 ^ 64 - 1
  let fc := xs.foldl (fun a x => a + (if x.runs = 0 then 0 else x.fcount)) 0
  let mask := xs.foldl (fun m x => m ||| (1#16 <<< (x.site / 16))) 0
  let runs := xs.foldl (fun a x => max a x.runs) 0
  let ws : List Word :=
    [BitVec.ofNat 32 (at_ 27 (b2n (xs.any (·.lost))) + at_ 26 (b2n (xs.any (·.aborted))) +
       at_ 25 (b2n noval) + at_ 24 (b2n bad.isEmpty) + at_ 16 hard.toNat + soft.toNat),
     BitVec.ofNat 32 (at_ 16 bad.length + (match bad.head? with | some j => j.1.test | none => 0xFFFF)),
     BitVec.ofNat 32 ff, BitVec.ofNat 32 (ff / 2 ^ 32), BitVec.ofNat 32 (min fc 0xFFFFFFFF),
     mask.setWidth 32, w32 value, BitVec.ofNat 32 (min runs 0xFFFF), 0, 0,
     s.now.setWidth 32, (s.now >>> 32).setWidth 32]
  ({ typ := 0x11, hi := t.num, bit12 := t.group, plaza := q, site := site % 16,
     stale := (s.plz[q]).tim.stale, words := ws }, bad.isEmpty)

/-- The step is judged once nothing that can feed it is left: verdicts go to the MQs and the step closes. -/
def execStepCloseEvaluate (op : OpId) (s : State) : Out :=
  .next (onRunning s op 0x43 fun o _ =>
    if o.after.isSome then s
    else
    match s.steps.find? fun t => t.closing == some op with
    | none => s
    | some t =>
      if s.ops.any (feeds s t) then s
      else
        let groups : List (List SiteStep) := if t.group then [t.sites] else t.sites.map fun x => [x]
        let vs := (groups.filter fun g => !g.isEmpty).map (verdict s t)
        let s := vs.foldl (fun (s : State) (v : MqRec × Bool) =>
          match mqOf s v.1.plaza with
          | some r => mqPost s r op v.1
          | none => s) s
        endAfter s op stOk
          [BitVec.ofNat 32 vs.length, BitVec.ofNat 32 (vs.filter fun v => !v.2).length])

end Sys2Proof.Machine
end

