-- ==== Sys2Proof/Machine/Engine.lean ====
section
/-! DEFINITION. The commands of the block state machine (01_architecture, R40 to R47) and the
descriptors that request it (R190, R256, R284, R306, R319, R400). -/

namespace Sys2Proof.Machine

/-- ENABLE of an engine control register; BAR0 must be served (R414). -/
def execCtlEnable (e : Eng) (m : Meet) (s : State) : Out :=
  .next (if barsOn s then enableEng s e none m else s)

def execCtlDisable (e : Eng) (m : Meet) (s : State) : Out :=
  .next (if barsOn s then closeCheck (disableEng s e none m) else s)

/-- Port M's first start lets the boot ROM read the manifest (Table BOOT-1). -/
def execEngineStartDone (e : Eng) (s : State) : Out := .next (bootHook (startDone s e) e)

/-- An engine that reaches OFF may be the last that a closing context waits for (R83 step 5). -/
def execEngineStopDone (e : Eng) (s : State) : Out := .next (closeCheck (stopDone s e))

def execHeldEnableTakesEffect (e : Eng) (s : State) : Out := .next (closeCheck (heldEnable s e))

def execStartTimeout (e : Eng) (s : State) : Out := .next (bootHook (engTimeout s e true) e)

def execStopTimeout (e : Eng) (s : State) : Out := .next (engTimeout s e false)

def execPlzEnable (op : OpId) (m : Meet) (s : State) : Out :=
  .next (runDesc s op 0x10 fun s _ d => enableOp s (.plaza (Fin.ofNat 16 (bits (wd d 2) 3 0))) op m)

def execPlzDisable (op : OpId) (m : Meet) (s : State) : Out :=
  .next (runDesc s op 0x11 fun s _ d =>
    disableEng s (.plaza (Fin.ofNat 16 (bits (wd d 2) 3 0))) (some op) m)

/-- ACTION of an engine descriptor: 1 enables, 2 disables, others are invalid (R46). -/
def engAction (s : State) (e : Eng) (id : OpId) (d : List Word) (m : Meet) : State :=
  match bits (wd d 2) 31 30 with
  | 1 => enableOp s e id m
  | 2 => disableEng s e (some id) m
  | _ => finishOp s id eArg []

/-- The engine a MEA_ENGINE names (Table MEA-10). -/
def meaEng (d : List Word) : Option Eng :=
  let i := bits (wd d 2) 5 0
  if (wd d 2).getLsbD 24 then some (.tmu (Fin.ofNat 64 i))
  else if h : i < 16 then some (.dg ⟨i, h⟩) else none

def execMeaEngine (op : OpId) (m : Meet) (s : State) : Out :=
  .next (runDesc s op 0x55 fun s _ d =>
    match meaEng d with
    | some e => engAction s e op d m
    | none => finishOp s op eArg [])

def execAwgEngine (op : OpId) (m : Meet) (s : State) : Out :=
  .next (runDesc s op 0x60 fun s _ d => engAction s (.awg (Fin.ofNat 16 (bits (wd d 2) 3 0))) op d m)

def execReEngine (op : OpId) (m : Meet) (s : State) : Out :=
  .next (runDesc s op 0x70 fun s _ d => engAction s (.re (Fin.ofNat 4 (bits (wd d 2) 1 0))) op d m)

def execDpsEngine (op : OpId) (m : Meet) (s : State) : Out :=
  .next (runDesc s op 0x78 fun s _ d => engAction s (.dps (Fin.ofNat 32 (bits (wd d 2) 4 0))) op d m)

def execPmEngine (op : OpId) (m : Meet) (s : State) : Out :=
  .next (runDesc s op 0x90 fun s _ d => engAction s .portM op d m)

end Sys2Proof.Machine
end

