-- ==== Sys2Proof/Machine/Re.lean ====
section
/-! DEFINITION. The raster commands (10_raster, R289 to R308). -/

namespace Sys2Proof.Machine

/-- The raster engine a descriptor names. -/
def reIx (d : List Word) : Fin 4 := Fin.ofNat 4 (bits (wd d 2) 1 0)

/-- A run is in progress or armed. -/
def RRun.busy (r : RRun) : Bool := r.phase != .none

def execReWrite (op : OpId) (s : State) : Out :=
  .next (runDesc s op 0x71 fun s _ d =>
    let k := reIx d
    let off := wd64 d 3
    let len := (wd d 5).toNat
    let R := s.re[k]
    if partSize s < off + len then finishOp s op eArg []
    else if R.run.busy && (List.finRange 4).any fun n =>
        R.active.layers[n].en && overlaps (off, off + len) (R.active.layers[n]).range then
      finishOp s op eResidency []
    else modRe s k fun R => { R with writes := R.writes ++ [(op, off, len)] })

def execReWriteDone (op : OpId) (s : State) : Out :=
  .next (onRunning s op 0x71 fun _ d =>
    let k := reIx d
    match (s.re[k]).writes.find? fun w => w.1 == op with
    | none => s
    | some (_, off, len) =>
      let s := dramWrite s (partBase s k + off) (hostRead s (wd64 d 6) len)
      let s := modRe s k fun R => { R with writes := R.writes.filter fun w => w.1 != op }
      finishOp s op stOk [])

/-- The layer of an RE_LAYER (Table of 10_raster, opcode 0x72). -/
def layerOf (d : List Word) : Layer :=
  { en := (wd d 3).getLsbD 31, alpha := BitVec.ofNat 8 (bits (wd d 3) 7 0), offset := wd64 d 4,
    stride := bits (wd d 6) 15 0, width := bits (wd d 7) 13 0, height := bits (wd d 7) 29 16,
    x := bits (wd d 8) 12 0, y := bits (wd d 8) 28 16 }

def execReLayer (op : OpId) (s : State) : Out :=
  .next (runDesc s op 0x72 fun s _ d =>
    let l := layerOf d
    let n : Fin 4 := Fin.ofNat 4 (bits (wd d 2) 5 4)
    if !l.ok s then finishOp s op eArg []
    else
      let s := modRe s (reIx d) fun R =>
        { R with shadow := { R.shadow with layers := R.shadow.layers.set n l } }
      finishOp s op stOk [])

/-- A raster source that Table RAS-2 allows. -/
def srcOk (i : Nat) : Bool := i < 30 || (32 ≤ i && i ≤ 34)

/-- Entry c of a raster map passes R301 and R12 on a Plaza of width w. -/
def mapEntryOk (w : Nat) (m : List Nat) (c : Nat) : Bool :=
  let e := m.getD c 0
  let en : Bool := e.testBit 15
  e / 64 % 128 == 0 && (!en || (srcOk (e % 64) && c < w)) &&
    (!e.testBit 13 || (c % 2 == 0 && m.getD (c + 1) 0 == 0))

def execReMap (op : OpId) (s : State) : Out :=
  .next (runDesc s op 0x73 fun s _ d =>
    let p : Fin 16 := Fin.ofNat 16 (bits (wd d 2) 3 0)
    let bs := hostRead s (wd64 d 4) 128
    let m := (List.range 64).map fun c => numAt bs (2 * c) 2
    if (s.re[reOf p]).run.busy || !(List.range 64).all (mapEntryOk (widthOf s p) m) then
      finishOp s op eArg []
    else
      let s := modPlz s p fun P =>
        { P with rmap := updAll P.rmap fun c _ => BitVec.ofNat 16 (m.getD c.val 0) }
      finishOp s op stOk [])

/-- RE_RUN arms: a pending commit applies (R291, R304). -/
def armRe (s : State) (k : Fin 4) (id : OpId) (d : List Word) : State :=
  let s := commitNow s k
  let p := streamOf s k
  modRe s k fun R =>
    { R with run := { phase := .armed, op := some id, leader := p, trig := bits (wd d 3) 1 0,
                       frames := bits (wd d 4) 23 0 } }

def execReRun (op : OpId) (s : State) : Out :=
  .next (runDesc s op 0x74 fun s _ d =>
    let k := reIx d
    let R := s.re[k]
    if R.run.busy || R.eng.st != .on || (streamOf s k).isNone || !R.committed then
      finishOp s op eArg []
    else armRe s k op d)

def execReHalt (op : OpId) (s : State) : Out :=
  .next (runDesc s op 0x75 fun s _ d =>
    let k := reIx d
    if (s.re[k]).run.busy then
      modRe s k fun R => { R with run := { R.run with halts := R.run.halts ++ [op] } }
    else finishOp s op eArg [])

/-- COMMIT of RE_CTL is written with 1; with no run in progress or armed the copy is made at once
(R291). -/
def execReCommitWrite (k : Fin 4) (s : State) : Out :=
  if barsOn s then
    let s := modRe s k fun R => { R with commit := true }
    .next (if (s.re[k]).run.busy then s else commitNow s k)
  else .next s

def execVerticalBlanking (k : Fin 4) (s : State) : Out := .next (vblankNow s k)

def execFrameComplete (k : Fin 4) (s : State) : Out := .next (frameNow s k)

end Sys2Proof.Machine
end

