-- ==== Sys2Proof/Machine/Check.lean ====
section
/-! DEFINITION. The checks of a fetched descriptor or chain (02_host_rings, R60, R63, R67, R68, R70, R77, and
what each opcode's chapter says of its layout, arguments and resources). A check that depends on the state
at dispatch is made by the command's own meaning. -/

namespace Sys2Proof.Machine

/-! ### Steps 1 to 3 -/

/-- FMT and CONTEXT of a descriptor (Table HST-5). -/
def fmtOf (d : List Word) : Nat := bits (wd d 0) 11 8
def dctxOf (d : List Word) : Nat := bits (wd d 1) 11 0

/-- An opcode that a chapter defines (R67). -/
def defined (c : Nat) : Bool :=
  c ≤ 0x08 || (0x10 ≤ c && c ≤ 0x1A) || (0x30 ≤ c && c ≤ 0x32) || (0x38 ≤ c && c ≤ 0x3B) ||
  (0x40 ≤ c && c ≤ 0x45) || (0x50 ≤ c && c ≤ 0x55) || (0x60 ≤ c && c ≤ 0x65) ||
  (0x70 ≤ c && c ≤ 0x75) || (0x78 ≤ c && c ≤ 0x7D) || (0x80 ≤ c && c ≤ 0x83) ||
  (0x90 ≤ c && c ≤ 0x92) || (0xA0 ≤ c && c ≤ 0xA5) || (0xB0 ≤ c && c ≤ 0xB3) ||
  c = 0xF0 || c = 0xF1

/-- Allowed with FMT = 1 (R63, R130, R155, R195, R244, R267, R362). -/
def inFormat1 (c : Nat) : Bool :=
  c ≤ 0x08 || (0x10 ≤ c && c ≤ 0x13) || c = 0x15 || c = 0x30 || c = 0x38 || c = 0x39 || c = 0x40 ||
  c = 0x41 || c = 0x45 || (0x50 ≤ c && c ≤ 0x52) || (0xA0 ≤ c && c ≤ 0xA3)

/-- Accepted on context 0's SQ only, with E_ARG elsewhere (R77, R361, R378, R441, Tables LAN-9,
BOOT-6). -/
def zeroOnly (c : Nat) : Bool :=
  (1 ≤ c && c ≤ 0x08) || c = 0x83 || (0xA3 ≤ c && c ≤ 0xA5) || (0xB0 ≤ c && c ≤ 0xB3) || c = 0xF0 ||
  c = 0xF1

/-- Accepted in RECOVERY (R418). -/
def inRecovery (c : Nat) : Bool := c ≤ 0x08 || (0x90 ≤ c && c ≤ 0x92) || c = 0xB0 || c = 0xB1

/-- Steps 1 to 3 of R68 on a descriptor of an SQ of context c. -/
def check123 (s : State) (c : CtxId) (d : List Word) : Option (BitVec 8) :=
  let o := opcodeOf d
  if !((fmtOf d == 1 && s.hif.agreedF1) || (fmtOf d == 2 && s.hif.agreedF2)) then some eFormat
  else if dctxOf d ≠ c then some eContext
  else if !defined o || (fmtOf d == 1 && !inFormat1 o) ||
      (s.boot.stage == .recovery && !inRecovery o) then some eOpcode
  else if zeroOnly o && c ≠ 0 then some eArg
  else none

/-! ### Step 4 -/

/-- An address or other word with bits [5:0] reserved; a word with none reserved. -/
abbrev mA : Nat := 0xFFFFFFC0
abbrev mAll : Nat := 0xFFFFFFFF

/-- The bits of words 2 to 15 that an opcode's layout names: word, mask. Words not listed are
reserved. -/
def layoutOf (c : Nat) : List (Nat × Nat) :=
  let plain (ws : List Nat) : List (Nat × Nat) := ws.map fun i => (i, mAll)
  let addr (i : Nat) : List (Nat × Nat) := [(i, mA), (i + 1, mAll)]
  match c with
  | 0x01 => [(2, 0x80000FFF), (3, 0x3FFF)]
  | 0x02 => [(2, 0xFFF)]
  | 0x03 => [(2, 0xFFF)]
  | 0x04 => [(2, 0xFFF), (3, 0x1FFFFF)] ++ plain [4, 5, 6, 7, 8]
  | 0x05 => [(2, 0xFFF), (3, 0x1FFFFF)] ++ plain [4, 5, 6, 7, 8]
  | 0x06 => [(2, 0xFFF), (3, 0x7FFF)]
  | 0x07 => [(2, 0xFFF), (3, 0x7FFF)]
  | 0x08 => [(2, 0xFFF)]
  | 0x10 => [(2, 0xF)]
  | 0x11 => [(2, 0xF)]
  | 0x12 => [(2, 0xFFFF), (6, 0xFFFFF)] ++ addr 4
  | 0x13 => [(2, 0xFFFFF), (3, 0x7FF)] ++ addr 4
  | 0x14 => [(2, 0x3F0F), (3, 0xFFFFF)]
  | 0x15 => [(2, 0xF), (3, 0xFFFF), (4, 3), (5, 0xFFFF)] ++ plain [6, 7, 8, 9, 10, 11, 12, 13]
  | 0x16 => [(2, 0xF), (3, 0xFFFF)]
  | 0x17 => [(2, 0xFF0F), (3, 0x1FFF)] ++ addr 4
  | 0x18 => (2, 0xF) :: addr 4
  | 0x19 => (2, 0xF) :: addr 4
  | 0x1A => (2, 0xF) :: addr 4
  | 0x30 => [(2, 0xFFFF), (3, 0x3F), (6, 0xFFF)] ++ addr 4
  | 0x31 => [(2, 0xF), (3, 7), (6, 0xFFF)] ++ addr 4
  | 0x32 => [(2, 0xF), (3, 7)] ++ addr 4
  | 0x38 => [(2, 0xFFFF), (3, 7), (6, 0xFFF)] ++ addr 4
  | 0x39 => (2, 0xF) :: addr 4 ++ plain [6, 7]
  | 0x3A => [(4, 0xFFFFF000), (5, mAll)]
  | 0x3B => [(2, 0xFFFF), (3, 0xFFFF)] ++ plain [4, 5]
  | 0x40 => [(2, 0xFFFF), (3, mAll), (4, 7), (5, 0xFFFF), (6, 0x05FFFFFF), (7, 0xFFFF0FFF)]
  | 0x41 => [(2, 0x10F), (3, 0xFFFFFF), (4, 0x8000003F), (5, 3)] ++ plain [8, 9, 10, 11]
  | 0x42 => [(2, 0x1FFFF), (3, 0xFFFF), (6, 0xFFFF)] ++ addr 4 ++ plain [7, 8, 9, 10, 11, 12, 13, 14]
  | 0x43 => [(2, 0xF), (3, 0xFFFF)]
  | 0x44 => [(2, 0xFF), (3, 0x1FFF), (4, 0xFFFF), (5, mAll)]
  | 0x45 => [(2, 0x10F), (3, 0xFFFFFF), (6, 0xFFFFF)] ++ addr 4
  | 0x50 => [(2, 0xFFFF), (3, 0x0B3FFFFF), (4, 0xFFFF03FF)] ++ plain [5, 6, 7, 8, 9, 10, 11, 12, 13]
  | 0x51 => [(2, 0x83FF000F), (3, 0x300FFFFF), (8, 0xFFFF)] ++ plain [4, 5, 6, 7]
  | 0x52 => plain [2, 3, 4] ++ addr 5
  | 0x53 => plain [2]
  | 0x54 => [(2, 0x3F), (3, 0xFCFFFFFF), (4, 0xF000003F), (5, 0x3000003F), (9, 0xFFFFF), (10, 0xFF)] ++
      plain [6, 7, 8]
  | 0x55 => [(2, 0xC100003F)]
  | 0x60 => [(2, 0xC000000F)]
  | 0x61 => [(2, 0xF), (3, 3), (4, mAll)]
  | 0x62 => [(2, 0xFF0F), (3, 0x7FFFFFF), (4, 0x7FFFFFF)] ++ addr 5
  | 0x63 => [(2, 0xF), (3, 0x7FF)] ++ addr 4
  | 0x64 => [(2, 0xF), (3, 0x303FF), (4, 0xFFFF)]
  | 0x65 => [(2, 0xF), (3, 0x103FF)]
  | 0x70 => [(2, 0xC0000003)]
  | 0x71 => [(2, 3)] ++ addr 3 ++ [(5, mA)] ++ addr 6
  | 0x72 => [(2, 0x33), (3, 0x800000FF), (6, 0xFFFF), (7, 0x3FFF3FFF), (8, 0x1FFF1FFF)] ++ plain [4, 5]
  | 0x73 => (2, 0xF) :: addr 4
  | 0x74 => [(2, 3), (3, 3), (4, 0xFFFFFF)]
  | 0x75 => [(2, 3)]
  | 0x78 => [(2, 0xC000001F)]
  | 0x79 => [(2, 0x1F), (3, 0x107), (7, 0xFFFF)] ++ plain [4, 5, 6]
  | 0x7A => [(2, 0x1F), (3, 1), (4, 0xFFFF03FF)]
  | 0x7B => [(2, 0x1F), (3, 0xF0000003), (8, 0xFFFF)] ++ plain [4, 5, 6, 7]
  | 0x7C => [(2, mAll), (3, 1)] ++ addr 4
  | 0x7D => [(2, 0xF), (3, 0xFFFF)] ++ plain [4, 5]
  | 0x80 => (2, 0x87FF003F) :: plain [3, 4, 5]
  | 0x81 => addr 4 ++ plain [6]
  | 0x82 => (2, 0x07FF003F) :: addr 4
  | 0x83 => [(4, 0xFFFFF000), (5, mAll)]
  | 0x90 => [(2, 0xC0000000)]
  | 0x91 => [(2, 0x01FF011F), (3, 0x1FFF)] ++ addr 4 ++ addr 6 ++ addr 8 ++ plain [10, 11]
  | 0x92 => addr 4
  | 0xA0 => [(2, 0x3F), (3, mAll)]
  | 0xA1 => [(2, mAll), (3, mAll), (4, 0xFF)]
  | 0xA2 => plain [2, 3]
  | 0xA3 => [(2, 3)]
  | 0xA5 => [(2, 0xFF07)]
  | 0xB0 => plain [2, 3, 4, 5, 6, 7, 8, 9] ++ addr 10
  | 0xB1 => addr 10
  | 0xB3 => (2, 3) :: addr 10
  | 0xF0 => [(2, 0xF000000F)]
  | 0xF1 => [(2, 0xFFFF), (3, 0x1FFFF)] ++ addr 4
  | _ => []

/-- Reserved bits of a descriptor are 0 and TIMEOUT is a valid code (Tables HST-5 and HST-8). -/
def reservedOk (d : List Word) : Bool :=
  let lay := layoutOf (opcodeOf d)
  !(wd d 0).getLsbD 15 &&
    (bits (wd d 1) 27 16 != 0 || bits (wd d 1) 31 28 == 0) &&
    ((List.range 14).all fun i =>
      let m := ((lay.find? fun x => x.1 == i + 2).map (·.2)).getD 0
      (wd d (i + 2)).toNat &&& (mAll - m) == 0)

/-- Fields of a TMU_MEAS (R259). -/
def tmuFields (d : List Word) : Bool :=
  let mode := bits (wd d 3) 31 30
  let nstop := bits (wd d 3) 23 20
  let vsel := bits (wd d 9) 19 16
  let nst := (wd d 8).toNat
  mode != 3 && bits (wd d 3) 29 28 != 3 && bits (wd d 3) 19 16 ≤ 3 && bits (wd d 4) 31 30 != 3 &&
    ((wd d 7).toNat == 0 || (wd d 6).toNat < (wd d 7).toNat) &&
    (if mode = 0 then 1 ≤ nstop && 1 ≤ vsel && vsel ≤ nstop && bits (wd d 4) 31 30 != 2
     else 3 ≤ nst && nst ≤ 1048576)

/-- Fields of an ACQ (Table MEA-7, R257). -/
def acqFields (d : List Word) : Bool :=
  let madc := (wd d 2).getLsbD 31
  let ofs := (wd d 4).toInt
  let n := (wd d 6).toNat
  bits (wd d 3) 19 16 ≤ 5 && bits (wd d 2) 25 16 / 64 == bits (wd d 2) 3 0 &&
    (if madc then bits (wd d 3) 29 28 == 0 && wd d 4 == 0
     else bits (wd d 3) 29 28 != 3 && decide (-2000000 ≤ ofs) && decide (ofs ≤ 7000000)) &&
    2 ≤ n && n ≤ 16777216 && (wd d 7).toNat < n

/-- The arguments that can be judged from the descriptor alone are in range. -/
def fieldsOk (d : List Word) : Bool :=
  let w2 := wd d 2
  let action : Bool := bits w2 31 30 == 1 || bits w2 31 30 == 2
  match opcodeOf d with
  | 0x01 => bits (wd d 3) 13 0 ≤ 8128
  | 0x13 => 1 ≤ bits (wd d 3) 10 0 && bits (wd d 3) 10 0 ≤ 1024
  | 0x15 => bits (wd d 4) 1 0 != 3
  | 0x17 => 1 ≤ bits (wd d 3) 12 0 && bits (wd d 3) 12 0 ≤ 4096
  | 0x30 => w2 != 0
  | 0x31 => bits (wd d 6) 11 0 == 528
  | 0x38 => w2 != 0
  | 0x39 => wd64 d 6 != 0
  | 0x40 => w2 != 0 && bits (wd d 4) 2 0 ≤ 3 && bits (wd d 6) 24 16 ≤ 256
  | 0x42 => bits w2 15 0 != 0
  | 0x44 => wd d 3 != 0 && bits (wd d 4) 15 0 + Nat.log2 (bits (wd d 3) 12 0) ≤ 65535
  | 0x50 => w2 != 0 && bits (wd d 3) 25 24 ≤ 1 && 1 ≤ bits (wd d 4) 9 0 && bits (wd d 4) 9 0 ≤ 1000
  | 0x51 => acqFields d
  | 0x54 => tmuFields d
  | 0x55 => action && (meaEng d).isSome
  | 0x60 => action
  | 0x61 =>
    let r := bits (wd d 3) 1 0
    let ofs := (wd d 4).toInt
    r != 3 && ofs.natAbs ≤ 4000000 && ofs.natAbs + awgFs r ≤ 7000000
  | 0x62 =>
    let off := bits (wd d 3) 26 0
    let len := bits (wd d 4) 26 0
    off % 32 == 0 && len % 32 == 0 && 64 ≤ len && off + len ≤ 100663296
  | 0x63 => 1 ≤ bits (wd d 3) 10 0 && bits (wd d 3) 10 0 ≤ 1024
  | 0x70 => action
  | 0x74 => bits (wd d 3) 1 0 != 3
  | 0x78 => action
  | 0x79 => (dpsCfgOf d).inRange
  | 0x7A => 1 ≤ bits (wd d 4) 9 0 && bits (wd d 4) 9 0 ≤ 1000
  | 0x7B => (monOf d).ok
  | 0x7C => w2 != 0
  | 0x80 => (match calNamed d with | some k => calRunFields k d | none => false)
  | 0x82 => (calNamed d).isSome
  | 0x90 => action
  | 0x91 => 1 ≤ bits (wd d 3) 12 0 && bits (wd d 3) 12 0 ≤ 4096
  | 0xA0 => laneWordOk (Fin.ofNat 64 (bits w2 5 0)) (wd d 3)
  | 0xF0 => bits w2 31 28 ≤ 5
  | 0xF1 => 1 ≤ bits (wd d 3) 16 0 && bits (wd d 3) 16 0 ≤ 49152 && bits w2 15 0 ≤ 0xBFFF &&
      bits w2 15 0 + bits (wd d 3) 16 0 ≤ 49152
  | _ => true

/-- The arguments are in the ranges that the set-up fixes: segments below SEG_COUNT, sites and columns of the
Plaza, the length of its tables, the image part, the Commons master (R68, R182, R183, R197, R229, R234, R250, R259, R294, R300, R348). -/
def rangeOk (s : State) (d : List Word) : Bool :=
  let w2 := wd d 2
  let ps := plazasOf (w2.setWidth 16)
  match opcodeOf d with
  | 0x13 => bits w2 19 0 + bits (wd d 3) 10 0 ≤ s.dram.segCount
  | 0x14 => bits (wd d 3) 19 0 < s.dram.segCount
  | 0x17 => bits w2 15 12 + bits w2 11 8 < sitesOf s (Fin.ofNat 16 (bits w2 3 0))
  | 0x30 => ps.all fun p => bits (wd d 6) 11 0 == 16 + 32 * widthOf s p
  | 0x38 => ps.all fun p => bits (wd d 6) 11 0 == 16 + 48 * widthOf s p
  | 0x41 => trigArgs s d
  | 0x42 => !w2.getLsbD 16 || ps.all fun p => widthOf s p == 64
  | 0x45 => maskSiteOk s d
  | 0x50 => ps.all fun p => bits (wd d 3) 21 16 < widthOf s p
  | 0x54 =>
    let p := tmuPlaza (Fin.ofNat 64 (bits w2 5 0))
    let site := bits (wd d 10) 7 0
    site / 16 == p.val && site % 16 < sitesOf s p
  | 0x71 => wd64 d 3 + (wd d 5).toNat ≤ partSize s
  | 0x72 => (layerOf d).ok s
  | 0xA0 => bits (wd d 3) 15 8 != 0xE5 || s.cm.master
  | _ => true

/-- Context c may name the task of a LANE_CFG (R347). -/
def taskAllowed (c : CtxId) (d : List Word) : Bool :=
  opcodeOf d != 0xA0 || c == 0 || !taskOfZero (bits (wd d 3) 15 8)

/-! ### Step 5 -/

/-- The resources a descriptor names; a calibration set's are judged apart. -/
def resNamed (d : List Word) : List Res :=
  let w2 := wd d 2
  let p : Fin 16 := Fin.ofNat 16 (bits w2 3 0)
  let many : List Res := (plazasOf (BitVec.ofNat 16 (bits w2 15 0))).map .plaza
  let re : Res := .re (Fin.ofNat 4 (bits w2 1 0))
  let dps : Res := .dps (Fin.ofNat 32 (bits w2 4 0))
  let lanes : List Res := (ixs 64 fun n => (wd64 d 2).testBit n.val).map .lane
  match opcodeOf d with
  | 0x10 => [.plaza p]
  | 0x11 => [.plaza p]
  | 0x12 => many
  | 0x14 => [.plaza p]
  | 0x15 => [.plaza p]
  | 0x16 => [.plaza p]
  | 0x17 => [.plaza p]
  | 0x18 => [.plaza p]
  | 0x19 => [.plaza p]
  | 0x1A => [.plaza p]
  | 0x30 => many
  | 0x31 => [.plaza p]
  | 0x32 => [.plaza p]
  | 0x38 => many
  | 0x39 => [.plaza p]
  | 0x3B => many
  | 0x40 => many
  | 0x41 => [.plaza p]
  | 0x42 => many
  | 0x43 => [.plaza p]
  | 0x44 => [.plaza (Fin.ofNat 16 (bits w2 7 0 / 16))]
  | 0x45 => [.plaza p]
  | 0x50 => many
  | 0x51 => [.plaza p]
  | 0x54 => [.tmu (Fin.ofNat 64 (bits w2 5 0)), .plaza (tmuPlaza (Fin.ofNat 64 (bits w2 5 0)))]
  | 0x55 => match meaEng d with
    | some (.tmu n) => [.tmu n, .plaza (tmuPlaza n)]
    | some e => [resOf e]
    | none => []
  | 0x60 => [.plaza p]
  | 0x61 => [.plaza p]
  | 0x62 => [.plaza p]
  | 0x63 => [.plaza p]
  | 0x64 => [.plaza p]
  | 0x65 => [.plaza p]
  | 0x70 => [re]
  | 0x71 => [re]
  | 0x72 => [re]
  | 0x73 => [.plaza p]
  | 0x74 => [re]
  | 0x75 => [re]
  | 0x78 => [dps]
  | 0x79 => [dps]
  | 0x7A => [dps]
  | 0x7B => [dps]
  | 0x7C => (ixs 32 fun n => w2.getLsbD n.val).map .dps
  | 0x7D => [.plaza p]
  | 0x90 => [.portM]
  | 0x91 => [.portM]
  | 0xA0 => .lane (Fin.ofNat 64 (bits w2 5 0)) :: laneRes (wd d 3)
  | 0xA1 => lanes
  | 0xA2 => lanes
  | _ => []

/-- Step 5 of R68 for context c; a TMU whose Plaza another context holds is owned too (R266). -/
def check5 (s : State) (c : CtxId) (d : List Word) : Option (BitVec 8) :=
  let byKind : Option (BitVec 8) :=
    if opcodeOf d = 0x80 ∨ opcodeOf d = 0x82 then
      (match calNamed d with | some k => calClaim s c k | none => some eArg)
    else none
  let foreign : Bool :=
    match opcodeOf d, meaEng d with
    | 0x55, some (.tmu n) =>
      (match holder s (.plaza (tmuPlaza n)) with | some x => x != c | none => false)
    | _, _ => false
  match byKind with
  | some st => some st
  | none => if foreign then some eOwned else claimCheck s c (resNamed d)

/-- Steps 4 and 5 of R68, with R34 among the arguments. -/
def check45 (s : State) (c : CtxId) (d : List Word) : Option (BitVec 8) :=
  if !reservedOk d || !fieldsOk d || !rangeOk s d || !taskAllowed c d || (standingBy s && onPeDie d) then some eArg
  else check5 s c d

/-! ### Chains (R68, R70) -/

/-- The descriptors of a chain agree, and the last ends it. -/
def chainOk (ds : List (List Word)) : Bool :=
  let d := ds.headD []
  ds.length ≤ 16 && !chainOf (ds.getLastD []) &&
    ds.all fun e => opcodeOf e == opcodeOf d && fmtOf e == fmtOf d && dctxOf e == dctxOf d

/-- The first check that a descriptor or chain of an SQ of context c fails. -/
def checkChain (s : State) (c : CtxId) (ds : List (List Word)) : Option (BitVec 8) :=
  match check123 s c (ds.headD []) with
  | some st => some st
  | none => if !chainOk ds then some eArg else ds.findSome? (check45 s c)

end Sys2Proof.Machine
end

