-- ==== Sys2Proof/Machine/Pins.lean ====
section
/-! DEFINITION. The pin-channel commands: level sets, channel configuration and gangs, the park store's
read, the comparator self-test, settling and overcurrent (03_pin_channels, R108 to R131). -/

namespace Sys2Proof.Machine

/-! ### Level sets (R110 to R114) -/

/-- Entry k of a level set table (Table PIN-5). -/
def lvlCol (bs : List Byte) (k : Nat) : LvlCol :=
  let w (i : Nat) : BitVec 32 := BitVec.ofNat 32 (numAt bs (16 + 48 * k + 4 * i) 4)
  { vih := (w 0).toInt, vil := (w 1).toInt, voh := (w 2).toInt, vol := (w 3).toInt, vt := (w 4).toInt,
    ioh := (w 5).toNat, iol := (w 6).toNat, clh := (w 7).toInt, cll := (w 8).toInt,
    clampEn := (w 9).getLsbD 1, loadEn := (w 9).getLsbD 0 }

/-- The reserved words and bits of entry k are 0 (R12). -/
def lvlRsv (bs : List Byte) (k : Nat) : Bool :=
  numAt bs (16 + 48 * k + 36) 4 < 4 && numAt bs (16 + 48 * k + 40) 8 == 0

/-- The conditions of R111 on an entry that do not depend on a channel. -/
def LvlCol.ok (e : LvlCol) : Bool :=
  ([e.vih, e.vil, e.voh, e.vol, e.vt, e.clh, e.cll].all fun v =>
    decide (-2000000 ≤ v && v ≤ 7000000)) &&
    decide (e.vol ≤ e.voh) && decide (e.cll + 500000 ≤ e.clh) &&
    decide (e.ioh ≤ 24000000) && decide (e.iol ≤ 24000000)

/-- A level set table of length len passes R110 and R111 on Plaza p. DESIGN CHOICE (the rules do not say what W is under an
invalid WIDTH, notes/assumptions/251.md): WIDTH 5 to 7 counts as 64 columns. -/
def lvlOk (s : State) (bs : List Byte) (len : Nat) (p : Fin 16) : Bool :=
  let w := widthOf s p
  len == 16 + 48 * w && numAt bs 0 4 == at_ 16 w + 1 && numAt bs 4 12 == 0 &&
    ((List.range w).all fun k => lvlRsv bs k && (lvlCol bs k).ok) &&
    ((List.finRange 64).all fun k =>
      (levelCodes s (chOf p k) (lvlCol bs (k.val % w))).isSome)

/-- A Plaza takes a level set; its DACs follow where the set is in use (R113, R114). DESIGN CHOICE (R110 gives entries for
the columns below W only, notes/assumptions/250.md): the columns above keep what an earlier load left, which a wider
WIDTH would use. -/
def lvlPut (s : State) (bs : List Byte) (ls : Fin 8) (p : Fin 16) : State :=
  let w := widthOf s p
  let s := modPin s p fun n =>
    { n with levels := upd n.levels ls fun old =>
        updAll old fun k c => if k.val < w then lvlCol bs k.val else c }
  let s := storeLevel s p ls
  if (s.plz[p]).pin.lsCur = ls then startSettle (applyLevels s p ls) p else s

def execLvlLoad (op : OpId) (s : State) : Out :=
  .next (runDesc s op 0x38 fun s _ d =>
    let m := BitVec.ofNat 16 (bits (wd d 2) 15 0)
    let ls : Fin 8 := Fin.ofNat 8 (bits (wd d 3) 2 0)
    let len := bits (wd d 6) 11 0
    let bs := hostRead s (wd64 d 4) len
    if (plazasOf m).all (lvlOk s bs len) then
      let s := (plazasOf m).foldl (fun s p => lvlPut s bs ls p) s
      finishOp s op stOk [m.setWidth 32]
    else finishOp s op eArg [])

def execSettleEnd (p : PlazaIx) (s : State) : Out :=
  .next (modPin s p fun n => { n with settling := false })

/-! ### Channel configuration (R115 to R122) -/

/-- A CH_CFG entry (Table PIN-8). -/
structure CfgEnt where
  w0    : Word
  force : Int
  hi    : Int
  lo    : Int
  deriving DecidableEq, Repr

def cfgEnt (bs : List Byte) (k : Fin 64) : CfgEnt :=
  let w (i : Nat) : Word := BitVec.ofNat 32 (numAt bs (16 * k.val + 4 * i) 4)
  { w0 := w 0, force := (w 1).toInt, hi := (w 2).toInt, lo := (w 3).toInt }

/-- MODE of an entry, where valid. -/
def CfgEnt.mode (e : CfgEnt) : Option ChMode :=
  match bits e.w0 2 0 with
  | 0 => some .off
  | 1 => some .pe
  | 2 => some .pmuFv
  | 3 => some .pmuFi
  | 4 => some .peMon
  | _ => none

def CfgEnt.range (e : CfgEnt) : Nat := bits e.w0 6 4
/-- Channels of the gang that an entry leads: 1 for none. -/
def CfgEnt.gang (e : CfgEnt) : Nat := 2 ^ bits e.w0 9 8

/-- What a CH_CFG does with a channel: nothing, its own entry, membership of the gang of a leader, or MODE
OFF because its gang dissolves (R122). -/
inductive CfgRole where
  | keep | own | member (l : Fin 64) | former
  deriving DecidableEq, Repr

/-- The roles of channels 0 to k - 1 as (leader, size) of the gangs formed so far, and role of channel k. -/
def cfgRole (P : Plaza) (sel : BitVec 64) (ent : Fin 64 → CfgEnt) (gangs : List (Fin 64 × Nat))
    (k : Fin 64) : CfgRole :=
  match gangs.find? fun g => g.1.val < k.val && k.val < g.1.val + g.2 with
  | some g => .member g.1
  | none =>
    match P.chans[k].leader with
    | some l =>
      if gangs.any (fun g => g.1 == l) then .former
      else if sel.getLsbD l.val && (ent l).gang = 1 then .former else .keep
    | none => if sel.getLsbD k.val then .own else .keep

/-- The roles of all 64 channels, ascending, with the gangs that the selected entries form. -/
def cfgRoles (P : Plaza) (sel : BitVec 64) (ent : Fin 64 → CfgEnt) : List (Fin 64 × CfgRole) :=
  ((List.finRange 64).foldl
    (fun (a : List (Fin 64 × Nat) × List (Fin 64 × CfgRole)) (k : Fin 64) =>
      let r := cfgRole P sel ent a.1 k
      (if r = .own ∧ (ent k).gang ≠ 1 then (k, (ent k).gang) :: a.1 else a.1, (k, r) :: a.2))
    ([], [])).2.reverse

/-- An entry that a channel takes as its own passes R117, R119 and R121. -/
def cfgOk (s : State) (p : Fin 16) (k : Fin 64) (e : CfgEnt) : Bool :=
  match e.mode with
  | none => false
  | some m =>
    let P := s.plz[p]
    let n := e.gang
    let pmu : Bool := m == .pmuFv || m == .pmuFi
    let fv (x : Int) : Bool := (voltCode P.pin.fvSpan (chanGO s (chOf p k) 9) x).isSome
    e.w0.toNat &&& 0x377 == e.w0.toNat && decide (e.range ≤ 4) &&
      (n == 1 || (k.val % n == 0 && pmu && e.range == 4)) &&
      (!pmu || (List.range n).all fun i =>
        (forceCode s (chOf p (Fin.ofNat 64 (k.val + i))) m e.range e.force n).isSome) &&
      (m != .pmuFi || (decide (e.force.natAbs ≤ n * pmuScale e.range) && fv e.hi && fv e.lo &&
        decide (e.lo + 500000 ≤ e.hi))) &&
      (m == P.chans[k].mode || isOff s (.plaza p)) && (m == .off || !s.park.stands)

/-- Channel k of Plaza p takes its role. A channel in a comparator self-test keeps the test's switches and DACs,
and takes what the entry asks of them at the test's end (R128; notes/assumptions/230.md). -/
def cfgPut (s : State) (p : Fin 16) (ent : Fin 64 → CfgEnt) (k : Fin 64) (r : CfgRole) (ch : Chan) :
    Chan :=
  let c := chOf p k
  let code (m : ChMode) (e : CfgEnt) (ch : Chan) : Chan :=
    setForceCode m (forceCode s c m e.range e.force e.gang) ch
  let rest (ch : Chan) : Chan := if ch.stSave.isSome then ch else restChan s c ch
  match r with
  | .keep => ch
  | .own =>
    let e := ent k
    let m := e.mode.getD .off
    let ch' := code m e
      { ch with mode := m, range := e.range, force := e.force, vcHi := e.hi, vcLo := e.lo,
                gang := if e.gang = 1 then 0 else e.gang, leader := none, hiz := false }
    if m = ch.mode ∧ !isOff s (.plaza p) then ch' else rest ch'
  | .member l =>
    let e := ent l
    let m := e.mode.getD .off
    rest (code m e
      { ch with mode := m, range := e.range, gang := 0, leader := some l, hiz := false })
  | .former => rest { ch with mode := .off, gang := 0, leader := none }

/-- A channel that is no longer a PMU_FV channel of its own leaves the supply set (R335). -/
def keepSupplies (s : State) (p : Fin 16) : State :=
  modPlz s p fun P => { P with psup := (List.finRange 64).foldl (fun (m : BitVec 64) k =>
    if P.chans[k].mode = .pmuFv ∧ P.chans[k].leader = none then m else m &&& ~~~(1#64 <<< k.val)) P.psup }

def execChCfg (op : OpId) (s : State) : Out :=
  .next (runDesc s op 0x39 fun s _ d =>
    let p := plzIx d
    let sel := BitVec.ofNat 64 (wd64 d 6)
    let bs := hostRead s (wd64 d 4) 1024
    let ent (k : Fin 64) := cfgEnt bs k
    let roles := cfgRoles (s.plz[p]) sel ent
    let bad : Bool := roles.any fun x => x.2 == .own && !cfgOk s p x.1 (ent x.1)
    if sel = 0 || bad then finishOp s op eArg []
    else
      let s' := roles.foldl (fun s x => modChanIn s p x.1 (cfgPut s p ent x.1 x.2)) s
      finishOp (keepSupplies s' p) op stOk [])

/-! ### Park store, self-test, overcurrent (R123, R127 to R129) -/

def execParkRead (op : OpId) (s : State) : Out :=
  .next (runDesc s op 0x3A fun s _ d =>
    let s := hostWrite s (wd64 d 4) (Mem.readBytes 0 s.park.image 0 4096)
    finishOp s op stOk
      [BitVec.ofNat 32 (b2n (parkGood s.park.image)), BitVec.ofNat 32 s.park.writes])

def execCmpSelftest (op : OpId) (s : State) : Out :=
  .next (runDesc s op 0x3B fun s' _ d =>
    let ps := plazasOf (BitVec.ofNat 16 (bits (wd d 2) 15 0))
    if ps.any fun p => (s'.plz[p]).pin.selftest.isSome then s
    else if ps.any fun p => !isOff s' (.plaza p) then finishOp s' op eArg []
    else ps.foldl (fun s p =>
      let s := mapChans s p fun c ch => if stTested ch then stBegin s c ch else ch
      modPin s p fun n => { n with selftest := some op }) s')

/-- Steps 3 and 4 of Table PIN-13 on an output that reads `up` with the bus above T: 1 then 0 or 0 then 1, and
inverted with the inputs swapped. -/
def stGood (o : StOut) (up : Bool) : Bool := o.hi == up && o.lo != up && o.hiSw != up && o.loSw == up

/-- A result with the bus reading corrected by the set of the die's monitor ADC (R368), in units of 0.1 uV. -/
def stRead (s : State) (r : SelfTestRes) : SelfTestRes :=
  { r with bus := monRead s (peOf (chPlaza r.chan)) (10 * r.bus) }

/-- H_OK, L_OK and BUS_OK of a channel: the bus, in units of 0.1 uV, within 1 mV of T = 1 V. -/
def stHOk (r : SelfTestRes) : Bool := stGood r.ch true
def stLOk (r : SelfTestRes) : Bool := stGood r.cl false
def stBusOk (r : SelfTestRes) : Bool := decide ((r.bus - 10000000).natAbs ≤ 10000)

/-- Offset in uV of two trip codes in B1: half their difference (step 6; notes/assumptions/43.md). -/
def stOffset (a b : BitVec 16) : Int := divRne (((a.toNat : Int) - b.toNat) * 5000000) 131072

/-- Step 6 on one comparator: its offset within the limit, its centre within 1 mV of the bus reading. -/
def stInside (limit : Nat) (bus : Int) (a b : BitVec 16) : Bool :=
  decide ((((a.toNat : Int) - b.toNat) * 5000000).natAbs ≤ limit * 131072) &&
    decide ((((a.toNat : Int) + b.toNat) * 50000000 - (bus + 25000000) * 131072).natAbs ≤ 10000 * 131072)

/-- PASS of a channel (Table PIN-13); a limit of 0 means 5,000 uV. -/
def stPass (limit : Nat) (r : SelfTestRes) : Bool :=
  let l := if limit = 0 then 5000 else limit
  stHOk r && stLOk r && stBusOk r && stInside l r.bus r.hTrip r.hSwap && stInside l r.bus r.lTrip r.lSwap

/-- A tested channel's 8 bytes; the offset of a comparator that failed steps 3 and 4 reads 0. -/
def stBytes (limit : Nat) (r : SelfTestRes) : List Byte :=
  let off (ok : Bool) (a b : BitVec 16) : Nat := if ok then (BitVec.ofInt 16 (stOffset a b)).toNat else 0
  leBytes 4 (at_ 31 1 + at_ 30 (b2n (stHOk r)) + at_ 29 (b2n (stLOk r)) + at_ 28 (b2n (stBusOk r)) +
      at_ 27 (b2n (stPass limit r))) ++
    leBytes 4 (at_ 16 (off (stLOk r) r.lTrip r.lSwap) + off (stHOk r) r.hTrip r.hSwap)

def execCmpSelftestDone (op : OpId) (res : List SelfTestRes) (s : State) : Out :=
  .next (onRunning s op 0x3B fun _ d =>
    let ps := plazasOf (BitVec.ofNat 16 (bits (wd d 2) 15 0))
    let lim := bits (wd d 3) 15 0
    let chs := ps.flatMap fun p => (List.finRange 64).map fun k => chOf p k
    let res := res.map (stRead s)
    let isTested (c : Fin 1024) : Bool := (getChan s c).stSave.isSome
    let tested := chs.filter isTested
    let of (c : Fin 1024) := res.find? fun r => r.chan == c
    if tested.all fun c => (of c).isSome then
      let bs := chs.flatMap fun c =>
        match isTested c, of c with
        | true, some r => stBytes lim r
        | _, _ => leBytes 8 0
      let failed := (tested.filter fun c => match of c with
        | some r => !stPass lim r
        | none => false).length
      finishOp (endSelftest (hostWrite s (wd64 d 4) bs) op) op (if failed = 0 then stOk else stPartial)
        [BitVec.ofNat 32 failed, BitVec.ofNat 32 tested.length]
    else s)

def execDriverOvercurrent (c : Fin 1024) (s : State) : Out :=
  .next (
    let ch := getChan s c
    if ch.sDrv && ch.drvOn && (ch.mode == .pe || ch.mode == .peMon) then
      let s := modChan s c fun ch => { openChan ch with hiz := true }
      let s := modPin s (chPlaza c) fun n =>
        { n with ovc := true, ovcCh := BitVec.ofNat 6 (chIx c).val }
      faultEng s (.plaza (chPlaza c)) fcOvercurrent
    else s)

end Sys2Proof.Machine
end

