-- ==== Sys2Proof/Machine/RegRead.lean ====
section
/-! DEFINITION. What every BAR0 register reads as (16_register_map, R433 to R440, and the register tables of
the chapters that own the blocks). -/

namespace Sys2Proof.Machine

/-- A word from its fields: lowest bit and value. -/
def fields (fs : List (Nat × Nat)) : Word :=
  BitVec.ofNat 32 (fs.foldl (fun a f => a + at_ f.1 f.2) 0)

/-- Bits that the spec leaves open in a register at the time of a read (notes/assumptions/7.md). -/
def openBits (s : State) (off : Nat) (mask : Word) : Word :=
  Config.freeValue 32 (s.freeCount + off / 4) &&& mask

/-- STATE[2:0] (R40). -/
def EngState.code : EngState → Nat
  | .off => 0
  | .starting => 1
  | .on => 2
  | .stopping => 3
  | .fault => 4
  | .pendingOn => 5

/-- The common fields of Table ARC-9. -/
def engFields (c : EngCore) : List (Nat × Nat) :=
  [(24, c.faultCode.toNat), (7, b2n c.reqRejected), (6, b2n c.absorbed), (5, b2n c.timedOut), (0, c.st.code)]

/-- The index i of a register array of n words, step apart, that begins at base. -/
def arrIx (n : Nat) [NeZero n] (base step off : Nat) : Option (Fin n) :=
  if base ≤ off && off < base + step * n && (off - base) % step = 0 then
    some (Fin.ofNat n ((off - base) / step))
  else none

/-- PE die n is powered down: its live fields read their reset values (R439). -/
def peDown (s : State) (n : Fin 8) : Bool := !peGood s n

/-! ### Global and host interface -/

/-- STATE[3:0] of GLB_PWRCTL (Table ARC-6). -/
def PwrState.code : PwrState → Nat
  | .active => 0
  | .idle => 1
  | .standby => 2
  | .deepReq => 3
  | .deepSleep => 3

def readGlb (s : State) (off : Nat) : Option Word :=
  let g := s.glb
  match off with
  | 0x00 => some 0x10240010
  | 0x04 => some 0x00000200
  | 0x08 => some (fields [(9, b2n g.psChain), (8, b2n g.refsel), (0, g.chipid.toNat)])
  | 0x0C => some (fields [(1, b2n g.lockLost), (0, b2n g.lock)])
  | 0x10 => some (fields [(12, g.pwr.code), (9, b2n g.refused), (8, b2n g.busy), (0, g.req.toNat)])
  | 0x14 => some g.fwVer
  | 0x18 => some (s.now.setWidth 32)
  | 0x1C => some ((s.now >>> 32).setWidth 32)
  | 0x20 => some (fields [(16, g.errLast.toNat), (1, b2n g.errUnmapped), (0, b2n g.errPartial)])
  | 0x24 => some g.scratch
  | _ => none

/-- Entries of the operation table free to contexts other than 0 (R78, R99). -/
def freeOthers (s : State) : Nat :=
  let admin := (s.ops.filter fun o => o.ctx == 0).length
  8192 - s.ops.length - (64 - admin)

def readHif (s : State) (off : Nat) : Option Word :=
  let h := s.hif
  match off with
  | 0x00 => some (fields [(2, b2n h.offerF2), (1, b2n h.offerF1)])
  | 0x04 =>
    let max := if h.agreedF2 then 2 else if h.agreedF1 then 1 else 0
    some (fields [(16, 6), (4, max), (2, b2n h.agreedF2), (1, b2n h.agreedF1), (0, b2n h.adminEn)])
  | 0x08 => some (fields [(12, h.rtLo.toNat)])
  | 0x0C => some h.rtHi
  | 0x10 => some (fields [(1, b2n h.adminOn), (0, b2n h.adminEn)])
  | 0x14 => some (fields [(5, b2n h.rtBad), (4, b2n h.fmtNone), (3, b2n h.dbFormat), (2, b2n h.dbOverrun),
      (1, b2n h.dbClosed), (0, b2n h.dbForeign)])
  | 0x18 => some (fields [(16, h.lastBadPage.toNat), (0, h.lastBadRing.toNat)])
  | 0x1C => some (fields [(16, h.optPeak), (14, b2n (freeOthers s == 0)), (0, s.ops.length)])
  | 0x20 => some (fields [(16, h.qwait.toNat), (12, h.retries.toNat), (0, h.fetchTo.toNat)])
  | _ => none

/-! ### Pins, timing, sequencers -/

def readPin (s : State) (off : Nat) : Option Word :=
  if off = 0xC0 then
    some (fields [(16, s.park.writes), (2, b2n s.park.loaded), (1, b2n s.park.bad)])
  else
    match arrIx 16 0 4 off, arrIx 16 0x40 4 off, arrIx 16 0x80 4 off with
    | some p, _, _ =>
      let n := (s.plz[p]).pin
      some (fields [(12, n.fvSpan.toNat), (9, n.clampSpan.toNat), (6, n.vtSpan.toNat), (3, n.cmpSpan.toNat),
        (0, n.drvSpan.toNat)])
    | _, some p, _ => some (fields [(0, (s.plz[p]).pin.settle.toNat)])
    | _, _, some p =>
      let n := (s.plz[p]).pin
      let live : List (Nat × Nat) := if peDown s (peOf p) then [] else [(16, n.lsCur.val), (2, b2n n.settling)]
      some (fields (live ++ [(8, n.ovcCh.toNat), (3, b2n n.selftest.isSome), (1, b2n n.spanConflict),
        (0, b2n n.ovc)]))
    | _, _, _ => none

def readTim (s : State) (off : Nat) : Option Word :=
  if off = 0 then some (fields [(0, s.tmo.bandHold.toNat)])
  else
    match arrIx 16 0x40 4 off, arrIx 16 0x80 4 off, arrIx 16 0xC0 8 off, arrIx 16 0xC4 8 off with
    | some p, _, _, _ =>
      let t := (s.plz[p]).tim
      some (fields [(3, b2n t.forceEn), (0, t.band.val)])
    | _, some p, _, _ =>
      let t := (s.plz[p]).tim
      let waits : Bool := !t.staged.isEmpty || targetBand s p != t.applied
      some (fields [(20, (targetBand s p).val), (16, t.applied.val), (4, b2n waits), (3, b2n t.forceEn),
        (2, b2n t.edgeClip), (1, b2n t.stale)])
    | _, _, some p, _ => some ((s.plz[p]).tim.valid.setWidth 32)
    | _, _, _, some p => some (((s.plz[p]).tim.valid >>> 32).setWidth 32)
    | _, _, _, _ => none

/-- RUN[2:0] (Table SEQ-13). -/
def RunPhase.code : RunPhase → Nat
  | .none => 0
  | .running => 1
  | .hold => 2
  | .waiting => 3
  | .armed => 4

/-- PLZ_CYC of a Plaza: that of the run whose stream it plays. -/
def cycOf (s : State) (p : Fin 16) : BitVec 64 := (s.plz[leaderOf s p]).run.cyc

def readPlz (s : State) (off : Nat) : Option Word :=
  match off with
  | 0x140 => some (fields [(16, s.tmo.holdMs.toNat), (8, s.tmo.seqStart.toNat), (0, s.tmo.seqStop.toNat)])
  | 0x144 => some (fields [(0, s.tmo.syncMs.toNat)])
  | 0x148 => some (fields [(0, s.dram.segCount)])
  | _ =>
    if (arrIx 16 0 4 off).isSome then some 0
    else
      match arrIx 16 0x40 4 off, arrIx 16 0x80 4 off, arrIx 16 0xC0 8 off, arrIx 16 0xC4 8 off,
        arrIx 16 0x180 4 off with
      | some p, _, _, _, _ =>
        let P := s.plz[p]
        some (fields (engFields P.eng ++ [(17, P.run.phase.code), (16, b2n P.run.jump.isSome),
          (15, b2n P.seq.sdWrap), (14, b2n P.seq.setMiss), (13, b2n P.seq.short), (12, b2n P.seq.underrun)]))
      | _, some p, _, _, _ =>
        let r := (s.plz[p]).run
        some (fields [(24, r.calls.length), (20, r.loops.length), (0, r.pc.toNat)])
      | _, _, some p, _, _ => some ((cycOf s p).setWidth 32)
      | _, _, _, some p, _ => some ((cycOf s p >>> 32).setWidth 32)
      | _, _, _, _, some p =>
        let c := (s.plz[p]).cfg
        some (fields [(8, c.leader.val), (7, b2n c.linked), (0, c.width.toNat)])
      | _, _, _, _, _ => none

/-- READY of UCS_GLB: the patch load has ended. -/
def patchReady (s : State) : Bool := s.patch.st != 1

def readUcs (s : State) (off : Nat) : Option Word :=
  let c := s.patch
  match off with
  | 0x00 => some (fields [(8, b2n (patchReady s)), (4, c.failCode.toNat), (0, c.st.toNat)])
  | 0x04 => some 0x0000B001
  | 0x08 => some c.ver
  | 0x0C => some (fields [(0, c.limit.toNat)])
  | _ =>
    match arrIx 16 0x40 4 off with
    | some p =>
      let u := (s.plz[p]).uc
      some (fields [(16, u.fltUaddr.toNat), (0, u.fltPc.toNat)])
    | none => none

/-! ### Capture and measurement -/

def readCap (s : State) (off : Nat) : Option Word :=
  match arrIx 16 0 4 off, arrIx 16 0x40 4 off, arrIx 16 0x80 4 off, arrIx 16 0xC0 4 off with
  | some p, _, _, _ =>
    let c := (s.plz[p]).cap
    let run : Bool := (s.plz[leaderOf s p]).run.on
    let mode := if run then c.cur.cmode else c.next.cmode
    some (fields [(16, b2n (stepOf s p).isSome), (8, mode), (5, b2n c.suppr), (4, b2n c.massFail),
      (3, b2n c.limitHit), (2, b2n c.trigFired), (1, b2n c.lost), (0, b2n (4080 ≤ c.buf.length))])
  | _, some p, _, _ => some (fields [(0, (s.plz[p]).cap.lostTotal)])
  | _, _, some p, _ =>
    let c := (s.plz[p]).cap
    some (fields [(16, c.peak), (0, c.buf.length)])
  | _, _, _, some p =>
    some (fields [(0, match stepOf s p with | some t => t.num.toNat | none => 0)])
  | _, _, _, _ => none

/-- The acquisition in progress on DGp. -/
def dgAcq (s : State) (p : Fin 16) : Option Acq :=
  s.dram.acqs.find? fun a => !a.madc && a.plaza == p

/-- Table MAP-2 (measurement). MEA_GATE.LEVEL reads 0 where no PE die is powered (R439).
DESIGN CHOICE (log 233). -/
def readMea (s : State) (off : Nat) : Option Word :=
  match off with
  | 0x300 => some (fields [(8, s.tmo.meaStart.toNat), (0, s.tmo.meaStop.toNat)])
  | 0x304 => some (fields [(16, 4096 - s.dram.recs.length), (0, (2 ^ 30 - recBytes s) / 2 ^ 20)])
  | 0x308 =>
    let g := s.gate
    if (List.finRange 8).all (peDown s) then some 0
    else some (fields [(3, b2n g[3]), (2, b2n g[2]), (1, b2n g[1]), (0, b2n g[0])])
  | _ =>
    if (arrIx 16 0 4 off).isSome || (arrIx 64 0x100 4 off).isSome then some 0
    else
      match arrIx 16 0x40 4 off, arrIx 64 0x200 4 off with
      | some p, _ =>
        let a := dgAcq s p
        let armed : Bool := match a with | some a => a.trigAt.isNone && !a.trigged | none => false
        some (fields (engFields (s.dg[p]).eng ++ [(9, b2n armed), (8, b2n a.isSome)]))
      | _, some n =>
        let T := s.tmu[n]
        let armed : Bool :=
          match T.meas with | some m => m.arm == .waitArm || m.arm == .waitRef | none => false
        some (fields (engFields T.eng ++ [(9, b2n armed), (8, b2n T.meas.isSome)]))
      | _, _ => none

/-! ### Waveform and raster -/

/-- RUN[1:0] (Table AWG-12). -/
def AwgPhase.code : AwgPhase → Nat
  | .none => 0
  | .armed => 1
  | .playing => 2
  | .holding => 3

def readAwg (s : State) (off : Nat) : Option Word :=
  if off = 0xC0 then some (fields [(8, s.tmo.awgStart.toNat), (0, s.tmo.awgStop.toNat)])
  else if (arrIx 16 0 4 off).isSome then some 0
  else
    match arrIx 16 0x40 4 off, arrIx 16 0x80 4 off with
    | some a, _ =>
      let A := s.awg[a]
      let pend : Bool := A.run.pend.isSome || A.run.commit.isSome
      some (fields (engFields A.eng ++ [(14, A.run.entry % 1024), (12, A.run.phase.code), (11, b2n pend),
        (10, b2n A.preset), (9, b2n A.under)]))
    | _, some a => some (fields [(16, b2n (s.awg[a]).jHalt), (0, (s.awg[a]).jTgt.toNat)])
    | _, _ => none

/-- RUN[1:0] (Table RAS-7). -/
def RRun.code (r : RRun) : Nat :=
  match r.phase with
  | .none => 0
  | .armed => 1
  | .running => if r.stalled then 3 else 2

/-- The set-up registers of REk, from its shadow set. -/
def readReSet (R : Re) (o : Nat) : Option Word :=
  let t := R.shadow
  match o with
  | 0x00 => some (fields [(16, t.hfp.toNat), (0, t.hact.toNat)])
  | 0x04 => some (fields [(16, t.hbp.toNat), (0, t.hsync.toNat)])
  | 0x08 => some (fields [(16, t.vfp.toNat), (0, t.vact.toNat)])
  | 0x0C => some (fields [(16, t.vbp.toNat), (0, t.vsync.toNat)])
  | 0x10 => some (fields [(8, b2n t.fmt), (0, t.cpp.toNat)])
  | 0x14 => some (fields [(0, t.bg.toNat)])
  | 0x18 => some (fields [(0, b2n R.commit)])
  | _ => none

def readRe (s : State) (off : Nat) : Option Word :=
  if off = 0x240 then some (fields [(8, s.tmo.reStart.toNat), (0, s.tmo.reStop.toNat)])
  else if (arrIx 4 0 4 off).isSome then some 0
  else if 0x100 ≤ off && off < 0x180 then
    readReSet (s.re[Fin.ofNat 4 ((off - 0x100) / 32)]) (off % 32)
  else
    match arrIx 4 0x40 4 off, arrIx 4 0x200 4 off with
    | some k, _ =>
      let R := s.re[k]
      let cov := b2n R.covered[0] + 2 * b2n R.covered[1] + 4 * b2n R.covered[2] + 8 * b2n R.covered[3]
      some (fields (engFields R.eng ++ [(20, cov), (18, R.run.code), (17, b2n R.deferred),
        (16, b2n R.commitBad), (15, b2n R.fetchLate)]))
    | _, some k => some (fields [(16, (s.re[k]).run.y % 2 ^ 15), (0, (s.re[k]).run.x % 2 ^ 15)])
    | _, _ => none

/-! ### Power -/

def readPwrEvt (e : PwrEvt) : Word :=
  fields [(7, b2n e.psupTrip), (6, b2n e.extV), (5, b2n e.railFault), (4, b2n e.vinOc), (3, b2n e.budgetTrip),
    (2, b2n e.budgetWarn), (1, b2n e.vinOvSeen), (0, b2n e.brownout)]

/-- A mask with the bits of some indices. -/
def maskOf (n : Nat) (f : Fin n → Bool) : Nat :=
  (List.finRange n).foldl (fun a i => a + at_ i.val (b2n (f i))) 0

def readPwr (s : State) (off : Nat) : Option Word :=
  match off with
  | 0x100 => some (fields [(8, s.tmo.dpsStart.toNat), (0, s.tmo.dpsStop.toNat)])
  | 0x104 => some (fields [(0, s.pwr.vin.toNat)])
  | 0x108 => some (fields [(16, s.pwr.peakMw.toNat), (0, s.pwr.pMw.toNat)])
  | 0x10C => some (fields [(0, s.pwr.limitMw.toNat)])
  | 0x110 => some (readPwrEvt s.pwr.evt)
  | 0x114 =>
    let r := s.pwr.railUp
    some (fields [(16, maskOf 8 (peGood s)), (4, b2n (r[5] && r[6])), (3, b2n r[4]), (2, b2n (r[2] && r[3])),
      (1, b2n r[1]), (0, b2n r[0])])
  | _ =>
    if (arrIx 32 0 4 off).isSome then some 0
    else
      match arrIx 32 0x80 4 off with
      | some n =>
        let D := s.dps[n]
        let limited : Word := if D.sDps then openBits s (0xB000 + off) 0x00020000 else 0
        some (fields (engFields D.eng ++ [(20, D.tripCause.toNat), (19, b2n D.senseLost), (18, b2n D.dropout),
          (16, b2n D.blanked), (15, b2n D.discharged), (14, b2n D.tripped)]) ||| limited)
      | none => none

/-! ### Lanes, Commons, Avenue -/

def readLaneCfg (l : Lane) : Word :=
  fields [(31, b2n l.en), (30, b2n l.async), (29, b2n l.andG), (28, b2n l.limitEn), (8, l.task.toNat),
    (0, l.src.toNat)]

def readLaneStat (l : Lane) : Word :=
  fields [(16, l.count % 65536), (8, l.payload.toNat), (7, b2n l.cfgBad), (6, b2n l.latchG), (5, b2n l.latchS),
    (4, b2n l.ignored), (3, b2n l.coalesced), (2, b2n l.runaway)]

/-- STATE[1:0] (Table LAN-14). -/
def AvState.code : AvState → Nat
  | .off => 0
  | .training => 1
  | .trained => 2
  | .lost => 3

def readLan (s : State) (off : Nat) : Option Word :=
  let c := s.cm
  let a := s.av
  match off with
  | 0x200 | 0x204 | 0x208 | 0x20C => some 0
  | 0x210 => some (fields [(0, s.lanLimit.toNat)])
  | 0x300 => some (fields [(16, c.haltMask.toNat), (8, c.pulse.toNat), (2, b2n c.autodisarm),
      (1, b2n c.master), (0, b2n c.en)])
  | 0x304 => some 0
  | 0x308 =>
    let driven := fields [(2, b2n c.haltDriven), (1, b2n c.fireDriven), (0, b2n c.armDriven)]
    some (fields [(16, c.fires.toNat), (5, b2n c.armRefused), (4, b2n c.fireUnarmed), (3, b2n c.armDriven)] |||
      driven ||| openBits s 0xC308 7)
  | 0x400 => some (fields [(24, a.own.toNat), (16, a.startLine.val), (1, b2n a.master), (0, b2n a.en)])
  | 0x404 => some (fields [(24, a.ver), (20, a.st.code), (16, 3), (2, b2n a.late), (1, b2n a.crcErr),
      (0, b2n a.ownerClash)])
  | 0x408 => some (fields [(0, a.latNs.toNat)])
  | 0x40C => some (w32 a.ofs)
  | 0x410 => some (w32 a.dly)
  | 0x414 => some (fields [(0, a.trainMs.toNat)])
  | _ =>
    match arrIx 64 0 4 off, arrIx 64 0x100 4 off, arrIx 16 0x240 4 off with
    | some n, _, _ => some (readLaneCfg s.lanes[n])
    | _, some n, _ => some (readLaneStat s.lanes[n])
    | _, _, some p => some (fields [(0, (s.plz[p]).seq.sjtgt.toNat)])
    | _, _, _ => none

/-! ### Calibration and temperature -/

/-- A temperature or rate in 16 bits; none reads 0x8000. -/
def temp16 (x : Option Int) : Nat :=
  match x with
  | some v => (BitVec.ofInt 16 v).toNat
  | none => 0x8000

def readCal (s : State) (off : Nat) : Option Word :=
  let v (k : CalKey) : Bool := calValid s k
  match off with
  | 0x00 => some (fields [(16, maskOf 16 fun p => v (.dig p)), (0, maskOf 16 fun p => v (.chDc p))])
  | 0x04 => some (fields [(16, maskOf 8 fun n => v (.mon n)), (0, maskOf 16 fun p => v (.awg p))])
  | 0x08 => some (fields [(0, maskOf 32 fun n => v (.dps n))])
  | 0x0C =>
    let c := s.cal
    some (fields [(31, b2n (!c.running.isEmpty)), (30, b2n c.rejected), (24, c.check.toNat),
      (16, c.kind.toNat), (0, c.index.toNat)])
  | 0x1D0 =>
    let d := s.thm.dies
    some (fields [(31, b2n s.thm.limBad), (20, maskOf 10 fun i => (d[i]).trip),
      (10, maskOf 10 fun i => (d[i]).throttle), (0, maskOf 10 fun i => (d[i]).warn)])
  | 0x1D4 => some (fields [(0, maskOf 32 fun i => s.thm.bad[i])])
  | _ =>
    match arrIx 32 0x100 4 off, arrIx 10 0x180 4 off, arrIx 3 0x1C0 4 off with
    | some i, _, _ =>
      let down : Bool := if h : i.val < 24 then peDown s ⟨i.val / 3, by omega⟩ else false
      some (fields [(0, if down then 0x8000 else temp16 s.thm.t[i])])
    | _, some d, _ =>
      let D := s.thm.dies[d]
      some (fields [(16, temp16 (some D.rate)), (0, temp16 D.temp)])
    | _, _, some c =>
      let l := s.thm.lims[c]
      some (fields [(16, l.trip.toNat), (8, l.throttle.toNat), (0, l.warn.toNat)])
    | _, _, _ => none

/-! ### Serial ports, boot, faults -/

/-- Port S samples on LCLK (R401). -/
def psSlowNow (s : State) : Bool :=
  s.glb.por || s.glb.perst || !s.glb.lock || s.glb.pwr == .deepSleep

/-- SLOW: a frame in progress keeps the clock it began with. -/
def psSlow (s : State) : Bool := if s.ps.inFrame then s.ps.slow else psSlowNow s

def readPsStat (s : State) : Word :=
  let p := s.ps
  fields [(16, p.frames.toNat), (7, b2n s.glb.psChain), (6, b2n (psSlow s)), (5, b2n p.toMcFull),
    (4, b2n p.toHostFull), (3, b2n p.overclk), (2, b2n p.short), (1, b2n p.tuTmo), (0, b2n p.denied)]

def readSer (s : State) (off : Nat) : Option Word :=
  let m := s.pm
  match off with
  | 0x00 => some 0
  | 0x04 =>
    some (fields (engFields m.eng ++ [(21, m.mode.toNat), (20, b2n m.omitOn), (19, b2n m.sfdpOk),
      (18, b2n m.xblock), (17, b2n m.viewMiss), (16, b2n (m.xfer.isSome || m.fill.isSome))]))
  | 0x08 => some (fields [(8, m.xDiv.toNat), (6, b2n m.prefetch), (5, b2n m.omit_), (0, m.modes.toNat)])
  | 0x0C => some m.densKib
  | 0x10 => some (fields [(0, m.selDly.toNat)])
  | 0x14 => some (fields [(16, s.tmo.serTu.toNat), (8, s.tmo.serStart.toNat), (0, s.tmo.serStop.toNat)])
  | 0x20 => some (readPsStat s)
  | 0x24 => some s.ps.toHost
  | 0x28 => some s.ps.toMc
  | _ => none

/-- STAGE[2:0] (Table BOOT-12). -/
def Stage.code : Stage → Nat
  | .reset => 0
  | .rom => 1
  | .fwLoad => 2
  | .fwInit => 3
  | .running => 4
  | .recovery => 5
  | .restarting => 6

def readRst (r : RstCause) : Word :=
  fields [(8, r.restarts), (7, b2n r.selfHost), (6, b2n r.selfRail), (5, b2n r.selfWdog), (4, b2n r.fwRestart),
    (3, b2n r.wake), (2, b2n r.flr), (1, b2n r.perst), (0, b2n r.por)]

def readBoot (s : State) (off : Nat) : Option Word :=
  let b := s.boot
  match off with
  | 0x00 => some (fields [(24, b.failP.toNat), (20, b.failS.toNat), (18, b.manifest.toNat), (16, b.keyslot.toNat),
      (0, b.stage.code)])
  | 0x04 => some (readRst b.rst)
  | 0x08 => some (fields [(0, b.fwWdogMs.toNat)])
  | 0x0C => some 0
  | 0x10 => some (fields [(26, b.fwFloor), (20, b.patchFloor), (0, maskOf 4 fun i => b.revoked[i])])
  | 0x20 => some (fields [(0, s.fag.windowUs.toNat)])
  | 0x24 => some (fields [(24, s.fag.fcode.toNat), (16, s.fag.source.toNat), (1, b2n s.fag.merged),
      (0, b2n s.fag.window.isSome)])
  | 0x60 => some (fields [(0, s.fag.eqLost)])
  | _ =>
    match arrIx 8 0x40 4 off with
    | some i => some ((s.fag.map >>> (32 * i.val)).setWidth 32)
    | none => none

/-! ### The whole of BAR0 -/

/-- The MSI-X entry of a vector: its reset form has address and data 0 and the mask bit set (R58). -/
def msixOf (s : State) (v : Nat) : MsixEntry :=
  (s.msix.find? fun e => e.vector == v).getD { vector := v }

/-- Words of the MSI-X table and of the pending-bit array (R56, R58). -/
def readMsix (s : State) (off : Nat) : Option Word :=
  if off < 0x8000 then
    let e := msixOf s (off / 16)
    match off % 16 with
    | 0 => some e.addrLo
    | 4 => some e.addrHi
    | 8 => some e.data
    | _ => some (fields [(0, b2n e.masked)])
  else if off < 0x8100 then
    some (fields [(0, maskOf 32 fun i => (msixOf s (8 * (off - 0x8000) + i.val)).pending)])
  else none

/-- A 32-bit read of the word at an offset: none where no register lies (R433, R435, R436). -/
def readReg (s : State) (off : Nat) : Option Word :=
  match off / 0x1000 with
  | 0x0 => readGlb s off
  | 0x1 => readHif s (off - 0x1000)
  | 0x4 => readPin s (off - 0x4000)
  | 0x5 => readTim s (off - 0x5000)
  | 0x6 => if off < 0x6400 then readPlz s (off - 0x6000) else readUcs s (off - 0x6400)
  | 0x7 => readCap s (off - 0x7000)
  | 0x8 => readMea s (off - 0x8000)
  | 0x9 => readAwg s (off - 0x9000)
  | 0xA => readRe s (off - 0xA000)
  | 0xB => readPwr s (off - 0xB000)
  | 0xC => readLan s (off - 0xC000)
  | 0xD => readCal s (off - 0xD000)
  | 0xE => readSer s (off - 0xE000)
  | 0xF => readBoot s (off - 0xF000)
  | _ => if 0x30000 ≤ off then readMsix s (off - 0x30000) else none

/-- The free values of a read have been used. -/
def usedFree (s : State) : State := { s with freeCount := s.freeCount + 65536 }

/-- A register access that finds none (R435). -/
def noteUnmapped (s : State) (off : Nat) : State :=
  { s with glb := { s.glb with errUnmapped := true, errLast := BitVec.ofNat 16 (off / 4) } }

/-- A read of one word by a requester other than REG_DUMP: the value, and UNMAPPED where no register lies. -/
def readWord (s : State) (off : Nat) : Word × State :=
  match readReg s off with
  | some w => (w, usedFree s)
  | none => (0, noteUnmapped s off)

/-! ### Snapshot pairs (R437) -/

/-- Offset of the LO word of a pair (Table MAP-11); HI follows it. -/
def pairOff : SnapPair → Nat
  | .time => 0x18
  | .cyc p => 0x60C0 + 8 * p.val
  | .tsValid p => 0x50C0 + 8 * p.val

/-- The pair whose LO (hi = false) or HI word lies at an offset. -/
def pairAt (off : Nat) : Option (SnapPair × Bool) :=
  if off = 0x18 then some (.time, false)
  else if off = 0x1C then some (.time, true)
  else
    match arrIx 16 0x60C0 8 off, arrIx 16 0x60C4 8 off, arrIx 16 0x50C0 8 off, arrIx 16 0x50C4 8 off with
    | some p, _, _, _ => some (.cyc p, false)
    | _, some p, _, _ => some (.cyc p, true)
    | _, _, some p, _ => some (.tsValid p, false)
    | _, _, _, some p => some (.tsValid p, true)
    | _, _, _, _ => none

def snapOf (s : State) (r : Requester) (p : SnapPair) : Option Snap :=
  s.glb.snaps.find? fun x => x.who == r && x.pair == p

def dropSnap (s : State) (r : Requester) (p : SnapPair) : State :=
  { s with glb := { s.glb with snaps := s.glb.snaps.filter fun x => !(x.who == r && x.pair == p) } }

/-- A requester reads the LO word: the live value; the HI word goes into its snapshot. -/
def snapLo (s : State) (r : Requester) (p : SnapPair) : Word × State :=
  let o := pairOff p
  let lo := (readReg s o).getD 0
  let hi := (readReg s (o + 4)).getD 0
  let s := dropSnap s r p
  let snap : Snap := { who := r, pair := p, hi := hi }
  (lo, { s with glb := { s.glb with snaps := snap :: s.glb.snaps } })

/-- A requester reads the HI word: its snapshot, which clears, or the live value. -/
def snapHi (s : State) (r : Requester) (p : SnapPair) : Word × State :=
  match snapOf s r p with
  | some x => (x.hi, dropSnap s r p)
  | none => ((readReg s (pairOff p + 4)).getD 0, s)

/-- A 32-bit read of a word by a requester, snapshots included. -/
def readAs (s : State) (r : Requester) (off : Nat) : Word × State :=
  match pairAt off with
  | some (p, false) => snapLo s r p
  | some (p, true) => snapHi s r p
  | none => readWord s off

/-! ### BAR2 and the diagnostic part of BAR4 (R57, R441) -/

/-- The byte that the diagnostic part of BAR4 shows at an offset (Table MAP-14); 0 beyond the view. -/
def diagByte (s : State) (a : Nat) : Byte :=
  let q := (s.plz[Fin.ofNat 16 s.glb.diagPlaza.toNat]).seq
  match s.glb.diagView.toNat with
  | 1 => if a < 0x80000 then (bvBytes 8 (q.imem.getD (a / 8) 0)).getD (a % 8) 0 else 0
  | 2 =>
    if h : a / 81920 < 64 then Mem.read 0 (q.slots[a / 81920]).data (a % 81920) else 0
  | 3 =>
    if h : a / 4096 < 256 then
      Mem.read 0 ((s.plz[a / 4096 / 16]).seq.site[a / 4096 % 16]) (a % 4096)
    else 0
  | 4 =>
    if a < 0x80000 then
      match s.ops.find? fun o => o.slot == a / 64 with
      | some o => (bytesOf o.first).getD (a % 64) 0
      | none => 0
    else 0
  | 5 => if a < 4096 then Mem.read 0 s.park.image a else 0
  | _ => 0

/-- The 32-bit word of the diagnostic part at an offset. -/
def diagWord (s : State) (off : Nat) : Nat :=
  leNat ((List.range 4).map fun i => diagByte s (off + i))

/-- BAR2's doorbell pages read 0 (R57). -/
def readBar2 (_off : Nat) : Nat := 0

end Sys2Proof.Machine
end

