-- ==== Sys2Proof/Machine/Serial.lean ====
section
/-! DEFINITION. Port M: transactions, the flash's description, the flash view (14_serial_ports,
R386 to R400). -/

namespace Sys2Proof.Machine

/-! ### Transactions (R389 to R392) -/

/-- Bits of a unit entry's words 0 and 1 are valid (Table SER-3, R389). -/
def pmEntryOk (s : State) (d : List Word) (i : Nat) (u : PmUnit) : Bool :=
  let w := numAt (hostRead s (wd64 d 4 + 16 * i) 4) 0 4
  w &&& 0xF33F == w && u.width != 3 && 1 ≤ u.count && u.count ≤ 1048576 && u.len ≤ 32 &&
    decide ((if u.kind = 2 then 1 else 4) ≤ u.len) && u.len % 2 ^ u.width == 0

/-- Words that a program takes from OUT, and gives to IN (R389). -/
def outWords (us : List PmUnit) : Nat := (us.map fun u => if u.kind = 0 then u.count else 0).sum
def inWords (us : List PmUnit) : Nat :=
  (us.map fun u => if u.kind = 1 then u.count else if u.kind = 3 then 1 else 0).sum

def execPmXfer (op : OpId) (s : State) : Out :=
  .next (runDesc s op 0x91 fun s _ d =>
    let n := bits (wd d 3) 12 0
    let us := pmProg s d
    if !isOn s .portM || n = 0 || 4096 < n || !(us.mapIdx fun i u => pmEntryOk s d i u).all id ||
        (wd d 10).toNat ≠ outWords us || (wd d 11).toNat ≠ inWords us then finishOp s op eArg []
    else pumpPm { s with pm := { s.pm with queue := enqueue s op s.pm.queue } })

/-- The last unit of the transaction has ended (R390, R392). A transaction that nothing has cut short and that
has come to a unit which waits for its ready line stands there: what it has met is noted, and what it has brought is
in IN. -/
def execPmXferDone (res : PmXferRes) (s : State) : Out :=
  .next (
    match s.pm.xfer with
    | none => s
    | some id =>
      onRunning s id 0x91 fun o _ =>
        if s.pm.doom.isNone && standsAt s.pm.prog (pmRun s.pm.prog 0 (some res.units) res.words) then
          let s := takeXfer s o res (pmRun s.pm.prog 0 (some res.units) res.words)
          { s with pm := { s.pm with met := res, io := {} } }
        else
          let r := pmRun s.pm.prog 0 (if s.pm.doom.isSome then some res.units else none) res.words
          closeXfer (takeXfer s o res r) o r (s.pm.doom.getD (if r.miss then stPartial else stOk)) r.last)

/-- A unit with WAIT gets no ready line within TU (R391): the select is released. -/
def execPmXferWaitTimeout (s : State) : Out :=
  .next (
    match s.pm.xfer with
    | none => s
    | some id =>
      onRunning s id 0x91 fun o _ =>
        let r := pmRun s.pm.prog 0 (some s.pm.met.units) s.pm.met.words
        if s.pm.doom.isNone && standsAt s.pm.prog r then closeXfer s o r eTimeout r.next else s)

/-- The first 512 bytes of SFDP space, the density and the mode (Table SER-4). -/
def execPmInfo (op : OpId) (s : State) : Out :=
  .next (runDesc s op 0x92 fun s _ d =>
    let bs := if s.pm.sfdpOk then sliceB s.pm.sfdp 0 512 else List.replicate 512 0
    finishOp (hostWrite s (wd64 d 4) bs) op stOk [s.pm.densKib, BitVec.ofNat 32 s.pm.mode.toNat])

/-! ### The flash view (R396 to R399) -/

/-- The host's view read fails: all ones and VIEW_MISS. -/
def missView (s : State) : State :=
  { s with rdata := onesB 4, pm := { s.pm with viewMiss := true } }

/-- A read of one word of the view at a word address. -/
def viewRead (s : State) (r : ViewRead) : State :=
  let held : Bool := s.pm.lines.contains (r.addr / 64)
  let served : Bool := isOn s .portM && !s.pm.xblock
  if !r.core && !served then missView s
  else if r.core && s.pm.eng.st == .off then coreReadFails s
  else if served && pmBytes s ≤ r.addr then serveView s r
  else if served && held then
    serveView { s with pm := { s.pm with lines := touchLine s.pm.lines (r.addr / 64) } } r
  else startFill { s with pm := { s.pm with reads := s.pm.reads ++ [r] } }

/-- The word that holds a byte. -/
def wordAt (a : Nat) : Nat := a / 4 * 4

/-- A line fill ends: its lines are held and the reads that waited for them are served. -/
def execLineFillDone (s : State) : Out :=
  .next (
    match s.pm.fill with
    | none => s
    | some (l, n) =>
      let ls := if n = 2 then touchLine s.pm.lines (l + 1) else s.pm.lines
      let ls := touchLine ls l
      let now := s.pm.reads.filter fun r => ls.contains (r.addr / 64) || pmBytes s ≤ r.addr
      let s := releaseSel { s with pm := { s.pm with
        fill := none, lines := ls, reads := s.pm.reads.filter fun r => !now.contains r } }
      pumpPm (now.foldl serveView s))

/-- The fill of a host's view read has not begun in time (R399). -/
def execFlashViewReadTimeout (s : State) : Out :=
  let begun (r : ViewRead) : Bool :=
    match s.pm.fill with
    | some (l, n) => l == r.addr / 64 || (n == 2 && l + 1 == r.addr / 64)
    | none => false
  .next (
    match s.pm.reads.find? fun r => !r.core && !begun r with
    | none => s
    | some r => missView { s with pm := { s.pm with reads := s.pm.reads.erase r } })

end Sys2Proof.Machine
end

