-- ==== Sys2Proof/Machine/Tables.lean ====
section
/-! DEFINITION. The tables that descriptors name in host memory: the ring table, and whether a reserved field of one
is other than 0 (00_scope, R12). -/

namespace Sys2Proof.Machine

/-! ### The ring table (R85, Table HST-12) -/

/-- Address of the ring table. -/
def rtBase (s : State) : Nat := s.hif.rtLo.toNat * 2 ^ 12 + s.hif.rtHi.toNat * 2 ^ 32

/-- The words of ring table entry n. -/
def ringWords (s : State) (n : RingId) : List Word := wordsOf 8 (hostRead s (rtBase s + 32 * n) 32)

/-- A reserved field of a ring table entry is other than 0. -/
def ringRsv (w : List Word) : Bool :=
  bits (wd w 0) 11 0 != 0 || bits (wd w 2) 31 28 != 0 || bits (wd w 2) 15 13 != 0 || bits (wd w 2) 7 3 != 0 ||
    bits (wd w 3) 31 31 != 0 || bits (wd w 3) 14 11 != 0 || wd w 5 != 0 || wd w 6 != 0 || wd w 7 != 0

/-! ### Reserved fields (R12) -/

/-- The n bytes at a hold a bit that a mask of named bits leaves out. -/
def beyond (bs : List Byte) (a n m : Nat) : Bool := numAt bs a n &&& m != numAt bs a n

/-- A program image (Table SEQ-10). -/
def seqTableRsv (bs : List Byte) : Bool :=
  let n := numAt bs 4 4 % 2 ^ 17
  let k := numAt bs 8 4 % 2 ^ 13
  beyond bs 0 4 0xFFFF || beyond bs 4 4 0x1FFFF || beyond bs 8 4 0x1FFF || numAt bs 12 52 != 0 ||
    ((List.range n).any fun i => beyond bs (64 + 8 * i) 8 (instrMask (opOf (BitVec.ofNat 64 (numAt bs (64 + 8 * i) 8))))) ||
    ((List.range k).any fun i => decide (2 ^ 20 ≤ numAt bs (64 + 8 * n + 4 * i) 4))

/-- A timing set table of w columns (Tables TIM-4 and TIM-5). -/
def tsTableRsv (bs : List Byte) (w : Nat) : Bool :=
  beyond bs 0 4 0xFFFFFF || beyond bs 4 4 0xFFFFFF || beyond bs 8 4 1 || numAt bs 12 4 != 0 ||
    (List.range w).any fun k =>
      let a := 16 + 32 * k
      ((List.range 6).any fun i => beyond bs (a + 4 * i) 4 0x1FFFFFF) || beyond bs (a + 24) 4 0x17 ||
        numAt bs (a + 28) 4 != 0

/-- A level set table of w columns (Tables PIN-4 and PIN-5). -/
def lvlTableRsv (bs : List Byte) (w : Nat) : Bool :=
  beyond bs 0 4 0xFFFFFF || numAt bs 4 12 != 0 || (List.range w).any fun k => !lvlRsv bs k

/-- A channel configuration table, in the entries that channels take as their own (Table PIN-8). -/
def cfgTableRsv (s : State) (d : List Word) (bs : List Byte) : Bool :=
  (cfgRoles (s.plz[plzIx d]) (BitVec.ofNat 64 (wd64 d 6)) (cfgEnt bs)).any fun x =>
    x.2 == .own && beyond bs (16 * x.1.val) 4 0x377

/-- A limit table of n tests (Table CAP-13). -/
def limitTableRsv (bs : List Byte) : Bool :=
  beyond bs 4 4 0xFFFFFF || beyond bs 8 4 0xFFFFFF || numAt bs 12 4 != 0 ||
    (List.range (numAt bs 2 2)).any fun i =>
      let a := 16 + 32 * i
      beyond bs a 4 0xFFFFF || beyond bs (a + 12) 4 0xFFFFFF || numAt bs (a + 16) 16 != 0

/-- The entries of an AWG sequence (Table AWG-3). -/
def awgTableRsv (bs : List Byte) (n : Nat) : Bool :=
  (List.range n).any fun i =>
    beyond bs (16 * i) 4 0x33FF00FF || beyond bs (16 * i + 4) 4 0xFFFFFF || beyond bs (16 * i + 12) 4 0xFFFF

/-- A calibration image (Table CAL-4). -/
def calTableRsv (bs : List Byte) : Bool :=
  beyond bs 0 4 0xFFFFFF || beyond bs 4 4 0x8007003F || beyond bs 40 4 0x7FFF || numAt bs 44 20 != 0 ||
    (match calKeyOf (numAt bs 2 1) (numAt bs 4 1 % 64) (numAt bs 6 1 % 8) with
     | some k => !imgRsv k ((List.range (calNent k)).map (imgEntry bs))
     | none => false)

/-- A reserved field of the host table that a descriptor names is other than 0 (R12). -/
def tableRsv (s : State) (d : List Word) : Bool :=
  let at_ (n : Nat) : List Byte := hostRead s (wd64 d 4) n
  let p := plzIx d
  match opcodeOf d with
  | 0x06 => ringRsv (ringWords s (bits (wd d 3) 14 0))
  | 0x12 => seqTableRsv (at_ (bits (wd d 6) 19 0))
  | 0x18 => (List.range 16).any fun i => decide (2 ^ widthOf s p ≤ numAt (at_ 128) (8 * i) 8)
  | 0x30 => let n := bits (wd d 6) 11 0; tsTableRsv (at_ n) ((n - 16) / 32)
  | 0x31 => beyond (at_ 528) 0 16 0xFFFF
  | 0x38 => let n := bits (wd d 6) 11 0; lvlTableRsv (at_ n) ((n - 16) / 48)
  | 0x39 => cfgTableRsv s d (at_ 1024)
  | 0x42 => limitTableRsv (at_ (bits (wd d 6) 15 0))
  | 0x45 => numAt (at_ 16) 8 8 != 0
  | 0x63 => let n := bits (wd d 3) 10 0; awgTableRsv (at_ (16 * n)) n
  | 0x73 => (List.range 64).any fun c => beyond (at_ 128) (2 * c) 2 0xE03F
  | 0x81 => calTableRsv (at_ (min (wd d 6).toNat 16384))
  | 0x83 => !parkZeros (parkImage (at_ 4096))
  | 0x91 => (List.range (bits (wd d 3) 12 0)).any fun i => beyond (hostRead s (wd64 d 4 + 16 * i) 4) 0 4 0xF33F
  | _ => false

end Sys2Proof.Machine
end

