-- ==== Sys2Proof/Machine/Host.lean ====
section
/-! DEFINITION. The host link: format agreement, the admin context, doorbells and fetch, dispatch, timeouts,
completions and interrupts, and the resets that the link makes (02_host_rings, R53 to R73, R91 to
R100). -/

namespace Sys2Proof.Machine

/-! ### Format agreement (R60, R61) -/

/-- HIF_VER_OFFER is written. -/
def writeOffer (s : State) (w : Word) : State :=
  if s.hif.adminEn then s
  else
    { s with hif := { s.hif with
        offerF1 := w.getLsbD 1, offerF2 := w.getLsbD 2, agreedF1 := w.getLsbD 1,
        agreedF2 := w.getLsbD 2 } }

def execHifVerOfferWrite (w : Word) (s : State) : Out :=
  .next (if barsOn s then writeOffer s w else s)

/-! ### Ring table entries (R85, R87) -/

/-- The type of a code. -/
def ringTyOf (n : Nat) : Option RingTy :=
  match n with
  | 0 => some .sq
  | 1 => some .cq
  | 2 => some .fq
  | 3 => some .mq
  | 4 => some .eq
  | _ => none

/-- The ring that entry n describes for context c, where Table HST-12 holds (R88: indices 0). -/
def ringEntry (s : State) (n : RingId) (c : CtxId) : Option Ring :=
  let w := ringWords s n
  let k := bits (wd w 2) 12 8
  match ringTyOf (bits (wd w 2) 2 0) with
  | none => none
  | some ty =>
    if !ringRsv w && 4 ≤ k && k ≤ 16 && bits (wd w 2) 27 16 = c &&
        (ty == .sq || bits (wd w 3) 30 16 == 0) then
      some { num := n, ctx := c, ty := ty, log2 := k, base := wd64 w 0,
             cqring := bits (wd w 3) 30 16, intEn := (wd w 3).getLsbD 15,
             vector := bits (wd w 3) 10 0, itime := bits (wd w 4) 31 16, icnt := bits (wd w 4) 15 0 }
    else none

/-! ### The admin context (R62, R76) -/

/-- The admin rings as entries 0 to 2 describe them. -/
def adminRings (s : State) : Option (List Ring) :=
  match ringEntry s 0 0, ringEntry s 1 0, ringEntry s 2 0 with
  | some a, some b, some c =>
    if a.ty == .sq && a.cqring == 1 && b.ty == .cq && c.ty == .eq then some [a, b, c] else none
  | _, _, _ => none

/-- ADMIN_EN is written 1; `readError`: the ring table read fails. -/
def adminOpen (s : State) (readError : Bool) : State :=
  if s.hif.adminEn then s
  else if !s.hif.agreedF1 && !s.hif.agreedF2 then { s with hif := { s.hif with fmtNone := true } }
  else
    match readError, adminRings s with
    | false, some rs =>
      { s with rings := rs ++ s.rings, ctxs := { num := 0 } :: s.ctxs,
               hif := { s.hif with adminEn := true, adminOn := true } }
    | _, _ => { s with hif := { s.hif with rtBad := true } }

def execAdminEnSet (readError : Bool) (s : State) : Out :=
  .next (if barsOn s then adminOpen s readError else s)

/-! ### FLR, DL_Down and the clearing of ADMIN_EN (R59, R76, R440) -/

/-- Every ring is detached and every operation loses its completion. What an engine still has in hand ends
with it, unreported. -/
def dropHost (s : State) : State :=
  let s := (s.rings.map (·.num)).foldl detachRing s
  let s := dropSteps s fun _ => true
  let s := (s.ctxs.map (·.num)).eraseDups.foldl abortCtx s
  let s := ((s.eqPend.map (·.ctx)).filter (· != 0)).foldl dropEq s
  { s with
    ops := (s.ops.filter (·.live)).map fun o => { o with ctx := 4096, cq := 65536, ring := 65536 } }

/-- Every context closes without a completion; context 0 gives back what it holds. -/
def endContexts (s : State) (hit : List Eng) : State :=
  let s := (s.ctxs.map (·.num)).eraseDups.foldl (fun s c =>
    match ctx? s c with
    | some x => (match x.phase with | .closingEngines _ => s | _ => closeEngines s c none hit)
    | none => s) s
  let quiet (x : Ctx) : Ctx :=
    { x with phase := (match x.phase with | .closingEngines _ => .closingEngines none | p => p) }
  closeCheck { s with ctxs := s.ctxs.map quiet }

/-- The host-interface registers that an FLR resets, the vectors masked, the view closed. -/
def resetHif (s : State) : State :=
  { s with
    hif := { rtLo := s.hif.rtLo, rtHi := s.hif.rtHi, qwait := s.hif.qwait, retries := s.hif.retries,
             fetchTo := s.hif.fetchTo },
    msix := s.msix.map fun e => { e with masked := true },
    glb := { s.glb with diagView := 0, diagPlaza := 0 } }

/-- The effect of an FLR. -/
def flrNow (s : State) : State :=
  let d := dropHost s
  let stopping (s : State) (e : Eng) : Bool := (getEng s e).st == .stopping
  resetHif (endContexts d (allEngs.filter fun e => stopping d e && !stopping s e))

/-- The link is up to carry one: no reset of the whole W1024 is in force. -/
def linkAlive (s : State) : Bool := !s.glb.por && !s.glb.perst && s.glb.pwr != .deepSleep

/-- An FLR or DL_Down, noted in RST_CAUSE. -/
def flrNoted (s : State) : State :=
  let s := flrNow s
  { s with boot := { s.boot with rst := { s.boot.rst with flr := true } } }

def execFlr (s : State) : Out := .next (if linkAlive s then flrNoted s else s)

def execDlDown (s : State) : Out := .next (if linkAlive s then flrNoted s else s)

def execAdminEnClear (s : State) : Out :=
  .next (if barsOn s && s.hif.adminEn then flrNow s else s)

/-! ### Doorbells (R93 to R95) -/

/-- Entries the host has made available and not yet taken: of an SQ to be fetched, of another ring to be
released. -/
def Ring.used (r : Ring) : Nat := (r.tail + r.size - r.head) % r.size

/-- An ignored doorbell is noted. -/
def badDoorbell (s : State) (page : BitVec 12) (n : RingId) (f : Hif → Hif) : State :=
  { s with hif := f { s.hif with lastBadPage := page, lastBadRing := BitVec.ofNat 15 n } }

/-- A doorbell on ring r with INDEX i: the index reaches 2^k, or the advance is too large (R94). -/
def indexBad (r : Ring) (i : Nat) : Bool :=
  let old := if r.ty = .sq then r.tail else r.head
  let most := if r.ty = .sq then r.size - 1 - r.used else r.used
  decide (r.size ≤ i) || decide (most < (i + r.size - old) % r.size)

/-- The cases of R94 that hold of a doorbell: foreign, closed, overrun; each sets its own bit. -/
def doorbellFlaws (s : State) (page : BitVec 12) (val : BitVec 64) : Bool × Bool × Bool :=
  let r := ring? s (bits val 14 0)
  let rsv : Bool := bits val 63 32 != 0 || val.getLsbD 15
  (r.any fun r => r.ctx != page.toNat,
   r.isNone || !isOpen s page.toNat,
   rsv || r.any fun r => indexBad r (bits val 31 16))

/-- A doorbell of the right form. -/
def ringDoorbell (s : State) (page : BitVec 12) (val : BitVec 64) : State :=
  let n := bits val 14 0
  let i := bits val 31 16
  let f := doorbellFlaws s page val
  if f.1 || f.2.1 || f.2.2 then
    badDoorbell s page n fun h => { h with
      dbForeign := h.dbForeign || f.1, dbClosed := h.dbClosed || f.2.1, dbOverrun := h.dbOverrun || f.2.2 }
  else modRing s n fun r => if r.ty = .sq then { r with tail := i } else { r with head := i }

/-- A write to BAR2. DESIGN CHOICE (Table HST-19 records "the last ignored doorbell", R94 only its own cases,
notes/assumptions/197.md): a doorbell ignored before ADMIN_ON leaves HIF_DB_LAST_BAD. -/
def execDoorbell (page : BitVec 12) (off : BitVec 12) (size : Nat) (val : BitVec 64) (s : State) : Out :=
  .next (
    if !barsOn s then s
    else if size ≠ 8 || off ≠ 0 then { s with hif := { s.hif with dbFormat := true } }
    else if !s.hif.adminOn then { s with hif := { s.hif with fmtNone := true } }
    else ringDoorbell s page val)

/-! ### Fetch and acceptance (R65 to R70, R78, R80, R96, R97, R99) -/

/-- Entries of the operation table free to context c. -/
def roomFor (s : State) (c : CtxId) : Nat :=
  let mine := (s.ops.filter fun o => o.ctx == c).length
  let others := (s.ops.filter fun o => o.ctx != 0).length
  let quota := ((ctx? s c).map (·.quota)).getD 0
  let r := if c = 0 then 8192 - s.ops.length else min (8192 - s.ops.length) (8128 - others)
  if quota = 0 then r else min r (quota - mine)

/-- The W1024 fetches from an SQ now: an entry is free to its context, also for the rest of a chain (R80, R83,
R89, R96, R99). -/
def fetches (s : State) (r : Ring) : Bool :=
  r.ty == .sq && !r.stopped && r.detach.isNone && s.hif.adminOn &&
    0 < roomFor s r.ctx &&
    (match ctx? s r.ctx with | some x => x.phase == .normal | none => false)

/-- Entry i of an SQ, sixteen words. -/
def sqEntry (s : State) (r : Ring) (i : Nat) : List Word :=
  wordsOf 16 (hostRead s (r.base + 64 * (i % r.size)) 64)

/-- The lowest free entry of the operation table. DESIGN CHOICE (the spec names an entry by its number in Table
MAP-14 only, notes/assumptions/232.md): a descriptor takes the lowest free one. -/
def freeSlot (s : State) : Nat :=
  ((List.range (s.ops.length + 1)).find? fun k => s.ops.all fun o => o.slot != k).getD 0

/-- A descriptor takes an entry of the operation table. -/
def newOp (s : State) (r : Ring) (d : List Word) : State :=
  let o : Op :=
    { id := s.nextOp, slot := freeSlot s, ring := r.num, ctx := r.ctx, cq := r.cqring, descs := [d], first := d,
      irq := (wd d 0).getLsbD 12 }
  { s with ops := s.ops ++ [o], nextOp := s.nextOp + 1,
           hif := { s.hif with optPeak := max s.hif.optPeak (s.ops.length + 1) } }

/-- All of a descriptor or chain is here: it is checked. -/
def judgeOp (s : State) (id : OpId) : State :=
  match op? s id with
  | none => s
  | some o =>
    match checkChain s o.ctx o.descs with
    | some st => completeOp s id st []
    | none => s

/-- One fetched descriptor of SQ n is taken: it begins an operation or continues a chain. Of a chain that has
ended already, the rest is passed over. DESIGN CHOICE (R70 names the last descriptor's IRQ,
notes/assumptions/214.md): a chain that ends before its last descriptor is fetched counts with the IRQ of
the last one fetched. -/
def acceptOne (n : RingId) (s : State) (d : List Word) : State :=
  match ring? s n with
  | none => s
  | some r =>
    match r.chain with
    | none =>
      let id := s.nextOp
      let s := newOp s r d
      if chainOf d then modRing s n fun r => { r with chain := some (id, 1) } else judgeOp s id
    | some (id, k) =>
      let last : Bool := !chainOf d || k == 15
      let s := modRing s n fun r => { r with chain := if last then none else some (id, k + 1) }
      match op? s id with
      | none => s
      | some o =>
        if !o.live then s
        else
          let s := modOp s id fun o =>
            { o with descs := o.descs ++ [d], irq := (wd d 0).getLsbD 12 }
          if last then judgeOp s id else s

/-- A fetch read has failed: the SQ stops (R96). -/
def stopSq (s : State) (r : Ring) : State :=
  postEq (modRing s r.num fun r => { r with stopped := true }) (some r.ctx) (mkEq s 0x0002 r.num 0 0)

/-- A fetch read of n descriptors ends. One that is still in flight when its SQ no longer fetches, or when the table
has no room left, changes nothing, whatever its end (R83, R89, R96; notes/assumptions/246.md). -/
def fetchDone (s : State) (n : RingId) (cnt : Nat) (res : ReadEnd) : State :=
  match ring? s n with
  | none => s
  | some r =>
    if !fetches s r || r.used < cnt || 8 < cnt then s
    else
      match res with
      | .error => stopSq s r
      | .ok =>
        let ds := (List.range cnt).map fun i => sqEntry s r (r.head + i)
        let t := modRing s n fun r => { r with head := (r.head + cnt) % r.size, retries := 0 }
        let t := ds.foldl (acceptOne n) t
        if t.ops.length - s.ops.length ≤ roomFor s r.ctx then t else s

def execSqFetchComplete (ring : RingId) (n : Nat) (res : ReadEnd) (s : State) : Out :=
  .next (fetchDone s ring n res)

/-- A part of a fetch read has timed out: the read is made again, or the SQ stops (R96). DESIGN CHOICE (R96 is
silent on it, notes/assumptions/246.md): the reissues of a read that a CTX_ABORT dropped count for the first read
after it, as `Ring.retries` stands. -/
def execSqFetchTimeout (ring : RingId) (s : State) : Out :=
  .next (
    match ring? s ring with
    | none => s
    | some r =>
      if !fetches s r || r.used = 0 then s
      else if r.retries < s.hif.retries.toNat then
        modRing s ring fun r => { r with retries := r.retries + 1 }
      else stopSq s r)

/-! ### Dispatch (R69 to R71, R77) -/

/-- The engines whose enables meet a procedure for a set, as numbers: its DPS, or its Plaza and the leader of that
(R385). -/
def calUnits (s : State) (k : CalKey) : List Nat :=
  match calEng k with
  | .dps n => [16 + n.val]
  | .plaza p | .awg p | .dg p => if calOn k (calEng k) then [p.val, (leaderOf s p).val] else []
  | _ => []

/-- What a descriptor works on, as numbers: fault source indices of engines, 256 + n for Lanes, from 1000 on
for what has no engine. -/
def unitsOf (s : State) (d : List Word) : List Nat :=
  let c := opcodeOf d
  let resIx (r : Res) : Nat :=
    match r with
    | .plaza p => p.val
    | .dps n => 16 + n.val
    | .tmu n => 80 + n.val
    | .re k => 144 + k.val
    | .lane n => 256 + n.val
    | .portM => 148
  let used (r : Res) : Bool :=
    match r with
    | .plaza _ => !(c == 0x54 || c == 0x55 && (wd d 2).getLsbD 24)
    | _ => true
  ((resNamed d).filter used).map resIx ++
    (if 1 ≤ c ∧ c ≤ 8 then [1000] else []) ++
    (if c = 0x52 ∨ c = 0x53 then [1001] else []) ++
    (if c = 0x3A ∨ c = 0x83 then [1002] else []) ++
    (if c = 0x13 then [1003] else []) ++
    (if 0x80 ≤ c ∧ c ≤ 0x82 then [1004] else []) ++
    (if c = 0x80 then (calNamed d).toList.flatMap (calUnits s) else []) ++
    (if 0xA3 ≤ c ∧ c ≤ 0xA5 then [1005] else []) ++
    (if c = 0x92 then [148] else []) ++
    (if 0xB0 ≤ c ∧ c ≤ 0xB3 then [1006] else []) ++
    (if 0xF0 ≤ c then [1007] else [])

/-- What an operation works on, in every descriptor of its chain that has not ended. -/
def unitsOp (s : State) (o : Op) : List Nat := o.descs.flatMap (unitsOf s)

/-- What an operation still has to be dispatched to (R71): its chain's later descriptors, and while it waits its
first. -/
def unitsLeft (s : State) (o : Op) : List Nat :=
  (if o.phase = .waiting then o.descs else if o.live then o.descs.tail else []).flatMap (unitsOf s)

/-- Two operations work on one engine. -/
def sharesUnit (s : State) (a b : Op) : Bool := (unitsOp s a).any fun u => (unitsOp s b).contains u

/-- Rows that run one at a time (R77, 15_boot_security_recovery): no other of them is in progress. -/
def alone (s : State) (o : Op) : Bool :=
  let us := (unitsOf s o.first).filter fun u => u = 1000 || u = 1006
  s.ops.all fun x =>
    x.id == o.id || !x.live || x.phase == .waiting || !(us.any fun u => (unitsOf s x.first).contains u)

/-- An operation could be dispatched but for other SQs: waiting, all of it fetched, its context not ending,
fences and ring order kept (R69, R71, R83). DESIGN CHOICE (R69 does not say when an earlier descriptor "has
completed", notes/assumptions/248.md): once its completion is queued, also before that is written to the CQ. -/
def eligible (s : State) (o : Op) : Bool :=
  o.phase == .waiting && !chainOf (o.descs.getLastD []) &&
    (match ctx? s o.ctx with | some x => x.phase == .normal | none => false) &&
    (s.ops.all fun x =>
      !(x.ring == o.ring && x.id < o.id && x.live) ||
        (!fenceOf o.first && !fenceOf x.first && !((unitsLeft s x).any fun u => (unitsOp s o).contains u)))

/-- An operation may be dispatched; one dispatched earlier to the same engine has begun. -/
def dispatchable (s : State) (o : Op) : Bool :=
  eligible s o && alone s o &&
    s.ops.all fun x =>
      x.id == o.id || !sharesUnit s x o ||
        (!(x.phase == .dispatched) && !(eligible s x && before x o))

/-- The Plazas whose MQs a descriptor writes to (R241). -/
def mqPlazas (d : List Word) : List (Fin 16) :=
  let site (n : Nat) : List (Fin 16) := [Fin.ofNat 16 (n / 16)]
  match opcodeOf d with
  | 0x44 => site (bits (wd d 2) 7 0)
  | 0x45 => [Fin.ofNat 16 (bits (wd d 2) 3 0)]
  | 0x50 => plazasOf ((wd d 2).setWidth 16)
  | 0x54 => if bits (wd d 3) 31 30 = 2 then [] else site (bits (wd d 10) 7 0)
  | _ => []

/-- A descriptor of a chain names a table with a reserved field other than 0: the chain, one operation, has no other
effect (R12, R70; notes/assumptions/15.md). -/
def chainRsv (s : State) (o : Op) : Bool := 1 < o.descs.length && o.descs.any (tableRsv s)

/-- An operation is dispatched (R12, R34, R71, R241, R383). -/
def dispatchNow (s : State) (o : Op) : State :=
  let n := s.nextSeq
  let s := modOp { s with nextSeq := n + 1 } o.id fun o => { o with phase := .dispatched, seq := n }
  let s := bindMqs s o.id (o.descs.flatMap mqPlazas).eraseDups
  match dispatchBar s o.cur with
  | some st => completeOp s o.id st []
  | none => if chainRsv s o then completeOp s o.id eArg [] else s

def execDescriptorDispatch (op : OpId) (s : State) : Out :=
  .next (
    match op? s op with
    | some o => if dispatchable s o then dispatchNow s o else s
    | none => s)

/-! ### Timeouts and failed reads (R72, R73, R75) -/

def execExecutionTimeout (op : OpId) (s : State) : Out :=
  .next (
    match op? s op with
    | some o =>
      if o.phase = .dispatched ∨ o.phase = .running then abortOp s op eTimeout else s
    | none => s)

def execQueueWaitTimeout (op : OpId) (s : State) : Out :=
  .next (
    match op? s op with
    | some o => if o.phase = .waiting then completeOp s op eTimeout [] else s
    | none => s)

/-- Opcodes that read host memory besides their descriptor, and those that write it and whose chapters give
E_HOST_MEM for that (R75, R127, R267, R336, R378, R411, 15_boot_security_recovery, 16_register_map). -/
def usesHost (c : Nat) : Bool :=
  (c = 0x3A || c = 0x52 || c = 0x7C || c = 0x82 || c = 0x92 || c = 0xB0 || c = 0xB1 || c = 0xF1) ||
  (c = 0x06 || c = 0x12 || c = 0x13 || (0x17 ≤ c && c ≤ 0x19) || c = 0x30 || c = 0x31 || c = 0x38 ||
    c = 0x39 || c = 0x42 || c = 0x45 || c = 0x62 || c = 0x63 || c = 0x71 || c = 0x73 || c = 0x81 ||
    c = 0x83 || c = 0x91 || c = 0xB3)

/-- Those whose transfer goes on while their operation runs. -/
def usesHostRunning (c : Nat) : Bool := c = 0x52 || c = 0x62 || c = 0x71 || c = 0x7C || c = 0x91

def execHostReadError (op : OpId) (s : State) : Out :=
  .next (
    match op? s op with
    | some o =>
      let c := opcodeOf o.cur
      if usesHost c && (o.phase == .dispatched || (o.phase == .running && usesHostRunning c)) then
        abortOp s op eHostMem
      else s
    | none => s)

/-! ### Completions and interrupts (R55, R65, R92, R98) -/

/-- A detaching SQ whose fetched descriptors have all gone: it is detached, and its RING_DETACH ends
(R89). -/
def detachSq (s : State) (r : Ring) (id : OpId) : State :=
  let s := match r.chain with
    | some (c, _) => (match op? s c with
      | some o => if o.live then completeOp s c eAborted [] else s
      | none => s)
    | none => s
  completeOp (detachRing s r.num) id stOk [BitVec.ofNat 32 r.used]

/-- Every SQ whose detach can end. The chain that is not whole waits for nothing. -/
def detachCheck (s : State) : State :=
  s.rings.foldl (fun s r =>
    match r.detach with
    | none => s
    | some id =>
      if s.ops.all fun o =>
          o.ring != r.num || o.id == id || (r.chain.map (·.1)) == some o.id then detachSq s r id
      else s) s

/-- The 32 bytes of a completion, without its phase (Table HST-6). -/
def complWords (o : Op) (c : Completion) : List Word :=
  [BitVec.ofNat 32 (at_ 16 (bits (wd o.first 0) 31 16) + at_ 8 (opcodeOf o.first) + c.status.toNat), 0,
   c.time.setWidth 32, (c.time >>> 32).setWidth 32, c.r4, c.r5, c.r6, c.r7]

/-- The completion of an operation goes to its CQ, and its entry is free; one whose CQ is gone is
dropped. -/
def writeCompl (s : State) (o : Op) (c : Completion) : State :=
  let free (s : State) : State := detachCheck { s with ops := s.ops.filter fun x => x.id != o.id }
  match ring? s o.cq with
  | none => free s
  | some r =>
    if r.ty ≠ .cq ∨ r.ctx ≠ o.ctx then free s
    else if r.full then s
    else free (ringPutAs s o.cq (dctxOf o.first) (complWords o c) o.irq)

def execCompletionWrite (op : OpId) (s : State) : Out :=
  .next (
    match op? s op with
    | some o => (match o.phase with | .completed c => writeCompl s o c | _ => s)
    | none => s)

def execInterruptDelayExpiry (ring : RingId) (s : State) : Out :=
  .next (
    match ring? s ring with
    | some r =>
      if r.intEn && 0 < r.intCount then
        msixSend (modRing s ring fun r => { r with intCount := 0 }) r.vector
      else s
    | none => s)

end Sys2Proof.Machine
end

