-- ==== Sys2Proof/Machine/Ctxs.lean ====
section
/-! DEFINITION. The context and ring descriptors, 0x00 to 0x08 (02_host_rings, R77 to R90). -/

namespace Sys2Proof.Machine

def execNop (op : OpId) (s : State) : Out :=
  .next (runDesc s op 0x00 fun s _ _ => finishOp s op stOk [])

/-- The target of opcodes 0x02 to 0x08. -/
def targetOf (d : List Word) : CtxId := bits (wd d 2) 11 0

/-- The target is open and not ending. -/
def targetOpen (s : State) (c : CtxId) : Bool :=
  match ctx? s c with
  | some x => x.phase == .normal
  | none => false

/-- The lowest number that no context has. -/
def lowestFree (s : State) : Option CtxId := (List.range 4096).find? fun n => !isOpen s n

/-- A context opens with its cap (R79, R80). -/
def openCtx (s : State) (c : CtxId) (quota : Nat) : State :=
  { s with ctxs := s.ctxs ++ [{ num := c, quota := quota }] }

def execCtxOpen (op : OpId) (s : State) : Out :=
  .next (runDesc s op 0x01 fun s _ d =>
    match lowestFree s with
    | none => finishOp s op eNoContext []
    | some n =>
      let any : Bool := (wd d 2).getLsbD 31
      let c := if any then n else targetOf d
      if !any && isOpen s c then finishOp s op eOwned []
      else finishOp (openCtx s c (bits (wd d 3) 13 0)) op stOk [BitVec.ofNat 32 c])

/-- A CTX_ABORT or CTX_CLOSE begins on a context other than 0 (R83, R84). -/
def beginEnd (s : State) (op : OpId) (d : List Word) (ph : CtxPhase) : State :=
  let c := targetOf d
  if c = 0 || !targetOpen s c then finishOp s op eContext []
  else
    ctxDrained (abortCtx (modCtx s c fun x => { x with phase := ph, aborted := 0 }) c) c

def execCtxClose (op : OpId) (s : State) : Out :=
  .next (runDesc s op 0x02 fun s _ d => beginEnd s op d (.closing (some op)))

def execCtxAbort (op : OpId) (s : State) : Out :=
  .next (runDesc s op 0x03 fun s _ d => beginEnd s op d (.aborting (some op)))

def execCtxOpsDrained (ctx : CtxId) (s : State) : Out := .next (ctxDrained s ctx)

/-- The resources a RES_CLAIM or RES_RELEASE names (Table HST-11). -/
def claimedBy (d : List Word) : List Res :=
  (ixs 16 fun p => (wd d 3).getLsbD p.val).map .plaza ++
  (ixs 4 fun k => (wd d 3).getLsbD (16 + k.val)).map .re ++
  (if (wd d 3).getLsbD 20 then [.portM] else []) ++
  (ixs 32 fun n => (wd d 4).getLsbD n.val).map .dps ++
  (ixs 64 fun n => (wd64 d 5).testBit n.val).map .tmu ++
  (ixs 64 fun n => (wd64 d 7).testBit n.val).map .lane

/-- Another context holds one of some resources. -/
def heldElsewhere (s : State) (c : CtxId) (rs : List Res) : Bool :=
  rs.any fun r => match holder s r with | some x => x != c | none => false

def execResClaim (op : OpId) (s : State) : Out :=
  .next (runDesc s op 0x04 fun s _ d =>
    let c := targetOf d
    let rs := claimedBy d
    if !targetOpen s c then finishOp s op eContext []
    else if heldElsewhere s c rs then finishOp s op eOwned []
    else finishOp (rs.foldl (fun s r => setHolder s r (some c)) s) op stOk [])

def execResRelease (op : OpId) (s : State) : Out :=
  .next (runDesc s op 0x05 fun s _ d =>
    let c := targetOf d
    let rs := claimedBy d
    if !targetOpen s c then finishOp s op eContext []
    else
      match claimCheck s c rs with
      | some st => finishOp s op st []
      | none =>
        if !(rs.flatMap engsOf).all (isOff s) then finishOp s op eArg []
        else finishOp (rs.foldl releaseRes s) op stOk [])

/-- The ring a RING_ATTACH or RING_DETACH names. -/
def ringNamed (d : List Word) : RingId := bits (wd d 3) 14 0

/-- The status of attaching a ring to context c (R87, R90). -/
def attachCheck (s : State) (c : CtxId) (r : Option Ring) : Option (BitVec 8) :=
  match r with
  | none => some eArg
  | some r =>
    if r.ty == .sq && !(s.rings.any fun q => q.num == r.cqring && q.ty == .cq && q.ctx == c) then
      some eArg
    else if r.ty == .eq && (eqOf s c).isSome then some eArg
    else none

def execRingAttach (op : OpId) (s : State) : Out :=
  .next (runDesc s op 0x06 fun s _ d =>
    let c := targetOf d
    let n := ringNamed d
    if !targetOpen s c then finishOp s op eContext []
    else
      match ring? s n with
      | some q => finishOp s op (if q.ctx = c then eArg else eOwned) []
      | none =>
        let r := ringEntry s n c
        match attachCheck s c r with
        | some st => finishOp s op st []
        | none => finishOp { s with rings := s.rings ++ r.toList } op stOk [])

/-- A ring that may not be detached: a CQ that an attached SQ names, an MQ that a Plaza of an open step names
(R89, R241). -/
def detachBarred (s : State) (r : Ring) : Bool :=
  (r.ty == .cq && s.rings.any fun q => q.ty == .sq && q.cqring == r.num) ||
  (r.ty == .mq && s.steps.any fun t => (plazasOf t.plazas).any fun p => mqOf s p == some r.num)

def execRingDetach (op : OpId) (s : State) : Out :=
  .next (runDesc s op 0x07 fun s _ d =>
    let c := targetOf d
    let n := ringNamed d
    if !targetOpen s c then finishOp s op eContext []
    else
      match ring? s n with
      | none => finishOp s op eArg []
      | some r =>
        if r.ctx ≠ c then finishOp s op eOwned []
        else if detachBarred s r || r.detach.isSome then finishOp s op eArg []
        else if r.ty = .sq then
          detachCheck (modRing s n fun r => { r with detach := some op })
        else finishOp (detachRing s n) op stOk [0])

/-- Operations of context c in the operation table, the query apart. -/
def outstanding (s : State) (c : CtxId) : Nat := (s.ops.filter fun o => o.ctx == c).length

def execCtxQuery (op : OpId) (s : State) : Out :=
  .next (runDesc s op 0x08 fun s _ d =>
    let c := targetOf d
    match ctx? s c with
    | none => finishOp s op eContext []
    | some x =>
      if !targetOpen s c then finishOp s op eContext []
      else finishOp s op stOk
        [1, BitVec.ofNat 32 (outstanding s c), BitVec.ofNat 32 x.quota])

end Sys2Proof.Machine
end

