-- ==== Sys2Proof/Machine/Power.lean ====
section
/-! DEFINITION. Power states: requests, changes, DEEP SLEEP and its wakes (01_architecture, R33 to R39, R48,
R52). -/

namespace Sys2Proof.Machine

/-- Every output opens, every DPS is isolated, the Commons lines are released (R48, R52). -/
def harmless (s : State) : State :=
  let s := (List.finRange 16).foldl (fun s p =>
    modAwg (mapChans s p fun _ ch => openChan ch) p fun A => { A with sAwg := false }) s
  let s := (List.finRange 32).foldl (fun s n =>
    modDps s n fun D => { D with sDps := false, sink := false, parked := false }) s
  { s with cm := { s.cm with armDriven := false, fireDriven := false, haltDriven := false } }

/-- Every engine that R33 names is OFF. -/
def allOff (s : State) : Bool := allEngs.all (isOff s)

/-- A request is refused (R33, R37). -/
def refuse (s : State) : State := { s with glb := { s.glb with refused := true } }

/-- A change of state begins. -/
def beginChange (s : State) (dest : PwrState) : State :=
  { s with glb := { s.glb with busy := true, target := dest } }

/-- A W1024 in ACTIVE or IDLE goes down to STANDBY, or on to DEEP SLEEP, if every engine is OFF. -/
def goDown (s : State) (dest : PwrState) : State :=
  if allOff s then beginChange (harmless s) dest else refuse s

/-- PE-die state is lost (Table ARC-5): channels at rest, PE rails down, no temperature sample. DESIGN CHOICE (the
spec names no outcome for a CMP_SELFTEST in progress, whose Plazas are OFF and let the request pass,
notes/assumptions/230.md): the test finds no tested channel any more, and ends with OK, 0 channels tested and
a result buffer of zeros. -/
def losePe (s : State) : State :=
  let s := (List.finRange 16).foldl (fun s p =>
    modPlz (mapChans s p fun _ _ => {}) p fun P => { P with psup := 0 }) (harmless s)
  let s := railsDown s 5
  (List.finRange 8).foldl (fun s d => unsampled s (Fin.ofNat 10 d.val)) s

/-- The return to ACTIVE begins (R36): the park store is loaded and checked as at every load (R51, R126),
every DAC takes its code from it, PE rails start, level and timing sets take their defaults (R112, R141),
and no band is applied until the first samples (R150). -/
def goUp (s : State) : State :=
  let s := beginChange s .active
  let s := (List.finRange 16).foldl (fun s p =>
    modTim s p fun t => { t with applied := 0, stale := false }) (firstCodes (parkLoad s) true)
  bringUp s

/-- STANDBY or DEEP SLEEP is accepted in STANDBY (R33, R37): the state moves, and DEEP SLEEP is entered where
the link is in L2 or L3 already. -/
def stayDown (s : State) (dest : PwrState) : State :=
  if !allOff s then refuse s
  else
    let s := { s with glb := { s.glb with pwr := dest } }
    if dest = .deepReq && s.glb.linkL23 then sleepNow s else s

/-- A requested state is acted on (R33, R37): 0 and 3 ACTIVE, 1 STANDBY, 2 DEEP SLEEP. -/
def actOn (s : State) (r : BitVec 2) : State :=
  let down : Bool := s.glb.pwr == .standby || s.glb.pwr == .deepReq
  if r = 1 then (if down then stayDown s .standby else goDown s .standby)
  else if r = 2 then (if down then stayDown s .deepReq else goDown s .deepReq)
  else if down then goUp s
  else s

/-- The request names the state (R39). -/
def names (r : BitVec 2) (p : PwrState) : Bool :=
  match p with
  | .standby => r == 1
  | .deepReq => r == 2
  | .active => r == 0 || r == 3
  | _ => false

/-- REQ is written (R33, R39); a write travels over a link that is in L0. -/
def writePwrReq (s : State) (r : BitVec 2) : State :=
  let s := { s with glb := { s.glb with req := r, linkL23 := false } }
  if s.glb.busy then { s with glb := { s.glb with heldReq := some r } } else actOn s r

def execPwrReqActive (s : State) : Out := .next (if barsOn s then writePwrReq s 0 else s)

def execPwrReqStandby (s : State) : Out := .next (if barsOn s then writePwrReq s 1 else s)

def execPwrReqDeepSleep (s : State) : Out := .next (if barsOn s then writePwrReq s 2 else s)

/-- Everything the return to ACTIVE waits for is done: the rails have settled and every powered PE die has been
sampled (R36; notes/assumptions/229.md). -/
def upReady (s : State) : Bool := railsSettled s && peSampled s

/-- A change ends: BUSY clears, outputs take their places, and a held request is acted on unless it names the
state being entered (R39). -/
def changeDone (s : State) : State :=
  let dest := s.glb.target
  let s := { s with glb := { s.glb with busy := false, pwr := dest } }
  let s := if dest = .active then idleCheck (parkAll s) else losePe s
  let held := s.glb.heldReq.filter fun r => !names r dest
  let s := { s with glb := { s.glb with heldReq := none } }
  match held with
  | some r => actOn s r
  | none => if dest = .deepReq && s.glb.linkL23 then sleepNow s else s

def execPowerStateChangeDone (s : State) : Out :=
  .next (if s.glb.busy && (s.glb.target != .active || upReady s) then changeDone s else s)

/-- DEEP SLEEP is entered once it has been requested and STANDBY reached (R37). -/
def execLinkL2L3Entry (s : State) : Out :=
  .next (
    if !linkUp s then s
    else
      let s := { s with glb := { s.glb with linkL23 := true } }
      if s.glb.pwr = .deepReq && !s.glb.busy then sleepNow s else s)
where
  linkUp (s : State) : Bool := !s.glb.por && !s.glb.perst && s.glb.pwr != .deepSleep

/-- The request is cancelled (R37). -/
def execDeepSleepRequestTimeout (s : State) : Out :=
  .next (
    if s.glb.linkL23 then s
    else if s.glb.busy && s.glb.target == .deepReq then
      refuse { s with glb := { s.glb with target := .standby } }
    else if !s.glb.busy && s.glb.pwr == .deepReq then
      refuse { s with glb := { s.glb with pwr := .standby } }
    else s)

/-- WAKE_N, driven by this W1024 or another, wakes it from DEEP SLEEP (R38). -/
def execWakeNLow (s : State) : Out :=
  .next (if s.glb.pwr = .deepSleep then wakeNow s else s)

end Sys2Proof.Machine
end

