-- ==== Sys2Proof/Machine/PortS.lean ====
section
/-! DEFINITION. Port S: frames, the status byte, commands in command and chain mode, mailboxes
(14_serial_ports, R401 to R410). -/

namespace Sys2Proof.Machine

/-- READY (R405). -/
def psReady (s : State) : Bool := barsOn s && s.glb.pwr != .deepSleep

/-- Port S is powered: it lies in the Lichen domain. -/
def psAlive (s : State) : Bool := railGood s .vlich

def setPs (s : State) (f : Ps → Ps) : State := { s with ps := f s.ps }

def psDeny (s : State) : State := setPs s fun p => { p with denied := true, sDenied := true }
def psShort (s : State) : State := setPs s fun p => { p with short := true, sShort := true }
def psOver (s : State) : State := setPs s fun p => { p with overclk := true, sOver := true }

/-- The status byte (Table SER-7). -/
def psStatus (s : State) : Nat :=
  let p := s.ps
  let hot : Bool := (List.finRange 10).any fun d =>
    (s.thm.dies[d]).warn || (s.thm.dies[d]).throttle || (s.thm.dies[d]).trip
  at_ 7 (b2n (psReady s)) + at_ 6 (b2n (psSlow s)) + at_ 5 (b2n p.toMcFull) + at_ 4 (b2n hot) +
    at_ 3 (b2n p.sOver) + at_ 2 (b2n p.sShort) + at_ 1 (b2n p.sTuTmo) + b2n p.sDenied

/-! ### Commands (Table SER-8) -/

/-- The word that a READ returns is shown on PS_SDO, or kept for the next chain response. -/
def psAnswer (s : State) (addr : BitVec 16) (w : Word) : State :=
  let s := { s with rdata := bvBytes 4 w }
  setPs s fun p =>
    if s.glb.psChain then { p with lastAddr := addr, lastData := w } else { p with taken := some w }

/-- A register of the Lichen groups of Table MAP-12, as DEEP SLEEP serves it (R405). -/
def lichenReg (s : State) (off : Nat) : Option Word :=
  if (0xC000 ≤ off && off < 0xC200) || off = 0xC210 || off = 0xE020 || off = 0xE024 || off = 0xE028 ||
      off = 0xF004 then readReg s off
  else if off = 0xB110 then some (readPwrEvt (lichenFlags s.pwr.evt))
  else none

/-- A READ of PS_MB_TOMC takes the mail (R410). -/
def psTaken (s : State) (off : Nat) : State :=
  if off = 0xE028 then setPs s fun p => { p with toMcFull := false } else s

def psReadCmd (s : State) (addr : BitVec 16) : State :=
  let off := 4 * addr.toNat
  if psReady s then
    let r := readAs s .portS off
    psAnswer (psTaken r.2 off) addr r.1
  else if s.glb.pwr = .deepSleep then
    match lichenReg s off with
    | some w => psAnswer (psTaken s off) addr w
    | none => psAnswer (psDeny s) addr 0
  else
    setPs (psDeny { s with rdata := List.replicate 4 0 }) fun p =>
      if s.glb.psChain then p else { p with taken := some 0 }

/-- A WRITE to PS_MB_TOHOST, while it is empty, and PS_MAIL (R407, R410). -/
def psWriteCmd (s : State) (addr : BitVec 16) (w : Word) : State :=
  if !psReady s || addr != 0x3809 || s.ps.toHostFull then psDeny s
  else postEq (setPs s fun p => { p with toHost := w, toHostFull := true }) none (mkEq s 0x0012 0 w 0)

def psWakeCmd (s : State) : State := if s.glb.pwr = .deepSleep then wakeNow s else s

/-! ### Frames (R403, R406, R408) -/

/-- PS_SEL_N falls: the status byte or the response word is loaded, and bits 3 to 0 clear. -/
def psStart (s : State) : State :=
  if s.ps.inFrame || !psAlive s then s
  else
    let st := psStatus s
    let resp : Nat :=
      if s.glb.psChain then
        at_ 56 st + at_ 40 s.ps.lastAddr.toNat + at_ 32 (0xC0 + s.glb.chipid.toNat) + s.ps.lastData.toNat
      else st
    let slow := psSlowNow s
    setPs s fun p =>
      { p with inFrame := true, abandoned := false, slow := slow, resp := BitVec.ofNat 64 resp, sOver := false,
               sShort := false, sTuTmo := false, sDenied := false, taken := none,
               sdo := some (resp.testBit (if s.glb.psChain then 63 else 7)) }

/-- Bits of a status byte that was not sent whole still stand. -/
def psUnsent (p : Ps) : Ps :=
  { p with sOver := p.sOver || p.resp.getLsbD 3, sShort := p.sShort || p.resp.getLsbD 2,
           sTuTmo := p.sTuTmo || p.resp.getLsbD 1, sDenied := p.sDenied || p.resp.getLsbD 0 }

/-- A frame of n bits in command mode; x holds them, the first uppermost. A READ whose ADDR was seen complete
has been made (R404). -/
def psCommand (s : State) (n : Nat) (x : Nat) : State :=
  let addr : BitVec 16 := BitVec.ofNat 16 (x / 2 ^ (n - 24))
  let early (len : Nat) (s : State) : State := if n < len then psShort s else if len < n then psOver s else s
  if n < 8 then psShort s
  else
    match x / 2 ^ (n - 8) % 256 with
    | 0 => early 8 s
    | 1 =>
      if 24 ≤ n then early 64 (if s.ps.taken.isSome then s else psReadCmd s addr)
      else if psReady s || s.glb.pwr == .deepSleep then psShort s
      else psShort (psDeny s)
    | 2 =>
      let k := min (n - 24) 32
      if 24 < n then early 56 (psWriteCmd s addr (BitVec.ofNat 32 (x / 2 ^ (n - 24 - k) % 2 ^ k)))
      else if psReady s then psShort s
      else psShort (psDeny s)
    | 3 => psWakeCmd (early 8 s)
    | _ => psDeny s

/-- The word of a chain frame; it acts only with its key (Table SER-9). -/
def psChainWord (s : State) (n : Nat) (w : BitVec 64) : State :=
  let s := if n % 64 = 0 then s else psShort s
  let addr : BitVec 16 := BitVec.ofNat 16 (bits w 55 40)
  if bits w 39 32 ≠ 0x5A then s
  else
    match bits w 63 56 with
    | 0 => s
    | 1 => psReadCmd s addr
    | 2 => psWriteCmd s addr (w.setWidth 32)
    | 3 => psWakeCmd s
    | _ => psDeny s

/-- What PS_SDO carries in a frame, edge by edge, where x is what n edges bring. Command mode: the status byte, for a
READ 24 zero bits and the data, zeros beyond (Table SER-8, R406); chain mode: the response word, and the bits shifted
in pass on behind it (R408). -/
def psStream (s : State) (n x : Nat) : List Bool :=
  let resp := s.ps.resp.toNat
  if s.glb.psChain then bitsOf 64 resp ++ bitsOf n x
  else bitsOf 8 resp ++ (match s.ps.taken with
    | some w => List.replicate 24 false ++ bitsOf 32 w.toNat
    | none => []) ++ List.replicate n false

/-- What PS_SDO carried in a frame of n bits whose command has acted. -/
def psShown (s : State) (n x : Nat) : List Bool := (psStream s n x).take n

/-- What PS_SDO carried in a frame that port S abandoned: the bit at which it stopped, from there on (R409). -/
def psHeld (s : State) (n x : Nat) : List Bool :=
  ((psStream s n x).take (min n s.ps.cut)) ++ List.replicate (n - s.ps.cut) (s.ps.sdo.getD false)

/-- PS_SEL_N rises after n bits, the first uppermost in data: the frame is counted and acts, unless it was
abandoned (R409); PS_SDO is high-impedance then (R401). -/
def psEnd (s : State) (n : Nat) (data : Nat) : State :=
  if !s.ps.inFrame || !psAlive s then s
  else
    let chain := s.glb.psChain
    let gone := s.ps.abandoned
    let x := data % 2 ^ n
    let held := psHeld s n x
    let s := setPs s fun p =>
      let p := if !chain && (n < 8 || (gone && p.cut < 8)) then psUnsent p else p
      { p with inFrame := false, abandoned := false, frames := p.frames + 1, sdo := none }
    if gone then setPs s fun p => { p with shown := held }
    else
      let t := if chain then psChainWord s n (BitVec.ofNat 64 x) else psCommand s n x
      setPs t fun p => { p with shown := psShown t n x }

def execPsFrameStart (s : State) : Out := .next (psStart s)

def execPsFrameEnd (nbits : Nat) (data : Nat) (s : State) : Out := .next (psEnd s nbits data)

/-- A whole frame that carries one command, while no frame is in progress (notes/assumptions/45.md). -/
def psWhole (s : State) (code : Nat) (addr : BitVec 16) (w : Word) : State :=
  if s.ps.inFrame then s
  else
    let t := psStart s
    if s.glb.psChain then
      psEnd t 64 (at_ 56 code + at_ 40 addr.toNat + at_ 32 0x5A + w.toNat)
    else
      match code with
      | 1 => psEnd t 64 (at_ 56 1 + at_ 40 addr.toNat)
      | 2 => psEnd t 56 (at_ 48 2 + at_ 32 addr.toNat + w.toNat)
      | c => psEnd t 8 c

def execPsNop (s : State) : Out := .next (psWhole s 0 0 0)

/-- A READ: in a command-mode frame in progress, the instant at which its ADDR is complete; else a whole frame
(R404). DESIGN CHOICE (log 235). -/
def execPsRead (addr : BitVec 16) (s : State) : Out :=
  .next (
    if s.ps.inFrame then
      if s.ps.abandoned || s.glb.psChain || s.ps.taken.isSome || !psAlive s then s
      else setPs (psReadCmd s addr) fun p => { p with sdo := some false }
    else psWhole s 1 addr 0)

def execPsWrite (addr : BitVec 16) (data : Word) (s : State) : Out := .next (psWhole s 2 addr data)

def execPsWake (s : State) : Out := .next (psWhole s 3 0 0)

/-- TU has passed without an edge: nothing of the frame acts; PS_SDO stays at the bit it shows (R409). DESIGN CHOICE
(log 235): no command tells after how many edges, nor what had come in by then; both are free. -/
def execPsFrameAbandon (s : State) : Out :=
  .next (
    if s.ps.inFrame && !s.ps.abandoned && psAlive s then
      let f := takeFree s 33
      let k := (if s.ps.taken.isSome then 24 else 1) + bits f.1 31 0
      let passed : Bool := s.glb.psChain && 64 ≤ k
      let bit := if passed then f.1.getLsbD 32 else (psStream s 0 0).getD k false
      setPs f.2 fun p =>
        { p with abandoned := true, cut := k, tuTmo := true, sTuTmo := true, sdo := some bit }
    else s)

/-- The host writes mail for the management controller (R410). -/
def writeToMc (s : State) (w : Word) : State := setPs s fun p => { p with toMc := w, toMcFull := true }

def execPsMbTomcWrite (w : Word) (s : State) : Out := .next (if barsOn s then writeToMc s w else s)

end Sys2Proof.Machine
end

