-- ==== Sys2Proof/Machine/Faults.lean ====
section
/-! DEFINITION. Firmware restart, self-reset, the fault aggregator and the writing of EQ records
(15_boot_security_recovery, R424 to R430). -/

namespace Sys2Proof.Machine

/-! ### Firmware restart (R424) -/

/-- A firmware restart was made in the last 10 s: 16,000,000,000 CCLK ticks. -/
def restartRecent (s : State) : Bool :=
  match s.boot.restartAt with
  | some t => decide ((s.now - t).toNat ≤ 16000000000)
  | none => false

/-- The firmware watchdog's period passes: a firmware restart follows, or, for the second time, a
self-reset. -/
def execFwWatchdogExpiry (s : State) : Out :=
  .next (
    match s.boot.stage with
    | .running =>
      let s := report s 176 fcFwWdog
      if restartRecent s then selfReset s .watchdog
      else { s with boot := { s.boot with restartDue := some true } }
    | .restarting => selfReset (report s 176 fcFwWdog) .watchdog
    | _ => s)

/-- Calibration procedures in progress end with E_ABORTED. -/
def abortCals (s : State) : State :=
  s.cal.running.foldl (fun s r => leaveMon (finishOp s r.op eAborted []) r.op) s

/-- The firmware can be read again and has its digest. -/
def fwReread (s : State) : Bool :=
  (getEng s .portM).st != .off && (getEng s .portM).st != .fault && fwGood s s.boot.runMan

/-- A restart that is due: FW_RESTART, the reread, and RESTARTING until the firmware declares itself
RUNNING; a digest mismatch leads to a self-reset. The control cores are reset: none of their reads waits. -/
def restartNow (s : State) (watchdog : Bool) : State :=
  let s := abortCals s
  let s := postEq s none (mkEq s 0x0015 0 (BitVec.ofNat 32 (b2n watchdog)) 0)
  let r := { s.boot.rst with restarts := min (s.boot.rst.restarts + 1) 255, fwRestart := true }
  let s := { s with boot := { s.boot with stage := .restarting, restartDue := none, restartAt := some s.now,
                                          rst := r },
                    pm := { s.pm with reads := s.pm.reads.filter fun r => !r.core } }
  if fwReread s then s else selfReset s .watchdog

def execFirmwareRestart (watchdog : Bool) (s : State) : Out :=
  .next (
    if s.boot.restartDue = some watchdog ∧ s.boot.stage = .running then restartNow s watchdog else s)

/-! ### Self-reset (R425) -/

/-- SELF_RESET is written: 0x0000_A5C3 starts a self-reset. -/
def writeSelfReset (s : State) (w : Word) : State := if w = 0xA5C3 then selfReset s .host else s

def execSelfResetWrite (w : Word) (s : State) : Out := .next (if barsOn s then writeSelfReset s w else s)

def execChipLevelSelfReset (cause : SelfCause) (s : State) : Out := .next (selfReset s cause)

/-- Every outstanding operation completes with E_INTERNAL, and its completion is written where its CQ has
room. -/
def endAllInternal (s : State) : State :=
  let s := completeAll s ((s.ops.filter (·.live)).map (·.id)) eInternal
  s.ops.foldl (fun s o => match o.phase with | .completed c => writeCompl s o c | _ => s) s

def execInternalConsistencyFailure (s : State) : Out :=
  .next (
    if linkAlive s then selfReset (endAllInternal (report s 176 fcInternal)) .internal else s)

/-! ### The fault aggregator (R427, R428) -/

/-- Report a goes before report b as the first cause. -/
def ranks (a b : Report) : Bool :=
  let set (r : Report) : Bool := r.code == fcLinkSet
  decide (a.stamp < b.stamp) ||
    (a.stamp == b.stamp && ((!set a && set b) || (set a == set b && decide (a.src < b.src))))

/-- A new first cause is latched and FAULT_ANY fires (Table LAN-1). -/
def latchFirst (s : State) (r : Report) : State :=
  fire { s with fag := { s.fag with fcode := r.code, source := r.src } } 0x86 r.code.toNat

/-- A report arrives at the aggregator. -/
def arrive (s : State) (r : Report) : State :=
  let bit : BitVec 256 := 1#256 <<< r.src.toNat
  match s.fag.window with
  | none =>
    let w : Window := { bitmap := bit, events := 1, first := r, opened := s.now }
    latchFirst { s with fag := { s.fag with window := some w } } r
  | some w =>
    let first : Bool := ranks r w.first
    let w' : Window := { w with bitmap := w.bitmap ||| bit, events := min (w.events + 1) (2 ^ 32 - 1),
                                first := if first then r else w.first }
    let s := { s with fag := { s.fag with window := some w' } }
    if first then latchFirst s r else s

/-- The oldest report of a source that is on its way arrives. -/
def execFaultReport (src : BitVec 8) (s : State) : Out :=
  .next (
    match s.fag.inFlight.find? fun r => r.src == src with
    | none => s
    | some r => arrive { s with fag := { s.fag with inFlight := s.fag.inFlight.erase r } } r)

/-- The context that holds a fault source (R428). -/
def sourceHolder (s : State) (n : Nat) : Option CtxId :=
  if n < 16 then holder s (.plaza (Fin.ofNat 16 n))
  else if n < 48 then holder s (.dps (Fin.ofNat 32 (n - 16)))
  else if n < 64 then holder s (.plaza (Fin.ofNat 16 (n - 48)))
  else if n < 80 then holder s (.plaza (Fin.ofNat 16 (n - 64)))
  else if n < 144 then holder s (.tmu (Fin.ofNat 64 (n - 80)))
  else if n < 148 then holder s (.re (Fin.ofNat 4 (n - 144)))
  else if n = 148 then holder s .portM
  else if 160 ≤ n && n < 176 then holder s (.plaza (Fin.ofNat 16 (n - 160)))
  else none

/-- A bit of the storm bitmap from a to b - 1 is set. -/
def anyIn (m : BitVec 256) (a b : Nat) : Bool := m.toNat / 2 ^ a % 2 ^ (b - a) != 0

/-- Class bits of a bitmap (Table BOOT-9). -/
def classBits (m : BitVec 256) : Nat :=
  at_ 0 (b2n (anyIn m 0 16)) + at_ 1 (b2n (anyIn m 16 48)) + at_ 2 (b2n (anyIn m 48 64)) +
  at_ 3 (b2n (anyIn m 64 80)) + at_ 4 (b2n (anyIn m 80 144)) + at_ 5 (b2n (anyIn m 144 148)) +
  at_ 6 (b2n (anyIn m 148 149)) + at_ 7 (b2n (anyIn m 149 150)) + at_ 8 (b2n (anyIn m 150 160)) +
  at_ 9 (b2n (anyIn m 160 176)) + at_ 10 (b2n (anyIn m 176 177)) + at_ 11 (b2n (anyIn m 177 178))

/-- The number of sources in a bitmap. -/
def sourceCount (m : BitVec 256) : Nat := (List.range 256).countP fun i => m.getLsbD i

/-- The FAULT record of a window of `us` microseconds. -/
def faultRec (w : Window) (us : Nat) : EqRec :=
  { code := 1, index := w.first.src.setWidth 16, time := w.first.stamp,
    w4 := BitVec.ofNat 32 (at_ 24 w.first.code.toNat + at_ 16 (b2n w.merged) + w.first.src.toNat),
    w5 := BitVec.ofNat 32 w.events,
    w6 := BitVec.ofNat 32 (at_ 16 (sourceCount w.bitmap) + us),
    w7 := BitVec.ofNat 32 (classBits w.bitmap) }

/-- Length in microseconds of a window that closes: WINDOW_US, or how long a held one stayed open (R430). -/
def windowLen (s : State) (w : Window) : Nat × State :=
  if w.held then
    let q := openDiv s ((s.now - w.opened).toNat : Int) 1600
    (min q.1.toNat 65535, q.2)
  else (max s.fag.windowUs.toNat 1, s)

/-- The window closes: its FAULT record takes a pending entry and FAG_MAP the bitmap; without an entry the
record is held open (R428, R430). -/
def closeWindow (s : State) : State :=
  match s.fag.window with
  | none => s
  | some w =>
    let c := sourceHolder s w.first.src.toNat
    if eqRoom (eqPendOf s (eqTarget s c)) true then
      let l := windowLen s w
      let s := postEq l.2 c (faultRec w l.1)
      { s with fag := { s.fag with window := none, map := w.bitmap } }
    else
      let w' : Window := { w with held := true, merged := true }
      { s with fag := { s.fag with window := some w', merged := true } }

def execStormWindowClose (s : State) : Out := .next (closeWindow s)

/-! ### Writing EQ records (R429, R430) -/

/-- The eight words of an EQ record. -/
def eqWords (r : EqRec) : List Word :=
  [BitVec.ofNat 32 (at_ 16 r.index.toNat + r.code.toNat), 0, r.time.setWidth 32,
   (r.time >>> 32).setWidth 32, r.w4, r.w5, r.w6, r.w7]

/-- A FAULT record that was held open takes the entry that has become free. -/
def heldClose (s : State) : State :=
  match s.fag.window with
  | some w => if w.held then closeWindow s else s
  | none => s

/-- What waits for a context's EQ, without its empty form. -/
def putPend (s : State) (e : EqPend) : State :=
  if e.recs.isEmpty && e.lost == 0 then { s with eqPend := s.eqPend.filter fun x => x.ctx != e.ctx }
  else setEqPend s e

/-- The oldest pending record is written where the EQ has room; after the last, EQ_LOST for those lost. -/
def writeEq (s : State) (c : CtxId) : State :=
  match eqOf s c with
  | none => if c = 0 then s else moveEq s c
  | some r =>
    let e := eqPendOf s c
    if r.full then s
    else
      match e.recs with
      | x :: rest =>
        let s := putPend s { e with recs := rest }
        heldClose (eventGone (ringPut s r.num (eqWords x) true) x)
      | [] =>
        if e.lost = 0 then s
        else
          let s := putPend s { e with lost := 0 }
          ringPut s r.num (eqWords (mkEq s 0x0014 0 (BitVec.ofNat 32 e.lost) 0)) true

def execEqRecordWrite (ctx : CtxId) (s : State) : Out := .next (writeEq s ctx)

end Sys2Proof.Machine
end

