-- ==== Sys2Proof/Machine/Measure.lean ====
section
/-! DEFINITION. The measurement commands (08_measurement, R246 to R268). -/

namespace Sys2Proof.Machine

/-! ### PMU_MEAS -/

/-- A PMU_MEAS may run: its column lies in every named Plaza's site and a FORCE to be set converts
(R250). -/
def pmuArgs (s : State) (d : List Word) : Bool :=
  ((plazasOf ((wd d 2).setWidth 16)).all fun p => bits (wd d 3) 21 16 < widthOf s p) &&
    (!(wd d 3).getLsbD 27 || (pmuSites s d).all fun x => forceOk s x.2 (wd d 13).toInt)

def execPmuMeas (op : OpId) (s : State) : Out :=
  .next (runDesc s op 0x50 fun s o d =>
    if !pmuArgs s d || !mqsBound o (pmuPlazas s d) then finishOp s op eArg []
    else queueConv s op)

/-- The conversions of one channel: NAVG codes that a MADC can give (R247, R251). -/
def pmuOk (navg : Nat) (r : PmuReading) : Bool :=
  r.codes.length == navg && r.codes.all fun n => -131072 ≤ n && n ≤ 131071

/-- The record of one site of a PMU measurement (R247, R252, Table MEA-3); a gang's full scale is that of
its members together (R122; notes/assumptions/39.md). -/
def pmuRecord (s : State) (id : OpId) (seq : Nat) (d : List Word) (x : Nat × Fin 1024)
    (r : PmuReading) : State × Bool :=
  let ch := getChan s x.2
  let qty := bits (wd d 3) 25 24
  let test := bits (wd d 3) 15 0
  let navg := bits (wd d 4) 9 0
  let valid := if qty = 0 then senseOk ch else currentOk ch
  let na : Bool := qty == 1 && 3 ≤ ch.range
  let q := chPlaza x.2
  let go := calGO s (.chDc q) (22 * (chIx x.2).val + (if qty = 0 then 20 else 15 + ch.range))
  let g : Int := 2 ^ 31 + go.1
  let sum : Int := r.codes.foldl (· + ·) 0
  let clipped : Bool := r.codes.any fun n => n == -131072 || n == 131071
  let fs := pmuScale ch.range * max ch.gang 1
  let v : Int :=
    if qty = 0 then
      divAway (10 * 10240000 * sum * g + go.2 * (131072 * navg * 2 ^ 31))
        (10 * 131072 * navg * 2 ^ 31)
    else if na then
      divAway (100 * 5 * fs * sum * g + 4 * go.2 * (131072 * navg * 2 ^ 31))
        (100 * 4 * 131072 * navg * 2 ^ 31)
    else
      divAway (1000 * 5 * fs * sum * g + 40 * go.2 * (131072 * navg * 2 ^ 31))
        (4 * 131072 * navg * 2 ^ 31)
  let sat := sat32s (if valid then v else 0)
  let del := deliver s x.1 test 1 seq (if valid then some sat.1 else none)
  let s := del.1
  let w3 := at_ 13 (b2n r.compliance) + at_ 12 (b2n del.2.2) + at_ 11 (b2n del.2.1) +
    at_ 10 (b2n sat.2) + at_ 9 (b2n clipped) + at_ 8 (b2n (!valid)) + at_ 7 (b2n na) +
    at_ 4 ch.range + qty
  let ws : List Word :=
    [w32 sat.1, BitVec.ofNat 32 w3, BitVec.ofNat 32 x.2.val, w32 ((16 * sum).tdiv navg),
     0, 0, 0, 0, 0, 0, s.now.setWidth 32, (s.now >>> 32).setWidth 32]
  (mqPost s (opMq s id q) id
    { typ := 0x20, hi := BitVec.ofNat 16 test, plaza := q, site := x.1 % 16,
      stale := (s.plz[q]).tim.stale, words := ws }, valid)

def execPmuMeasDone (op : OpId) (codes : List PmuReading) (s : State) : Out :=
  .next (onRunning s op 0x50 fun o d =>
    let xs := pmuSites s d
    if s.dram.pmu.contains op && codes.map (·.chan) == xs.map (·.2) && codes.all (pmuOk (bits (wd d 4) 9 0)) then
      let r := (xs.zip codes).foldl (fun (a : State × Nat) x =>
        let b := pmuRecord a.1 op o.seq d x.1 x.2
        (b.1, a.2 + b2n (!b.2))) (s, 0)
      let s := r.1
      let s := { s with dram := { s.dram with pmu := s.dram.pmu.filter (· != op) } }
      pumpConv (endAfter s op stOk [BitVec.ofNat 32 xs.length, BitVec.ofNat 32 r.2])
    else s)

/-! ### Acquisitions -/

/-- An ACQ may be taken: its channel lies in its Plaza and R249 and R257 hold. -/
def acqArgs (s : State) (d : List Word) : Bool :=
  bits (wd d 2) 25 16 / 64 == bits (wd d 2) 3 0 && acqReady s d

def execAcq (op : OpId) (s : State) : Out :=
  .next (runDesc s op 0x51 fun s o d =>
    let madc := (wd d 2).getLsbD 31
    if !acqArgs s d then finishOp s op eArg []
    else
      match allocRec s o.ctx (b2n madc) (4 * (wd d 6).toNat) with
      | none => finishOp s op eArg []
      | some (slot, s) =>
        let s := modRec s slot fun r =>
          { r with delta := (if madc then 500000 else 2000) * (bits (wd d 8) 15 0 + 1),
                   chan := bits (wd d 2) 25 16 }
        queueConv (modOp s op fun o => { o with aux := slot }) op)

/-- Further conversions of acquisition a; `ev`: a trigger event that has reached the converter is placed after
them. Codes its converter cannot give change nothing. -/
def noteCodes (s : State) (op : OpId) (codes : List Int) (ev : Bool) : State :=
  let f (a : Acq) : Acq :=
    if a.op = op && codes.all (acqCode a) then
      let b := a.take (acqGO s a) codes
      if ev then b.eventTrig else b
    else a
  { s with dram := { s.dram with acqs := s.dram.acqs.map f } }

/-- The conversions up to the sample boundary at which a trigger event reaches the converter; a level trigger is
found in them (R258). -/
def execAcqTrigger (op : OpId) (codes : List Int) (s : State) : Out := .next (noteCodes s op codes true)

/-- The sample at which a mask with STOP ends the acquisition, an index of its record (R234,
notes/assumptions/222.md). -/
def stopAt (s : State) (a : Acq) : Option Nat :=
  match maskFor s a with
  | some m => if m.stop && a.trigAt.isSome then (violations m a.samples).head? else none
  | none => none

/-- Why an acquisition may end now (R234, R258, Table MEA-6). -/
def acqEnds (s : State) (a : Acq) (why : AcqEndWhy) : Bool :=
  match why with
  | .full => (stopAt s a).isSome || a.full
  | .senseOpened => !senseOk (getChan s a.chan)
  | .stopped =>
    let st := (getEng s (.dg a.plaza)).st
    !a.madc && (st == .stopping || st == .pendingOn)

/-- The acquisition a ends, its record kept (R258). -/
def acqEndNow (s : State) (a : Acq) (why : AcqEndWhy) : State :=
  let stop := stopAt s a
  let xs := match stop with | some i => a.samples.take (i + 1) | none => a.samples
  let part : Bool := stop.isNone && !(why == .full || a.full)
  let trigIdx := a.trigAt.map fun t => min t a.pre
  let h := ((recAtSlot s a.slot).map (·.handle)).getD 0
  let ticks := a.start * (if a.madc then 500000 else 2000) * a.dec / 625
  let s := modRec s a.slot fun r =>
    { r with data := .samples xs, bytes := 4 * xs.length, complete := true, trigIdx := trigIdx,
             partial_ := part, stopped := stop.isSome, t0 := a.t0 + BitVec.ofNat 64 ticks }
  let s := finishOp s a.op (if part then stPartial else stOk)
    [h, BitVec.ofNat 32 xs.length,
     BitVec.ofNat 32 (2 * b2n stop.isSome + b2n (xs.any (·.ovr))),
     match trigIdx with | some i => BitVec.ofNat 32 i | none => 0xFFFFFFFF]
  pumpConv (dropAcq (maskEnd s a h xs) a.op)

/-- The last conversions of an acquisition, and why it ends: with all its samples or a mask's stop, its sense
switch opened, or its digitizer stopped, which leaves none of an acquisition not yet triggered. -/
def execAcqEnd (op : OpId) (codes : List Int) (why : AcqEndWhy) (s : State) : Out :=
  .next (
    let s := noteCodes s op codes false
    match s.dram.acqs.find? fun a => a.op == op with
    | none => s
    | some a =>
      if !acqEnds s a why then s
      else if why == .stopped && a.trigAt.isNone then killAcq s a eAborted
      else acqEndNow s a why)

/-! ### Records -/

/-- Entries that a REC_READ copies, or none where it names too many (Table MEA-4). -/
def recRange (r : Rec) (first count : Nat) : Option Nat :=
  if count = 0 then (if first ≤ r.n then some (r.n - first) else none)
  else if first + count ≤ r.n then some count else none

def execRecRead (op : OpId) (s : State) : Out :=
  .next (runDesc s op 0x52 fun s o d =>
    match recOf s o.ctx (wd d 2) with
    | none => finishOp s op eArg []
    | some r =>
      match recRange r (wd d 3).toNat (wd d 4).toNat with
      | none => finishOp s op eArg []
      | some _ => modRec s r.slot fun r => { r with readers := op :: r.readers })

def execRecReadDone (op : OpId) (s : State) : Out :=
  .next (onRunning s op 0x52 fun _ d =>
    match s.dram.recs.find? fun r => r.readers.contains op with
    | none => s
    | some r =>
      let first := (wd d 3).toNat
      let n := (recRange r first (wd d 4).toNat).getD 0
      let s := hostWrite s (wd64 d 5) (r.header ++ (((r.entries.drop first).take n).flatMap id))
      let s := modRec s r.slot fun r => { r with readers := r.readers.filter (· != op) }
      let s := finishOp s op stOk [BitVec.ofNat 32 n]
      if (r.readers.filter (· != op)).isEmpty && r.freeing.isSome then freeRec s r.slot else s)

def execRecFree (op : OpId) (s : State) : Out :=
  .next (runDesc s op 0x53 fun s o d =>
    match recOf s o.ctx (wd d 2) with
    | none => finishOp s op eArg []
    | some r =>
      if !r.complete || r.freeing.isSome then finishOp s op eArg []
      else if r.readers.isEmpty then finishOp (freeRec s r.slot) op stOk []
      else modRec s r.slot fun r => { r with freeing := some op })

/-! ### Time-measurement units -/

/-- A TMU_MEAS may be taken (R259). -/
def tmuArgs (s : State) (d : List Word) : Bool :=
  let p := tmuPlaza (Fin.ofNat 64 (bits (wd d 2) 5 0))
  let site := bits (wd d 10) 7 0
  site / 16 == p.val && site % 16 < sitesOf s p && tmuReady s d

def execTmuMeas (op : OpId) (s : State) : Out :=
  .next (runDesc s op 0x54 fun s o d =>
    let n : Fin 64 := Fin.ofNat 64 (bits (wd d 2) 5 0)
    let raw : Bool := bits (wd d 3) 31 30 == 2
    if !tmuArgs s d || !(raw || mqsBound o [Fin.ofNat 16 (bits (wd d 10) 7 0 / 16)]) then finishOp s op eArg []
    else
      match allocRec s o.ctx 2 (16 * tmuGoal d) with
      | none => finishOp s op eArg []
      | some (slot, s) =>
        let s := modRec s slot fun r =>
          { r with tmu := n.val, chan := 64 * (tmuPlaza n).val + bits (wd d 5) 5 0 }
        let s := modOp s op fun o => { o with aux := slot }
        if (s.tmu[n]).meas.isNone then tmuBegin s n op slot d
        else modTmu s n fun T => { T with queue := enqueue s op T.queue })

def execTmuGateRise (b : Fin 4) (s : State) : Out :=
  let s := fire { s with gate := s.gate.set b true } (0x94 + b.val) 0
  .next ((List.finRange 64).foldl (fun s n =>
    let d := tmuDesc s n
    if (s.tmu[n]).meas.isSome ∧ bits (wd d 3) 29 28 = 1 ∧ bits (wd d 3) 27 26 = b.val then
      tmuArmNow s n
    else s) s)

def execTmuStampReference (n : Fin 64) (s : State) : Out :=
  match (s.tmu[n]).meas with
  | some m =>
    if m.arm = .waitRef ∧ bits (wd (tmuDesc s n) 4) 31 30 = 0 then .next (tmuRef s n) else .next s
  | none => .next s

def execTmuStopEdge (n : Fin 64) (t : BitVec 48) (s : State) : Out :=
  match (s.tmu[n]).meas with
  | some m =>
    if m.arm = .measuring then .next (modMeas s n (tmuEdge (tmuDesc s n) (tmuStamp s n t.toNat))) else .next s
  | none => .next s

def execTmuMeasDone (n : Fin 64) (s : State) : Out :=
  match (s.tmu[n]).meas with
  | some m => if m.arm = .done then .next (tmuEnd s n false) else .next s
  | none => .next s

end Sys2Proof.Machine
end

