-- ==== Sys2Proof/Machine/Program.lean ====
section
/-! DEFINITION. The sequencer's instructions, and what its pipe does: vectors, decisions, jumps, HOLD,
SYNC and timing zero (05_sequencer, R165 to R194, R200). -/

namespace Sys2Proof.Machine

/-! ### Instructions (Table SEQ-3) -/

/-- The program counter moves on by one. -/
def pcNext (s : State) (p : Fin 16) : State := modRun s p fun r => { r with pc := r.pc + 1 }

/-- A VEC or RPT in a loop body waits for a segment that no pushed level lists (R181). -/
def setMissNow (P : Plaza) : Bool :=
  match P.run.issue with
  | some i => i.count != 0 && !P.run.loops.isEmpty && !resident P.seq (segOf i.vaddr) &&
      !(P.run.loops.any fun l => l.segs.contains (segOf i.vaddr))
  | none => false

/-- In HOLD, a VEC that lacks a segment which its loop does not list is noted (R181). -/
def noteMiss (s : State) (p : Fin 16) : State :=
  if (s.plz[p]).run.phase = .hold && setMissNow (s.plz[p]) then
    modRun (modSeq s p fun q => { q with setMiss := true }) p fun r => { r with setMiss := true }
  else s

/-- The Plaza enters HOLD (R185). -/
def enterHold (s : State) (p : Fin 16) : State :=
  let s := modSeq s p fun q => { q with underrun := true }
  let s := (setOf s p).foldl (fun s q => modCap s q fun c => { c with holdStale := (s.plz[q]).tim.stale }) s
  let h := (s.plz[p]).seq.holdVec
  noteMiss (modRun s p fun r =>
    { r with phase := .hold, holdAt := r.cyc.setWidth 48, holdLen := 0, holdRec := h, underrun := true,
             straight := false }) p

/-- A VEC or RPT: begun where it is the next instruction, gone on with where it waits (R168, R184). -/
def issueRow (s : State) (p : Fin 16) (opn : Nat) (rpt : Bool) : State :=
  if (s.plz[p]).run.issue.isSome then goOn s p
  else runInstr s p opn fun s i =>
    noteMiss (issueAll (modRun s p fun r =>
      { r with issue := some { vaddr := iVaddr i, count := iCount i + 1, rpt := rpt, instr := true } }) p) p

/-- A VEC that begins leaves VADDR in K0 and COUNT in K1, as its microwords do (R208, 06 Example). -/
def loadVec (s : State) (p : Fin 16) : State :=
  let i := instrAt (s.plz[p]) (s.plz[p]).run.pc
  if (s.plz[p]).run.issue.isNone && canBegin s p && opOf i == 1 && inRom s 1 then
    modUc s p fun u => { u with k := (u.k.set 0 (BitVec.ofNat 32 (iVaddr i))).set 1 (BitVec.ofNat 32 (iCount i)) }
  else s

def execVec (p : PlazaIx) (s : State) : Out := .next (issueRow (loadVec s p) p 1 false)

def execRpt (p : PlazaIx) (s : State) : Out := .next (issueRow s p 2 true)

/-- A loop level is pushed (R170, Table SEQ-5). -/
def pushLoop (s : State) (p : Fin 16) (l : LoopLvl) : State :=
  modRun s p fun r => { r with loops := l :: r.loops }

def execLoop (p : PlazaIx) (s : State) : Out :=
  .next (runInstr s p 3 fun s' i =>
    match loopCheck (s'.plz[p]) (loopPtr i) (loopLen i) with
    | .stack => faultEng s' (.plaza p) fcSeqStack
    | .limit => endProgram s' p eResidency
    | .wait => s'
    | .enter segs =>
      let r := (s'.plz[p]).run
      pcNext (pushLoop s' p
        { start := r.pc, endPc := BitVec.ofNat 16 (loopEnd i), count := loopCount i + 1, segs := segs,
          depth := r.calls.length }) p)

/-- The top loop level's count goes down; at 0 the level is popped (R170). The flag says so. -/
def endLoop (s : State) (p : Fin 16) : State × Bool :=
  match (s.plz[p]).run.loops with
  | [] => (s, true)
  | l :: rest =>
    if l.count ≤ 1 then (modRun s p fun r => { r with loops := rest }, true)
    else (modRun s p fun r => { r with loops := { l with count := l.count - 1 } :: rest }, false)

def execEndl (p : PlazaIx) (s : State) : Out :=
  .next (runInstr s p 4 fun s i =>
    match (s.plz[p]).run.loops with
    | [] => faultEng s (.plaza p) fcSeqStack
    | l :: _ =>
      if l.start ≠ iTarget i then faultEng s (.plaza p) fcSeqStack
      else
        let e := endLoop s p
        if e.2 then pcNext e.1 p else setPc e.1 p (iTarget i + 1))

/-- A call level is pushed, or the seventeenth faults (R170). -/
def pushCall (s : State) (p : Fin 16) (ret : BitVec 16) (f : State → State) : State :=
  if 16 ≤ (s.plz[p]).run.calls.length then faultEng s (.plaza p) fcSeqStack
  else f (modRun s p fun r => { r with calls := { ret := ret, depth := r.loops.length } :: r.calls })

def execCall (p : PlazaIx) (s : State) : Out :=
  .next (runInstr s p 5 fun s i =>
    pushCall s p ((s.plz[p]).run.pc + 1) fun s => setPc s p (iTarget i))

/-- The top call level and the loop levels above it are popped, or RET faults (R170, R171). -/
def popCall (s : State) (p : Fin 16) (f : BitVec 16 → State → State) : State :=
  let r := (s.plz[p]).run
  match r.calls with
  | [] => faultEng s (.plaza p) fcSeqStack
  | c :: rest =>
    if r.loops.length < c.depth then faultEng s (.plaza p) fcSeqStack
    else f c.ret (modRun s p fun r =>
      { r with calls := rest, loops := r.loops.drop (r.loops.length - c.depth) })

def execRet (p : PlazaIx) (s : State) : Out :=
  .next (runInstr s p 6 fun s _ => popCall s p fun ret s => setPc s p ret)

def execJmp (p : PlazaIx) (s : State) : Out :=
  .next (runInstr s p 7 fun s i => setPc (popLevels s p (iTarget i)) p (iTarget i))

/-- A JMPM or WAITM of Plaza p decides that its condition holds (Table LAN-1). -/
def matchFire (s : State) (p : Fin 16) (taken : Bool) : State :=
  if taken then fire s (0x11 + p.val) 0 else s

/-- JMPM tests the last vector issued; an empty vector where there is none (R174). -/
def execJmpm (p : PlazaIx) (s : State) : Out :=
  .next (runInstr s p 8 fun s i =>
    if (s.plz[p]).run.lastIss.isSome then pcNext (beginTest s p (iCond i) (iTarget i) false) p
    else
      let t := condHolds s p (iCond i) 0 (flagsOf s p)
      let s := matchFire s p t
      if t then setPc (popLevels s p (iTarget i)) p (iTarget i) else pcNext s p)

/-- The idle vector of a WAITM or SYNC can be played: its segment is resident (R184). -/
def idleReady (s : State) (p : Fin 16) (v : Nat) : Bool := resident (s.plz[p]).seq (segOf v)

def execWaitm (p : PlazaIx) (s : State) : Out :=
  .next (runInstr s p 9 fun s' i =>
    if idleReady s' p (iVaddr i) then beginWaitm s' p (iCond i) (iVaddr i) (iCount i + 1) false else s')

def execSync (p : PlazaIx) (s : State) : Out :=
  .next (runInstr s p 10 fun s' i =>
    if idleReady s' p (iVaddr i) then beginSync s' p (iCond i) (bits i 2 0) (iVaddr i) false else s')

/-- An in-stream action waits for the next vector issued (R169). -/
def addAct (s : State) (p : Fin 16) (a : Act) : State :=
  modRun s p fun r => { r with acts := r.acts ++ [a] }

def execEvt (p : PlazaIx) (s : State) : Out :=
  .next (runInstr s p 11 fun s i => pcNext (addAct s p (.evt (BitVec.ofNat 8 (bits i 7 0)))) p)

def execStepSd (p : PlazaIx) (s : State) : Out :=
  .next (runInstr s p 12 fun s i =>
    pcNext (addAct s p (.step (i.getLsbD 16) (BitVec.ofNat 15 (bits i 14 0)))) p)

def execMark (p : PlazaIx) (s : State) : Out :=
  .next (runInstr s p 13 fun s i => pcNext (addAct s p (.mark (BitVec.ofNat 16 (bits i 15 0)))) p)

def execClrf (p : PlazaIx) (s : State) : Out :=
  .next (runInstr s p 14 fun s _ => pcNext (addAct s p .clrf) p)

def execHalt (p : PlazaIx) (s : State) : Out :=
  .next (runInstr s p 15 fun s _ => endProgram s p stOk)

/-! ### What is due at the next cycle start -/

/-- The WAITM in progress has played all its repetitions (R176). -/
def waitDue (r : Run) : Bool :=
  match r.waitm with
  | some w => !hasEntry r && w.done r.ps
  | none => false

/-- A vector at v begins, a repetition of a RPT or WAITM or not: the end of a segment run lets a late request in
(R188). -/
def passSeg (r : Run) (v : Nat) (rpt : Bool) : Run :=
  { r with
    jump := if breaks r v rpt then r.jump.map fun j => { j with late := false } else r.jump,
    lastAddr := some v, lastRpt := rpt, straight := false }

/-- The shadow of a pending test must be filled with hold vectors: the control store stands at an instruction
that does not stream, and the FIFO is empty (R175). A microword MTCH of FORM 0 keeps the control store until the
outcome is there (R203), so that nothing of the fall-through path is issued: its shadow is filled in the same way
(notes/assumptions/239.md). -/
def fillDue (s : State) (p : Fin 16) : Bool :=
  let P := s.plz[p]
  let r := P.run
  !hasEntry r && r.issue.isNone &&
    (match r.test with
     | some t => t.m.isSome && !shadowFull s p t && (t.micro || !isStreamOp (opOf (instrAt P r.pc)))
     | none => false)

/-- The fill of a shadow as one entry of hold vectors (R175). The hold vector is the one last loaded, as at an entry
to HOLD (R197; notes/assumptions/240.md). -/
def fillShadow (s : State) (p : Fin 16) : State :=
  if !fillDue s p then s
  else
    let v := (s.plz[p]).seq.holdVec
    let per := recPeriod s p v
    let s := modSeq s p fun q => { q with short := true }
    let t := ((s.plz[p]).run.test.map (shadowIss s p)).getD (0, 0)
    let n := max (4 - t.1) ((40000 - t.2 + per - 1) / max per 1)
    modRun s p fun r =>
      { r with
        fifo := [{ id := r.nextId, vaddr := 0, reps := n, hold := true }], holdRec := v,
        lastIss := some r.nextId, nextId := r.nextId + 1, short := true }

/-- Something to play is there. -/
def canPlay (s : State) (p : Fin 16) : Bool :=
  let r := (s.plz[p]).run
  hasEntry r || r.waitm.isSome || r.sync.isSome || fillDue s p

/-! ### Vectors -/

/-- A shadow vector of the pending test begins (R173). -/
def shadowStep (r : Run) : Run :=
  { r with test := r.test.map fun t =>
      match t.m with
      | some m =>
        { t with played := t.played + 1, m := some (if t.played = 0 then { m with t1 := r.ps } else m) }
      | none => t }

/-- What the sequencer keeps of the last vector played, its outcome yet to come; the last of its entry is the one that a
test waits for (R172, R174). -/
def keepPlayed (s : State) (p : Fin 16) (id : Nat) (last : Bool) : State :=
  let m : Played := { id := id }
  modRun s p fun r =>
    { r with lastM := some m,
             test := r.test.map fun t => if last ∧ t.entry = id ∧ t.m.isNone then { t with m := some m } else t }

/-- The run ends once its last vector has played (R179). -/
def endIfPlayed (s : State) (p : Fin 16) : State :=
  let r := (s.plz[p]).run
  match r.ending with
  | some st => if hasEntry r then s else endRun s p st (st == stOk)
  | none => s

/-- One repetition of an entry is played. -/
def playEntry (s : State) (p : Fin 16) (e : Entry) (pins : List PinWave) : State :=
  let first : Bool := (s.plz[p]).run.cur.isNone
  let v := if e.hold then (s.plz[p]).run.holdRec else recAt s p e.vaddr
  let last : Bool := e.reps ≤ 1
  let s := if e.hold then s else jumpDone s p (s.plz[p]).run.cyc
  let s := modRun s p fun r =>
    let r := shadowStep (if e.hold then r else passSeg r e.vaddr e.rpt)
    { r with cur := if last then none else some { e with reps := e.reps - 1, acts := [] },
             fifo := if first then r.fifo.tail else r.fifo }
  let s := playCycle s p v (!e.hold) (!e.hold) e.acts (some e.id) none pins
  endIfPlayed (goOn (judgeDue (keepPlayed s p e.id last) p) p) p

/-- One repetition of a WAITM's idle vector is played, to be tested when it is judged (R176). -/
def playWait (s : State) (p : Fin 16) (w : WaitM) (pins : List PinWave) : State :=
  let s := jumpDone s p (s.plz[p]).run.cyc
  let s := modRun s p fun r => { passSeg r w.vaddr true with phase := .waiting }
  let n := w.played + 1
  let s := playCycle s p (recAt s p w.vaddr) true true w.acts (some w.id) (some n) pins
  let s := keepPlayed s p w.id true
  judgeDue (modRun s p fun r =>
    { r with waitm := some { w with acts := [], played := n, shadow := w.shadow + b2n w.hit.isSome } }) p

/-- One repetition of a SYNC's idle vector is played (R166, R177). -/
def playSync (s : State) (p : Fin 16) (y : SyncW) (pins : List PinWave) : State :=
  let s := jumpDone s p (s.plz[p]).run.cyc
  let s := modRun s p fun r => { passSeg r y.vaddr false with phase := .waiting }
  let s := playCycle s p (recAt s p y.vaddr) false true y.acts (some y.id) none pins
  let s := keepPlayed s p y.id true
  judgeDue (modRun s p fun r => { r with sync := some { y with acts := [], played := y.played + 1 } }) p

/-- One hold vector is played in HOLD (R185). -/
def playHold (s : State) (p : Fin 16) (pins : List PinWave) : State :=
  let s := playCycle s p (s.plz[p]).run.holdRec false false [] none none pins
  judgeDue (modRun s p fun r => { r with holdLen := r.holdLen + 1 }) p

/-- The end of HOLD is due: a hold vector has played and there is something to play (R185). -/
def holdOver (s : State) (p : Fin 16) : Bool := (s.plz[p]).run.holdLen != 0 && canPlay s p

/-- The pipe of leader p plays one cycle. A decision, a jump, an event or the end of HOLD that is due comes
first (R173 to R177, R185, R188). -/
def playNext (s : State) (p : Fin 16) (pins : List PinWave) : State :=
  let r := (s.plz[p]).run
  if !r.on || testDue r || waitDue r || jumpDue r then s
  else if r.phase = .hold then (if holdOver s p then s else playHold s p pins)
  else
    let s' := fillShadow s p
    let r := (s'.plz[p]).run
    match r.cur.orElse fun _ => r.fifo.head? with
    | some e => playEntry s' p e pins
    | none =>
      match r.waitm, r.sync with
      | some w, _ => playWait s' p w pins
      | none, some y => if y.ready then s else playSync s' p y pins
      | none, none => s

def execVectorPlay (p : PlazaIx) (levels : List (Fin 1024 × Int)) (steps : List PinStep) (s : State) : Out :=
  .next (playNext s p (pinWaves levels steps))

/-! ### Decisions and jumps (R174, R176, R188) -/

/-- The LOOP checks of Table SEQ-5 pass now. -/
def loopEnters (P : Plaza) (sptr slen : Nat) : Bool :=
  match loopCheck P sptr slen with
  | .enter _ => true
  | _ => false

/-- What a microword of Plaza p was found to lack is resident now (R184, R203). -/
def needMet (s : State) (p : Fin 16) : Bool :=
  let P := s.plz[p]
  P.run.phase != .none && P.run.ending.isNone &&
    (match P.uc.need with
     | some (.set a n) => loopEnters P a n
     | some (.idle v) => idleReady s p v
     | none => false)

/-- The instruction at the program counter may begin and is a VEC or RPT on a resident segment, a LOOP whose set
is resident, or a WAITM or SYNC whose idle vector is; or the microword that waited for one of these has what it
lacked (R178, R180, R184, R203). -/
def runsOn (s : State) (p : Fin 16) : Bool :=
  let P := s.plz[p]
  let i := instrAt P P.run.pc
  needMet s p || canBegin s p &&
    (match opOf i with
     | 1 => resident P.seq (segOf (iVaddr i))
     | 2 => resident P.seq (segOf (iVaddr i))
     | 3 => loopEnters P (loopPtr i) (loopLen i)
     | 9 => idleReady s p (iVaddr i)
     | 10 => idleReady s p (iVaddr i)
     | _ => false)

/-- The path has turned: without a lost cycle where it begins with a VEC or RPT on a resident segment, else the
pipe underruns (R178). A jump request that takes effect at this point turns it again (R188). -/
def startPath (s : State) (p : Fin 16) : State :=
  let P := s.plz[p]
  if P.run.phase = .hold || jumpDue P.run then s
  else if runsOn s p && opOf (instrAt P P.run.pc) ≤ 2 then modRun s p fun r => { r with straight := true }
  else enterHold s p

/-- The path turns to a target: what the FIFO holds past here is discarded, and a microword that issues it ends
(R174, R203). -/
def turnTo (s : State) (p : Fin 16) (target : BitVec 16) : State :=
  startPath (setPc (dropPipe (popLevels s p target) p) p target) p

/-- A jump request takes effect: levels pop, what is issued past here is discarded, execution goes on at its target
(R188). -/
def takeJump (s : State) (p : Fin 16) (j : JumpReq) : State :=
  startPath (modRun (dropPipe (popAll (jumpDone s p (s.plz[p]).run.cyc) p) p) p fun r =>
    { r with ending := none, pc := j.target, jump := none, jumped := j.op,
             phase := if r.phase = .hold then .hold else .running }) p

/-- The jump request that takes effect where a JMPM's decision turns the path: the segment run in play ends there, and
the request wins (R188, Table SEQ-11). -/
def jumpAtTurn (r : Run) : Option JumpReq := r.jump.filter fun j => !j.late && r.lastAddr.isSome

/-- The microword that waited for a match ends. -/
def endMatch (s : State) (p : Fin 16) (m t : Bool) : State :=
  let s := modUc s p fun u => { u with m := m, t := t }
  match (s.plz[p]).uc.wait with
  | some h => endUword s p h
  | none => s

/-- A JMPM or MTCH decides. Where the fall-through goes on, what is issued of it plays; where none is, its first vector
must come without a lost cycle, or the pipe underruns (R174, R178). A JMPM that is taken is where a pending jump request
takes effect, also where its microwords run (R200). -/
def decideTest (s : State) (p : Fin 16) (t : MatchTest) (m : Played) : State :=
  let taken := condHolds s p t.cond m.fails m.flags
  let s := matchFire s p taken
  let s' := modRun s p fun r => { r with test := none }
  let jump := (jumpAtTurn (s.plz[p]).run).filter fun _ => taken && opOf (curInstr (s.plz[p])) == 8
  if t.micro then
    match jump with
    | some j => takeJump (modUc s p fun u => { u with m := true }) p j
    | none => endMatch (modRun s' p fun r => { r with straight := true }) p taken (s.plz[p]).uc.t
  else if taken then
    match jumpAtTurn (s.plz[p]).run with
    | some j => takeJump s p j
    | none => turnTo s p t.target
  else
    let s := goOn s' p
    if hasEntry (s.plz[p]).run then s else startPath s p

def decideWait (s : State) (p : Fin 16) (w : WaitM) : State :=
  let taken := w.hit == some true
  let s := matchFire s p taken
  let s := modRun s p fun r =>
    { r with waitm := none, phase := .running,
             straight := w.micro,
             pc := if w.micro then r.pc else if taken then r.pc + 2 else r.pc + 1 }
  if w.micro then endMatch s p taken (!taken) else startPath s p

/-- The pending test decides by the outcome of its vector. -/
def decideDue (s : State) (p : Fin 16) : State :=
  match (s.plz[p]).run.test with
  | some t => match t.m with
    | some m => decideTest s p t m
    | none => s
  | none => s

def execMatchDecision (p : PlazaIx) (s : State) : Out :=
  .next (
    let r := (s.plz[p]).run
    if !r.on then s
    else if testDue r then decideDue (judgeTo s p ((r.test.map (·.entry)).getD 0)) p
    else if waitDue r then
      match r.waitm with
      | some w => decideWait s p w
      | none => s
    else s)

/-- The pending jump request takes effect (R188): it may have come after HALT has run, and then revives the run
(notes/assumptions/167.md). In-stream actions that wait go to the next vector issued (R169). A SEQ_JUMP that took effect
and whose first vector has not played when this one does ends here with the cycle number reached
(notes/assumptions/241.md). -/
def execJumpTakesEffect (p : PlazaIx) (s : State) : Out :=
  .next (
    let r := (s.plz[p]).run
    match r.jump with
    | none => s
    | some j =>
      if !r.on || !jumpDue r then s else takeJump s p j)

/-! ### HOLD and SYNC (R177, R185 to R187, R200) -/

/-- The path that has just been chosen still comes without a lost cycle: its microwords run, or its VEC or RPT may
begin on a resident segment (R178, R203). -/
def straightOn (s : State) (p : Fin 16) : Bool :=
  let P := s.plz[p]
  P.run.straight &&
    (P.uc.busy && P.uc.wait.isNone && P.run.issue.isNone || runsOn s p && opOf (instrAt P P.run.pc) ≤ 2)

def execUnderrun (p : PlazaIx) (s : State) : Out :=
  .next (
    let r := (s.plz[p]).run
    if r.phase != .running || canPlay s p || testDue r || jumpDue r || r.ending.isSome || straightOn s p then s
    else enterHold s p)

def execHoldExit (p : PlazaIx) (s : State) : Out :=
  .next (
    if (s.plz[p]).run.phase = .hold && holdOver s p then
      modRun (holdGaps s p) p fun r => { r with phase := .running }
    else s)

/-- HOLD has lasted HOLD_MS (R187); a fill that has just made the next instruction's segments resident lets the
run go on (R200). -/
def execHoldTimeout (p : PlazaIx) (s : State) : Out :=
  .next (
    if (s.plz[p]).run.phase = .hold && !canPlay s p && !runsOn s p then endRun s p eUnderrun false
    else s)

/-- The wait of a SYNC is over: actions its idle vector has not carried wait again (R169); one that played no idle vector
leaves the last vector issued as it was (R174). -/
def leaveSync (s : State) (p : Fin 16) (y : SyncW) : State :=
  modRun s p fun r =>
    { r with sync := none, acts := y.acts ++ r.acts, lastIss := if y.played = 0 then y.prev else r.lastIss,
             phase := if r.phase = .waiting then .running else r.phase }

def execSyncEvent (p : PlazaIx) (s : State) : Out :=
  .next (
    match (s.plz[p]).run.sync with
    | none => s
    | some y =>
      if !y.ready then s
      else if y.micro then endMatch (leaveSync s p y) p (s.plz[p]).uc.m false
      else pcNext (leaveSync s p y) p)

def execSyncTimeout (p : PlazaIx) (s : State) : Out :=
  .next (
    match (s.plz[p]).run.sync with
    | none => s
    | some y =>
      if y.ready then s
      else if y.micro then endMatch (leaveSync s p y) p (s.plz[p]).uc.m true
      else endProgram (leaveSync s p y) p eTimeout)

/-! ### Timing zero (R192, R193) -/

/-- A channel of a site as a run begins: parked where the site is disabled, brought back where it had been
(R191, R193). A channel in PMU_FV or PMU_FI keeps forcing in a disabled site: Table PIN-7 holds its switches closed
until its mode changes or its Plaza enters FAULT (notes/assumptions/238.md). -/
def siteChan (s : State) (en : Bool) (c : Fin 1024) (ch : Chan) : Chan :=
  if !en then restChan s c ch
  else if !pmuMode ch && ch.mode != .off && !ch.hiz && (ch.parked || !ch.sDrv) then
    takeLevel (s.plz[chPlaza c]).pin.lsCur { onChan ch with lastBit := ch.lastBit }
  else ch

/-- A run's start on one Plaza of the set: accounts, record stream and triggers begin anew under the set-up
last given (R223, R224, R230). -/
def zeroPlaza (s : State) (p q : Fin 16) : State :=
  let en := (s.plz[p]).run.siteEn
  let w := widthOf s q
  let s := mapChans s q fun c ch =>
    let ch := siteChan s (siteIn en q ((chIx c).val / w)) c ch
    { ch with lastTr := none, winEnd := none, onAt := none, offAt := none }
  let s := modCap s q fun c =>
    { c with cur := c.next, trig := c.trigNext, acct := Vector.replicate 16 {}, seqNo := 0,
             lostRun := 0, suppr := false, mfRun := false, matches_ := 0, fired := false, winLeft := 0,
             hist := [] }
  let s := modTim s q fun t => { t with edgeFree := 0 }
  let f (a : Awg) : Awg :=
    if a.run.phase = .armed ∧ a.run.trig = 2 then { a with run := { a.run with fired := true } } else a
  tmuZero (modAwg s q f) q

def execRunTimingZero (p : PlazaIx) (s : State) : Out :=
  .next (
    let r := (s.plz[p]).run
    if r.phase != .armed || !(r.arm = 0 || r.go) then s
    else
      let s := modRun s p fun r =>
        { r with phase := .running, cyc := 0, ps := 0, lastAddr := none, zero := s.nextZero,
                 zeroAt := s.now }
      let s := { s with nextZero := s.nextZero + 1 }
      (setOf s p).foldl (fun s q => zeroPlaza s p q) s)

end Sys2Proof.Machine
end

