-- ==== Sys2Proof/Machine/Micro.lean ====
section
/-! DEFINITION. Instructions at the level of microwords: the control store's rows, its watchdog and its
parity (06_control_store, R201 to R210, R218). The words of the ROM that the spec does not give are the
rows' operands (notes/assumptions/13.md). -/

namespace Sys2Proof.Machine

/-! ### Microwords as bits (Tables UCS-1 and UCS-2) -/

/-- A microword: header, UOP, operand bits. -/
def uword (h : UHdr) (uop : Nat) (operands : Nat) : Word :=
  BitVec.ofNat 32 (at_ 29 h.clen.val + at_ 28 (b2n h.last) + at_ 24 uop + operands)

/-- The words of the ROM that the spec gives, and the bits of each that it gives: the VEC routine (06, Example),
the dispatch words, BR to a routine's entry or TRAP with UCODE_ILLEGAL for an invalid OP, and HALT, which is
END 0x00 (R208, Table UCS-3); one SCLK cycle each. LAST of a TRAP or END is not given. -/
def romWord (a : Nat) : Option (Word × Word) :=
  match a with
  | 0x100 => some (0x0101B018, 0xFFFFFFFF)
  | 0x101 => some (0x0120B800, 0xFFFFFFFF)
  | 0x102 => some (0x04060000, 0xFFFFFFFF)
  | 0x103 => some (0x19000000, 0xFFFFFFFF)
  | 0x18C => some (0x0D000000, 0xEFFFFFFF)
  | _ =>
    if 32 ≤ a then none
    else if 1 ≤ a ∧ a ≤ 15 then some (0x08000000 + BitVec.ofNat 32 (romEntry a), 0xFFFFFFFF)
    else some (0x0C000000 + fcUcodeIllegal.setWidth 32, 0xEFFFFFFF)

/-- Index in the patch RAM of the word that a patched page puts at a microaddress (R205). -/
def ramIx (s : State) (a : BitVec 12) : Nat := 64 * (pageOf s a - 1) + a.toNat % 64

/-- The operand bits that Table UCS-2 names for a UOP; none for an illegal one. -/
def uopBits (uop : Nat) : Option Nat :=
  match uop with
  | 0 => some 0
  | 1 => some 0xE1F83F
  | 2 => some 0xE0FFFF
  | 3 => some 0xFFF000
  | 4 => some 0xFE0000
  | 5 => some 0xFE0000
  | 6 => some 0xFFF800
  | 7 => some 0xFC0000
  | 8 => some 0xF00FFF
  | 9 => some 0xF80000
  | 10 => some 0xFFC000
  | 11 => some 0xFF8000
  | 12 => some 0xFF
  | 13 => some 0xFF
  | _ => none

/-- A word that no microword row spells: UOP 0xE or 0xF, or a bit set that Table UCS-2 does not name
(R204; notes/assumptions/220.md). -/
def illegalWord (w : Word) : Bool :=
  match uopBits (bits w 27 24) with
  | none => true
  | some m => bits w 23 0 &&& (0xFFFFFF - m) != 0

/-- A word is legal under Table UCS-2, operands and all (R204). -/
def legalWord (w : Word) : Bool :=
  !illegalWord w &&
    (match bits w 27 24 with
     | 1 => bits w 5 0 ≤ bits w 16 11 && bits w 16 11 - bits w 5 0 ≤ 31
     | 5 => bits w 23 20 < 4
     | 6 => bits w 23 20 < 5
     | 8 => bits w 23 20 < 8
     | 9 => bits w 23 22 < 3
     | _ => true)

/-- A word that the ROM may hold where the spec does not give it: a legal one; an LCHK has CLEN = 3, an END stands in
the LOOP routine with 0x32 or in the SYNC routine with 0x20, and a TRAP only in the dispatch table (R208). -/
def romMay (a : Nat) (w : Word) : Bool :=
  legalWord w &&
    (match bits w 27 24 with
     | 7 => bits w 31 29 == 3
     | 12 => false
     | 13 => (0x110 ≤ a && a < 0x120 && bits w 7 0 == 0x32) || (0x168 ≤ a && a < 0x170 && bits w 7 0 == 0x20)
     | _ => true)

/-- A word may stand at a microaddress: it is the one the patch RAM holds, the one the ROM is known to hold, or one
that the ROM may hold (R205, R208). -/
def wordFits (s : State) (a : BitVec 12) (w : Word) : Bool :=
  if pageOf s a = 0 then
    match romWord a.toNat with
    | some x => w &&& x.2 == x.1
    | none => romMay a.toNat w
  else s.patch.ram.getD (ramIx s a) 0 == w

/-- Microwords and SCLK cycles of an instruction's longest path through the ROM (Table UCS-3). -/
def romPath (op : Nat) : Nat × Nat :=
  match op with
  | 1 => (5, 5)
  | 2 => (5, 5)
  | 3 => (9, 12)
  | 4 => (6, 6)
  | 5 => (4, 4)
  | 6 => (3, 3)
  | 7 => (4, 4)
  | 8 => (7, 7)
  | 9 => (7, 7)
  | 10 => (7, 7)
  | 11 => (4, 4)
  | 12 => (4, 4)
  | 13 => (4, 4)
  | 14 => (3, 3)
  | 15 => (2, 2)
  | _ => (1, 1)

/-- Microaddress of the word that Plaza p runs next: the dispatch word between instructions (R206). -/
def nextUaddr (P : Plaza) : BitVec 12 :=
  if P.uc.busy then P.uc.uaddr else BitVec.ofNat 12 (opOf (instrAt P P.run.pc))

/-- The END of the LOOP routine runs with E set, that of the SYNC routine with T set (R208). -/
def endFits (s : State) (p : Fin 16) (w : Word) : Bool :=
  let u := (s.plz[p]).uc
  let a := (nextUaddr (s.plz[p])).toNat
  pageOf s (nextUaddr (s.plz[p])) != 0 || bits w 27 24 != 13 ||
    !(0x110 ≤ a && a < 0x120 && !u.e || 0x168 ≤ a && a < 0x170 && !u.t)

/-- A word keeps the instruction in progress within its longest path through the ROM, where the ROM carries it out:
no further word follows the path's last (R208). -/
def pathOk (s : State) (p : Fin 16) (w : Word) : Bool :=
  let P := s.plz[p]
  let op := opOf (curInstr P)
  let ends : Bool := w.getLsbD 28 || bits w 27 24 == 12 || bits w 27 24 == 13
  !inRom s op ||
    (P.uc.count + (if ends then 1 else 2) ≤ (romPath op).1 &&
      P.uc.cycles + (bits w 31 29 + (if ends then 1 else 2)) ≤ (romPath op).2)

/-- The patch RAM of Plaza p holds an illegal word at a microaddress. -/
def illegalAt (s : State) (a : BitVec 12) : Bool :=
  pageOf s a != 0 && illegalWord (s.patch.ram.getD (ramIx s a) 0)

/-- The word at a microaddress of Plaza p disagrees with its parity bit; ROM words have none (R207). -/
def parityBad (s : State) (p : Fin 16) (a : BitVec 12) : Bool :=
  pageOf s a != 0 && (s.plz[p]).uc.upset.contains (ramIx s a)

/-- A microword may start on Plaza p: in the middle of an instruction, or at the start of one. -/
def canUword (s : State) (p : Fin 16) : Bool :=
  let P := s.plz[p]
  if P.uc.busy then
    P.run.phase != .none && P.run.ending.isNone && P.uc.wait.isNone && P.run.issue.isNone && !jumpDue P.run
  else canBegin s p

/-- At a dispatch word the count starts anew and LIMIT is taken (R209, R210). -/
def enterUword (s : State) (p : Fin 16) : State :=
  let a := nextUaddr (s.plz[p])
  if (s.plz[p]).uc.busy then s
  else
    modRun (modUc s p fun u =>
      { u with busy := true, uaddr := a, count := 0, cycles := 0, need := none, limit := s.patch.limit.toNat }) p
      fun r => { r with lastPc := r.pc }

/-- A microcode fault: its place is recorded, the Plaza goes to FAULT (R204, R207, R209). -/
def uFault (s : State) (p : Fin 16) (code : BitVec 8) : State :=
  let a := nextUaddr (s.plz[p])
  let s := modUc s p fun u => { u with fltUaddr := a, fltPc := (s.plz[p]).run.pc }
  faultEng s (.plaza p) code

/-- The row of a microword: where it may be the next word of Plaza p and its number is within LIMIT, and within the
ROM's longest path for an instruction that the ROM carries out, it runs; a word of the patch RAM with a parity
error, or one that is illegal whatever its operands, faults instead (R202, R204, R207, R209). -/
def runUword (s : State) (p : Fin 16) (w : Word) (f : State → State) : State :=
  let a := nextUaddr (s.plz[p])
  if !canUword s p then s
  else if parityBad s p a then uFault s p fcUcodeParity
  else if wordFits s a w || illegalAt s a then
    let s' := enterUword s p
    if (s'.plz[p]).uc.count < (s'.plz[p]).uc.limit then
      (if illegalAt s a then uFault s' p fcUcodeIllegal else if pathOk s' p w && endFits s' p w then f s' else s)
    else s
  else s

def kReg (s : State) (p : Fin 16) (i : Fin 8) : Word := (s.plz[p]).uc.k[i]

def setK (s : State) (p : Fin 16) (i : Fin 8) (v : Word) : State :=
  modUc s p fun u => { u with k := u.k.set i v }

/-! ### Rows -/

def execMicroNop (p : PlazaIx) (h : UHdr) (s : State) : Out :=
  .next (runUword s p (uword h 0 0) fun s => endUword s p h)

def execFld (p : PlazaIx) (h : UHdr) (dst : Fin 8) (hi lo : Fin 64) (s : State) : Out :=
  .next (runUword s p (uword h 1 (at_ 21 dst.val + at_ 11 hi.val + lo.val)) fun s =>
    if hi.val < lo.val || 31 < hi.val - lo.val then uFault s p fcUcodeIllegal
    else
      let i := curInstr (s.plz[p])
      endUword (setK s p dst (BitVec.ofNat 32 (bits i hi.val lo.val))) p h)

def execImm (p : PlazaIx) (h : UHdr) (dst : Fin 8) (val : BitVec 16) (s : State) : Out :=
  .next (runUword s p (uword h 2 (at_ 21 dst.val + val.toNat)) fun s =>
    endUword (setK s p dst (val.setWidth 32)) p h)

/-- The result of an ALU function; a shift by 32 or more is open (notes/assumptions/42.md). -/
def aluOf (s : State) (fn : Fin 8) (a b : Word) : Word × State :=
  match fn.val with
  | 0 => (a + b, s)
  | 1 => (a - b, s)
  | 2 => (a &&& b, s)
  | 3 => (a ||| b, s)
  | 4 => if b.toNat < 32 then (a <<< b.toNat, s) else takeFree s 32
  | 5 => if b.toNat < 32 then (a >>> b.toNat, s) else takeFree s 32
  | 6 => (a - 1, s)
  | _ => (a + 1, s)

def execAlu (p : PlazaIx) (h : UHdr) (dst a b fn : Fin 8) (s : State) : Out :=
  .next (runUword s p (uword h 3 (at_ 21 dst.val + at_ 18 a.val + at_ 15 b.val + at_ 12 fn.val))
    fun s =>
      let r := aluOf s fn (kReg s p a) (kReg s p b)
      let s := modUc (setK r.2 p dst r.1) p fun u => { u with z := r.1 == 0, n := r.1.msb }
      endUword s p h)

/-- ISS: entries go into the FIFO; the microword stays in progress while it waits (R203). -/
def execIss (p : PlazaIx) (h : UHdr) (a b : Fin 8) (burst : Bool) (s : State) : Out :=
  .next (
    let go (s : State) : State :=
      match (s.plz[p]).run.issue with
      | none => endUword s p h
      | some _ => modUc s p fun u => { u with wait := some h }
    if (s.plz[p]).uc.wait.isSome && (s.plz[p]).run.issue.isSome then goOn s p
    else runUword s p (uword h 4 (at_ 21 a.val + at_ 18 b.val + at_ 17 (b2n burst))) fun s =>
      let i : Issue :=
        { vaddr := (kReg s p a).toNat % 2 ^ 31, count := (kReg s p b).toNat + 1, rpt := !burst,
          instr := false }
      go (issueAll (modRun s p fun r => { r with issue := some i }) p))

/-- ACT attaches an action. The value of a STEP is taken from K[A] as the instruction's operands lie: SET in bit 16, N in
bits 14:0 (notes/assumptions/244.md). -/
def execAct (p : PlazaIx) (h : UHdr) (kind : Fin 16) (a : Fin 8) (s : State) : Out :=
  .next (runUword s p (uword h 5 (at_ 20 kind.val + at_ 17 a.val)) fun s =>
    let v := kReg s p a
    match kind.val with
    | 0 => endUword (addAct s p (.evt (BitVec.ofNat 8 (bits v 7 0)))) p h
    | 1 => endUword (addAct s p (.mark (BitVec.ofNat 16 (bits v 15 0)))) p h
    | 2 => endUword (addAct s p (.step (v.getLsbD 16) (BitVec.ofNat 15 (bits v 14 0)))) p h
    | 3 => endUword (addAct s p .clrf) p h
    | _ => uFault s p fcUcodeIllegal)

/-- STK KIND 1: ENDL must name the LOOP of the top level (R170, Table UCS-2). DESIGN CHOICE (Table UCS-11 does not say
whether SEQ_STACK is a microcode fault, notes/assumptions/255.md): UCS_FLT does not record the fault. -/
def stkEnd (s : State) (p : Fin 16) (h : UHdr) : State :=
  let P := s.plz[p]
  let i := curInstr P
  match P.run.loops with
  | [] => faultEng s (.plaza p) fcSeqStack
  | l :: _ =>
    if opOf i = 4 && l.start != iTarget i then faultEng s (.plaza p) fcSeqStack
    else
      let e := endLoop s p
      endUword (modUc e.1 p fun u => { u with z := e.2 }) p h

def execStk (p : PlazaIx) (h : UHdr) (kind : Fin 16) (a b dst : Fin 8) (s : State) : Out :=
  .next (runUword s p
    (uword h 6 (at_ 20 kind.val + at_ 17 a.val + at_ 14 b.val + at_ 11 dst.val)) fun s =>
    let va := kReg s p a
    match kind.val with
    | 0 =>
      let P := s.plz[p]
      if 8 ≤ P.run.loops.length then faultEng s (.plaza p) fcSeqStack
      else
        let s := pushLoop s p
          { start := P.run.lastPc, endPc := BitVec.ofNat 16 (kReg s p b).toNat, count := va.toNat + 1,
            segs := P.uc.segs, depth := P.run.calls.length }
        endUword (modUc s p fun u => { u with segs := [] }) p h
    | 1 => stkEnd s p h
    | 2 => pushCall s p (BitVec.ofNat 16 va.toNat) fun s => endUword s p h
    | 3 => popCall s p fun ret s => endUword (setK s p dst (ret.setWidth 32)) p h
    | 4 => endUword (popLevels s p (BitVec.ofNat 16 va.toNat)) p h
    | _ => uFault s p fcUcodeIllegal)

/-- LCHK: the checks of Table SEQ-5; it waits while a segment is missing (R180, R203). A SEQ_STACK of its is not in
UCS_FLT either (notes/assumptions/255.md). -/
def lchkStep (s : State) (p : Fin 16) (h : UHdr) (a b : Fin 8) : State :=
  match loopCheck (s.plz[p]) (kReg s p a).toNat (kReg s p b).toNat with
  | .stack => faultEng s (.plaza p) fcSeqStack
  | .limit => endUword (modUc s p fun u => { u with e := true }) p h
  | .wait => modUc s p fun u => { u with wait := some h, need := some (.set (kReg s p a).toNat (kReg s p b).toNat) }
  | .enter segs => endUword (modUc s p fun u => { u with e := false, segs := segs }) p h

def execLchk (p : PlazaIx) (h : UHdr) (a b : Fin 8) (s : State) : Out :=
  .next (
    let r := (s.plz[p]).run
    let w := uword h 7 (at_ 21 a.val + at_ 18 b.val)
    if (s.plz[p]).uc.wait = some h && r.issue.isNone && r.test.isNone && r.waitm.isNone &&
        r.sync.isNone && wordFits s (nextUaddr (s.plz[p])) w then lchkStep s p h a b
    else runUword s p w fun s => lchkStep s p h a b)

/-- UCOND of BR, or none where it is illegal. -/
def uCond (u : Uc) (c : Nat) : Option Bool :=
  match c with
  | 0 => some true
  | 1 => some u.z
  | 2 => some (!u.z)
  | 3 => some u.n
  | 4 => some u.m
  | 5 => some (!u.m)
  | 6 => some u.t
  | 7 => some u.e
  | _ => none

def execBr (p : PlazaIx) (h : UHdr) (ucond : Fin 16) (target : BitVec 12) (s : State) : Out :=
  .next (runUword s p (uword h 8 (at_ 20 ucond.val + target.toNat)) fun s =>
    match uCond (s.plz[p]).uc ucond.val with
    | none => uFault s p fcUcodeIllegal
    | some b =>
      let s := endUword s p h
      if b then modUc s p fun u => { u with uaddr := target } else s)

def execPcUpd (p : PlazaIx) (h : UHdr) (mode : Fin 4) (a : Fin 8) (s : State) : Out :=
  .next (runUword s p (uword h 9 (at_ 22 mode.val + at_ 19 a.val)) fun s =>
    let pc := (s.plz[p]).run.pc
    match mode.val with
    | 0 => endUword (setPc s p (pc + 1)) p h
    | 1 => endUword (setPc s p (pc + 2)) p h
    | 2 => endUword (setPc s p (BitVec.ofNat 16 (kReg s p a).toNat)) p h
    | _ => uFault s p fcUcodeIllegal)

/-- The microword that stands next is found to lack something, and is tried again (R184, R203). -/
def lacks (s : State) (p : Fin 16) (n : UNeed) : State := modUc s p fun u => { u with need := some n }

/-- MTCH: tests the last vector issued (FORM 0) or plays an idle vector (FORM 1); it waits for the outcome
(R173, R174, R176, R203). -/
def execMtch (p : PlazaIx) (h : UHdr) (a b c : Fin 8) (form : Bool) (s : State) : Out :=
  .next (runUword s p
    (uword h 10 (at_ 21 a.val + at_ 18 b.val + at_ 15 c.val + at_ 14 (b2n form))) fun s' =>
    let cond := (kReg s' p a).toNat
    let v := (kReg s' p c).toNat % 2 ^ 31
    let wait (s : State) : State := modUc s p fun u => { u with wait := some h, need := none }
    if form then
      if idleReady s' p v then wait (beginWaitm s' p cond v ((kReg s' p b).toNat + 1) true)
      else lacks s p (.idle v)
    else if (s'.plz[p]).run.lastIss.isSome then wait (beginTest s' p cond 0 true)
    else
      let t := condHolds s' p cond 0 (flagsOf s' p)
      endUword (modUc (matchFire s' p t) p fun u => { u with m := t }) p h)

/-- SYN: waits for an event while an idle vector plays (R177, R203). -/
def execSyn (p : PlazaIx) (h : UHdr) (a b c : Fin 8) (s : State) : Out :=
  .next (runUword s p (uword h 11 (at_ 21 a.val + at_ 18 b.val + at_ 15 c.val)) fun s' =>
    let v := (kReg s' p c).toNat % 2 ^ 31
    if idleReady s' p v then
      modUc (beginSync s' p (kReg s' p a).toNat (kReg s' p b).toNat v true) p
        fun u => { u with wait := some h, need := none }
    else lacks s p (.idle v))

def execTrap (p : PlazaIx) (h : UHdr) (code : BitVec 8) (s : State) : Out :=
  .next (runUword s p (uword h 12 code.toNat) fun s => uFault s p code)

def execEndRun (p : PlazaIx) (h : UHdr) (status : BitVec 8) (s : State) : Out :=
  .next (runUword s p (uword h 13 status.toNat) fun s =>
    endProgram (endUword s p { h with last := true }) p status)

/-- The word about to start would be number LIMIT + 1 of its instruction (R209); a parity error of that word comes
first (R218). -/
def execMicrocodeWatchdog (p : PlazaIx) (s : State) : Out :=
  .next (
    let u := (s.plz[p]).uc
    if u.busy && canUword s p && u.limit ≤ u.count then
      uFault s p (if parityBad s p (nextUaddr (s.plz[p])) then fcUcodeParity else fcUcodeWdog)
    else s)

/-- The word of the patch RAM that is about to run is found to disagree with its parity bit, and does so until the
next load (R207). It is given before a watchdog row of the same word (R218). -/
def execUcodeParityError (p : PlazaIx) (s : State) : Out :=
  .next (
    let a := nextUaddr (s.plz[p])
    if canUword s p && pageOf s a != 0 then
      uFault (modUc s p fun u => { u with upset := ramIx s a :: u.upset.filter (· != ramIx s a) }) p fcUcodeParity
    else s)

end Sys2Proof.Machine
end

