-- ==== Sys2Proof/Machine/Regs.lean ====
section
/-! DEFINITION. Writes of BAR0, and the opcodes and reads of the register map's own (16_register_map, R434 to
R443, and the register tables of the chapters that own the blocks). -/

namespace Sys2Proof.Machine

/-- A W1C bit at i: a 1 written clears it (R13). -/
def w1c (b : Bool) (w : Word) (i : Nat) : Bool := b && !w.getLsbD i

/-- The W1C bits of an engine's status register (Table ARC-9). -/
def clearEng (w : Word) (c : EngCore) : EngCore :=
  { c with reqRejected := w1c c.reqRejected w 7, absorbed := w1c c.absorbed w 6, timedOut := w1c c.timedOut w 5 }

/-- A write of an engine's control register: ENABLE, DISABLE, or both in one cycle (Table ARC-8, R44). -/
def writeCtl (s : State) (e : Eng) (w : Word) : State :=
  match w.getLsbD 1, w.getLsbD 0 with
  | true, true => closeCheck (disableEng (enableEng s e none .withDisable) e none .alone)
  | true, false => closeCheck (disableEng s e none .alone)
  | false, true => enableEng s e none .alone
  | false, false => s

/-! ### Global and host interface -/

def writeGlb (s : State) (off : Nat) (w : Word) : State :=
  let g := s.glb
  match off with
  | 0x0C => { s with glb := { g with lockLost := w1c g.lockLost w 1 } }
  | 0x10 => writePwrReq { s with glb := { g with refused := w1c g.refused w 9 } } (w.setWidth 2)
  | 0x20 => { s with glb := { g with errUnmapped := w1c g.errUnmapped w 1, errPartial := w1c g.errPartial w 0 } }
  | 0x24 => { s with glb := { g with scratch := w } }
  | _ => s

/-- ADMIN_EN (Table HST-17): 1 opens context 0, 0 acts as an FLR. The ring table read is taken to succeed;
one that fails is the command ADMIN_EN_SET's. -/
def writeAdmin (s : State) (w : Word) : State :=
  if w.getLsbD 0 then adminOpen s false else if s.hif.adminEn then flrNow s else s

def writeHif (s : State) (off : Nat) (w : Word) : State :=
  let h := s.hif
  match off with
  | 0x00 => writeOffer s w
  | 0x08 => if h.adminEn then s else { s with hif := { h with rtLo := BitVec.ofNat 20 (bits w 31 12) } }
  | 0x0C => if h.adminEn then s else { s with hif := { h with rtHi := w } }
  | 0x10 => writeAdmin s w
  | 0x14 =>
    { s with hif := { h with rtBad := w1c h.rtBad w 5, fmtNone := w1c h.fmtNone w 4,
                             dbFormat := w1c h.dbFormat w 3, dbOverrun := w1c h.dbOverrun w 2,
                             dbClosed := w1c h.dbClosed w 1, dbForeign := w1c h.dbForeign w 0 } }
  | 0x20 =>
    { s with hif := { h with qwait := BitVec.ofNat 16 (bits w 31 16), retries := BitVec.ofNat 3 (bits w 14 12),
                             fetchTo := BitVec.ofNat 12 (bits w 11 0) } }
  | _ => s

/-! ### Pins, timing, sequencers, control stores -/

/-- RL registers of a Plaza are committed while it is not OFF (R15, R22). -/
def plzOpen (s : State) (p : Fin 16) : Bool := isOff s (.plaza p)

def writePin (s : State) (off : Nat) (w : Word) : State :=
  match arrIx 16 0 4 off, arrIx 16 0x40 4 off, arrIx 16 0x80 4 off with
  | some p, _, _ =>
    if plzOpen s p then
      modPin s p fun n =>
        { n with fvSpan := BitVec.ofNat 3 (bits w 14 12), clampSpan := BitVec.ofNat 3 (bits w 11 9),
                 vtSpan := BitVec.ofNat 3 (bits w 8 6), cmpSpan := BitVec.ofNat 3 (bits w 5 3),
                 drvSpan := BitVec.ofNat 3 (bits w 2 0) }
    else s
  | _, some p, _ =>
    if plzOpen s p then modPin s p fun n => { n with settle := BitVec.ofNat 16 (bits w 15 0) } else s
  | _, _, some p =>
    modPin s p fun n => { n with spanConflict := w1c n.spanConflict w 1, ovc := w1c n.ovc w 0 }
  | _, _, _ => s

def writeTim (s : State) (off : Nat) (w : Word) : State :=
  if off = 0 then { s with tmo := { s.tmo with bandHold := BitVec.ofNat 16 (bits w 15 0) } }
  else
    match arrIx 16 0x40 4 off, arrIx 16 0x80 4 off with
    | some p, _ =>
      bandMoved (modTim s p fun t => { t with forceEn := w.getLsbD 3, band := Fin.ofNat 8 (bits w 2 0) }) p
    | _, some p => modTim s p fun t => { t with edgeClip := w1c t.edgeClip w 2 }
    | _, _ => s

def writePlz (s : State) (off : Nat) (w : Word) : State :=
  match off with
  | 0x140 =>
    { s with tmo := { s.tmo with holdMs := BitVec.ofNat 16 (bits w 31 16), seqStart := BitVec.ofNat 8 (bits w 15 8),
                                 seqStop := BitVec.ofNat 8 (bits w 7 0) } }
  | 0x144 => { s with tmo := { s.tmo with syncMs := BitVec.ofNat 16 (bits w 15 0) } }
  | 0x148 =>
    if s.dram.committed || 786432 < bits w 19 0 then s
    else { s with dram := { s.dram with segCount := bits w 19 0 } }
  | _ =>
    match arrIx 16 0 4 off, arrIx 16 0x40 4 off, arrIx 16 0x180 4 off with
    | some p, _, _ => writeCtl s (.plaza p) w
    | _, some p, _ =>
      modPlz s p fun P =>
        let q := P.seq
        { P with eng := clearEng w P.eng,
                 seq := { q with sdWrap := w1c q.sdWrap w 15, setMiss := w1c q.setMiss w 14,
                                 short := w1c q.short w 13, underrun := w1c q.underrun w 12 } }
    | _, _, some p =>
      if plzOpen s p then
        modPlz s p fun P =>
          { P with cfg := { leader := Fin.ofNat 16 (bits w 11 8), linked := w.getLsbD 7,
                            width := BitVec.ofNat 3 (bits w 2 0) } }
      else s
    | _, _, _ => s

def writeUcs (s : State) (off : Nat) (w : Word) : State :=
  if off = 0x0C then
    { s with patch := { s.patch with limit := BitVec.ofNat 7 (clampNat 16 64 (bits w 6 0)) } }
  else s

/-! ### Capture, measurement, waveform, raster -/

def writeCap (s : State) (off : Nat) (w : Word) : State :=
  match arrIx 16 0 4 off with
  | some p =>
    modCap s p fun c =>
      { c with massFail := w1c c.massFail w 4, limitHit := w1c c.limitHit w 3, trigFired := w1c c.trigFired w 2,
               lost := w1c c.lost w 1 }
  | none => s

def writeMea (s : State) (off : Nat) (w : Word) : State :=
  if off = 0x300 then
    { s with tmo := { s.tmo with meaStart := BitVec.ofNat 8 (bits w 15 8), meaStop := BitVec.ofNat 8 (bits w 7 0) } }
  else
    match arrIx 16 0 4 off, arrIx 16 0x40 4 off, arrIx 64 0x100 4 off, arrIx 64 0x200 4 off with
    | some p, _, _, _ => writeCtl s (.dg p) w
    | _, some p, _, _ => modEng s (.dg p) (clearEng w)
    | _, _, some n, _ => writeCtl s (.tmu n) w
    | _, _, _, some n => modEng s (.tmu n) (clearEng w)
    | _, _, _, _ => s

def writeAwgReg (s : State) (off : Nat) (w : Word) : State :=
  if off = 0xC0 then
    { s with tmo := { s.tmo with awgStart := BitVec.ofNat 8 (bits w 15 8), awgStop := BitVec.ofNat 8 (bits w 7 0) } }
  else
    match arrIx 16 0 4 off, arrIx 16 0x40 4 off, arrIx 16 0x80 4 off with
    | some a, _, _ => writeCtl s (.awg a) w
    | _, some a, _ =>
      modAwg s a fun A =>
        { A with eng := clearEng w A.eng, preset := w1c A.preset w 10, under := w1c A.under w 9 }
    | _, _, some a =>
      modAwg s a fun A => { A with jHalt := w.getLsbD 16, jTgt := BitVec.ofNat 10 (bits w 9 0) }
    | _, _, _ => s

/-- COMMIT is set; with no run in progress the copy is made at once (R291). -/
def setCommit (s : State) (k : Fin 4) : State :=
  let s := modRe s k fun R => { R with commit := true }
  if (s.re[k]).run.busy then s else commitNow s k

/-- The set-up registers of REk write its shadow set (R291). -/
def writeShadow (o : Nat) (w : Word) (t : RSet) : RSet :=
  let lo14 := BitVec.ofNat 14 (bits w 13 0)
  let lo13 := BitVec.ofNat 13 (bits w 12 0)
  let hi13 := BitVec.ofNat 13 (bits w 28 16)
  match o with
  | 0x00 => { t with hact := lo14, hfp := hi13 }
  | 0x04 => { t with hsync := lo13, hbp := hi13 }
  | 0x08 => { t with vact := lo14, vfp := hi13 }
  | 0x0C => { t with vsync := lo13, vbp := hi13 }
  | 0x10 => { t with fmt := w.getLsbD 8, cpp := BitVec.ofNat 4 (bits w 3 0) }
  | 0x14 => { t with bg := BitVec.ofNat 30 (bits w 29 0) }
  | _ => t

def writeReReg (s : State) (off : Nat) (w : Word) : State :=
  if off = 0x240 then
    { s with tmo := { s.tmo with reStart := BitVec.ofNat 8 (bits w 15 8), reStop := BitVec.ofNat 8 (bits w 7 0) } }
  else if 0x100 ≤ off && off < 0x180 then
    let k : Fin 4 := Fin.ofNat 4 ((off - 0x100) / 32)
    if off % 32 = 0x18 then (if w.getLsbD 0 then setCommit s k else s)
    else modRe s k fun R => { R with shadow := writeShadow (off % 32) w R.shadow }
  else
    match arrIx 4 0 4 off, arrIx 4 0x40 4 off with
    | some k, _ => writeCtl s (.re k) w
    | _, some k =>
      modRe s k fun R =>
        { R with eng := clearEng w R.eng, deferred := w1c R.deferred w 17, commitBad := w1c R.commitBad w 16,
                 fetchLate := w1c R.fetchLate w 15 }
    | _, _ => s

/-! ### Power -/

def clearEvt (w : Word) (e : PwrEvt) : PwrEvt :=
  { psupTrip := w1c e.psupTrip w 7, extV := w1c e.extV w 6, railFault := w1c e.railFault w 5,
    vinOc := w1c e.vinOc w 4, budgetTrip := w1c e.budgetTrip w 3, budgetWarn := w1c e.budgetWarn w 2,
    vinOvSeen := w1c e.vinOvSeen w 1, brownout := w1c e.brownout w 0 }

def writePwr (s : State) (off : Nat) (w : Word) : State :=
  match off with
  | 0x100 =>
    { s with tmo := { s.tmo with dpsStart := BitVec.ofNat 8 (bits w 15 8), dpsStop := BitVec.ofNat 8 (bits w 7 0) } }
  | 0x10C =>
    { s with pwr := { s.pwr with limitMw := BitVec.ofNat 16 (min (bits w 15 0) 32000) } }
  | 0x110 => { s with pwr := { s.pwr with evt := clearEvt w s.pwr.evt } }
  | _ =>
    match arrIx 32 0 4 off, arrIx 32 0x80 4 off with
    | some n, _ => writeCtl s (.dps n) w
    | _, some n =>
      modDps s n fun D => { D with eng := clearEng w D.eng, senseLost := w1c D.senseLost w 19 }
    | _, _ => s

/-! ### Lanes, Commons, Avenue -/

/-- CM_CFG; a W1024 that is no longer enabled, or no longer the master, releases what it drove (Table
LAN-10). -/
def writeCmCfg (s : State) (w : Word) : State :=
  let en := w.getLsbD 0
  let master := w.getLsbD 1
  let c := s.cm
  { s with cm := { c with
      haltMask := BitVec.ofNat 16 (bits w 31 16), pulse := BitVec.ofNat 8 (bits w 15 8),
      autodisarm := w.getLsbD 2, master := master, en := en,
      armDriven := c.armDriven && en && master, fireDriven := c.fireDriven && en,
      haltDriven := c.haltDriven && en } }

/-- CM_CTL: its bits act as the four actions; of ARM and DISARM in one write, a free choice comes last. -/
def writeCmCtl (s : State) (w : Word) : State :=
  let s :=
    match w.getLsbD 0, w.getLsbD 1 with
    | true, true =>
      let f := takeFree s 1
      cmArm (cmArm f.2 (f.1 == 1)) (f.1 != 1)
    | true, false => cmArm s true
    | false, true => cmArm s false
    | false, false => s
  let s := if w.getLsbD 2 then cmPulse s false else s
  if w.getLsbD 3 then cmPulse s true else s

/-- AV_CFG: its RL fields are committed by a training until EN is written 0 (Table LAN-13). -/
def writeAvCfg (s : State) (w : Word) : State :=
  let s := if s.av.committed then s
    else
      { s with av := { s.av with own := BitVec.ofNat 8 (bits w 31 24),
                                 startLine := Fin.ofNat 8 (bits w 18 16), master := w.getLsbD 1 } }
  if w.getLsbD 0 then { s with av := { s.av with en := true } } else avOff s

def writeLan (s : State) (off : Nat) (w : Word) : State :=
  let lo : BitVec 64 := w.setWidth 64
  let hi : BitVec 64 := lo <<< 32
  match off with
  | 0x200 => fireLanes s lo
  | 0x204 => fireLanes s hi
  | 0x208 => ackLanes s lo
  | 0x20C => ackLanes s hi
  | 0x210 => { s with lanLimit := BitVec.ofNat 16 (bits w 15 0) }
  | 0x300 => writeCmCfg s w
  | 0x304 => writeCmCtl s w
  | 0x308 =>
    { s with cm := { s.cm with armRefused := w1c s.cm.armRefused w 5, fireUnarmed := w1c s.cm.fireUnarmed w 4 } }
  | 0x400 => writeAvCfg s w
  | 0x404 =>
    { s with av := { s.av with late := w1c s.av.late w 2, crcErr := w1c s.av.crcErr w 1,
                               ownerClash := w1c s.av.ownerClash w 0 } }
  | 0x408 =>
    if s.av.committed then s
    else { s with av := { s.av with latNs := BitVec.ofNat 16 (clampNat 100 10000 (bits w 15 0)) } }
  | 0x414 => { s with av := { s.av with trainMs := BitVec.ofNat 16 (bits w 15 0) } }
  | _ =>
    match arrIx 64 0 4 off, arrIx 64 0x100 4 off, arrIx 16 0x240 4 off with
    | some n, _, _ => writeLanCfg s n w
    | _, some n, _ =>
      modLane s n fun l =>
        { l with cfgBad := w1c l.cfgBad w 7, ignored := w1c l.ignored w 4, coalesced := w1c l.coalesced w 3,
                 runaway := w1c l.runaway w 2 }
    | _, _, some p => modSeq s p fun q => { q with sjtgt := BitVec.ofNat 16 (bits w 15 0) }
    | _, _, _ => s

/-! ### Calibration, serial ports, boot -/

def writeCal (s : State) (off : Nat) (w : Word) : State :=
  match off with
  | 0x0C => { s with cal := { s.cal with rejected := w1c s.cal.rejected w 30 } }
  | 0x1D0 => { s with thm := { s.thm with limBad := w1c s.thm.limBad w 31 } }
  | _ =>
    match arrIx 3 0x1C0 4 off with
    | some c => writeThmLim s c w
    | none => s

def writeSer (s : State) (off : Nat) (w : Word) : State :=
  let m := s.pm
  match off with
  | 0x00 => writeCtl s .portM w
  | 0x04 => { s with pm := { m with eng := clearEng w m.eng, viewMiss := w1c m.viewMiss w 17 } }
  | 0x08 =>
    if isOff s .portM then
      { s with pm := { m with xDiv := BitVec.ofNat 8 (bits w 15 8), prefetch := w.getLsbD 6, omit_ := w.getLsbD 5,
                              modes := BitVec.ofNat 5 (bits w 4 0) ||| 1 } }
    else s
  | 0x10 =>
    if isOff s .portM then { s with pm := { m with selDly := BitVec.ofNat 4 (bits w 3 0) } } else s
  | 0x14 =>
    { s with tmo := { s.tmo with serTu := BitVec.ofNat 8 (bits w 23 16), serStart := BitVec.ofNat 8 (bits w 15 8),
                                 serStop := BitVec.ofNat 8 (bits w 7 0) } }
  | 0x20 =>
    setPs s fun p =>
      { p with toHostFull := w1c p.toHostFull w 4, overclk := w1c p.overclk w 3, short := w1c p.short w 2,
               tuTmo := w1c p.tuTmo w 1, denied := w1c p.denied w 0 }
  | 0x28 => writeToMc s w
  | _ => s

def clearRst (w : Word) (r : RstCause) : RstCause :=
  { r with selfHost := w1c r.selfHost w 7, selfRail := w1c r.selfRail w 6, selfWdog := w1c r.selfWdog w 5,
           fwRestart := w1c r.fwRestart w 4, wake := w1c r.wake w 3, flr := w1c r.flr w 2,
           perst := w1c r.perst w 1, por := w1c r.por w 0 }

def writeBoot (s : State) (off : Nat) (w : Word) : State :=
  match off with
  | 0x04 => { s with boot := { s.boot with rst := clearRst w s.boot.rst } }
  | 0x08 =>
    { s with boot := { s.boot with fwWdogMs := BitVec.ofNat 16 (clampNat 10 1000 (bits w 15 0)) } }
  | 0x0C => writeSelfReset s w
  | 0x20 => { s with fag := { s.fag with windowUs := BitVec.ofNat 16 (min (bits w 15 0) 1000) } }
  | 0x24 => { s with fag := { s.fag with merged := w1c s.fag.merged w 1 } }
  | _ => s

/-! ### MSI-X table (R56, R58) -/

def putMsix (s : State) (e : MsixEntry) : State :=
  { s with msix := e :: s.msix.filter fun x => x.vector != e.vector }

/-- A word of the MSI-X table is written; a message that waited is sent as its vector is unmasked. -/
def writeMsix (s : State) (off : Nat) (w : Word) : State :=
  if 0x8000 ≤ off then s
  else
    let e := msixOf s (off / 16)
    match off % 16 with
    | 0 => putMsix s { e with addrLo := w }
    | 4 => putMsix s { e with addrHi := w }
    | 8 => putMsix s { e with data := w }
    | _ =>
      let masked := w.getLsbD 0
      if e.pending && !masked then
        let s := putMsix s { e with masked := false, pending := false }
        { s with msixSent := e.vector :: s.msixSent }
      else putMsix s { e with masked := masked }

/-! ### A write of BAR0 (R434, R435) -/

/-- A whole word is written. -/
def writeReg (s : State) (off : Nat) (w : Word) : State :=
  match off / 0x1000 with
  | 0x0 => writeGlb s off w
  | 0x1 => writeHif s (off - 0x1000) w
  | 0x4 => writePin s (off - 0x4000) w
  | 0x5 => writeTim s (off - 0x5000) w
  | 0x6 => if off < 0x6400 then writePlz s (off - 0x6000) w else writeUcs s (off - 0x6400) w
  | 0x7 => writeCap s (off - 0x7000) w
  | 0x8 => writeMea s (off - 0x8000) w
  | 0x9 => writeAwgReg s (off - 0x9000) w
  | 0xA => writeReReg s (off - 0xA000) w
  | 0xB => writePwr s (off - 0xB000) w
  | 0xC => writeLan s (off - 0xC000) w
  | 0xD => writeCal s (off - 0xD000) w
  | 0xE => writeSer s (off - 0xE000) w
  | 0xF => writeBoot s (off - 0xF000) w
  | _ => if 0x30000 ≤ off then writeMsix s (off - 0x30000) w else s

/-- A word that is written whole: applied, or discarded where no register lies. -/
def writeWhole (s : State) (off : Nat) (w : Word) : State :=
  if !barsOn s then s
  else if (readReg s off).isNone then noteUnmapped s off
  else writeReg s off w

/-- A word of which only some bytes are written is discarded. -/
def writePart (s : State) (off : Nat) : State :=
  if !barsOn s then s
  else
    let s := { s with glb := { s.glb with errPartial := true, errLast := BitVec.ofNat 16 (off / 4) } }
    if (readReg s off).isNone then noteUnmapped s off else s

/-- The words that a write of bytes from an offset touches, in rising order: n words from word i, each whole
or in part. -/
def writeWords (off : Nat) (bs : List Byte) : Nat → Nat → State → State
  | _, 0, s => s
  | i, n + 1, s =>
    let s :=
      if off ≤ 4 * i && 4 * i + 4 ≤ off + bs.length then
        writeWhole s (4 * i) (BitVec.ofNat 32 (numAt bs (4 * i - off) 4))
      else writePart s (4 * i)
    writeWords off bs (i + 1) n s

/-- An aligned write of 8 bytes to LAN_FIRE or LAN_ACK acts on all 64 Lanes in one cycle (R434, R437). -/
def writeBar0 (s : State) (off : Nat) (bs : List Byte) : State :=
  if bs.length = 8 ∧ off = 0xC200 then
    if barsOn s then fireLanes s (BitVec.ofNat 64 (numAt bs 0 8)) else s
  else if bs.length = 8 ∧ off = 0xC208 then
    if barsOn s then ackLanes s (BitVec.ofNat 64 (numAt bs 0 8)) else s
  else writeWords off bs (off / 4) ((off + bs.length + 3) / 4 - off / 4) s

/-- A memory write of some bytes to BAR0. -/
def execRegisterWrite (off : BitVec 18) (bytes : List Byte) (s : State) : Out :=
  .next (writeBar0 s off.toNat bytes)

/-! ### Snapshots and peaks (R437, R438) -/

/-- The requester is served: the host over the link (R414), port S while READY (R405), a control core while the
core die is out of reset. -/
def served (s : State) : Requester → Bool
  | .host => barsOn s
  | .portS => psReady s
  | .core => !s.glb.por && !s.glb.perst && s.boot.stage != .reset

/-- An answered read. -/
def answer (r : Word × State) : State := { r.2 with rdata := bvBytes 4 r.1 }

/-- A read of a requester that is not served: the host's returns all ones (R414), port S's zeros with DENIED
(R404, R405); a control core in reset reads nothing. -/
def unserved (s : State) : Requester → State
  | .host => { s with rdata := onesB 4 }
  | .portS => if psAlive s then psDeny { s with rdata := List.replicate 4 0 } else s
  | .core => s

def execSnapshotLoRead (r : Requester) (pair : SnapPair) (s : State) : Out :=
  .next (if served s r then answer (snapLo s r pair) else unserved s r)

def execSnapshotHiRead (r : Requester) (pair : SnapPair) (s : State) : Out :=
  .next (if served s r then answer (snapHi s r pair) else unserved s r)

/-- The register a peak field lies in. -/
def peakOff : PeakReg → Nat
  | .hifOptStat => 0x101C
  | .capBuf p => 0x7080 + 4 * p.val
  | .pwrDut => 0xB108

/-- The peak restarts from the present value. -/
def restartPeak (s : State) : PeakReg → State
  | .hifOptStat => { s with hif := { s.hif with optPeak := s.ops.length } }
  | .capBuf p => modCap s p fun c => { c with peak := c.buf.length }
  | .pwrDut => { s with pwr := { s.pwr with peakMw := s.pwr.pMw } }

/-- A host read of a register with a peak field. -/
def execPeakRead (r : PeakReg) (s : State) : Out :=
  .next (
    if barsOn s then
      let a := readWord s (peakOff r)
      restartPeak (answer a) r
    else { s with rdata := onesB 4 })

/-! ### Reads of a BAR that have no row of their own (R56, R57, R434 to R438, R441) -/

/-- The peak field of the register at an offset. -/
def peakAt (off : Nat) : Option PeakReg :=
  if off = 0x101C then some .hifOptStat
  else if off = 0xB108 then some .pwrDut
  else (arrIx 16 0x7080 4 off).map .capBuf

/-- A host's 32-bit read of a word of BAR0: snapshots and peaks follow it. -/
def hostWord (s : State) (off : Nat) : Word × State :=
  let r := readAs s .host off
  match peakAt off with
  | some k => (r.1, restartPeak r.2 k)
  | none => r

/-- Words of BAR0 from offset off, read in ascending order. -/
def hostWords : Nat → Nat → State → List Byte × State
  | 0, _, s => ([], s)
  | n + 1, off, s =>
    let r := hostWord s off
    let q := hostWords n (off + 4) r.2
    (bvBytes 4 r.1 ++ q.1, q.2)

/-- A host's read of len bytes of BAR0 (R434): the bytes of the words it touches. An 8-byte read of a pair of
Table MAP-11 returns both words and leaves the snapshot (R437). -/
def readBar0 (s : State) (off len : Nat) : State :=
  let first := off / 4 * 4
  let pair : Bool := match pairAt off with | some (_, false) => len == 8 && off % 8 == 0 | _ => false
  if pair then
    { s with rdata := bvBytes 4 ((readReg s off).getD 0) ++ bvBytes 4 ((readReg s (off + 4)).getD 0) }
  else
    let r := hostWords ((off + len - 1) / 4 - off / 4 + 1) first s
    { r.2 with rdata := sliceB r.1 (off - first) len }

/-- The word that a SEG_FILL brings to a place of view 2 while it goes on there (Table MAP-15). -/
def fillWord (s : State) (a : Nat) : Option Nat :=
  if s.glb.diagView.toNat ≠ 2 then none
  else if h : a / 81920 < 64 then
    ((s.plz[Fin.ofNat 16 s.glb.diagPlaza.toNat]).seq.slots[a / 81920].filling).map fun x =>
      leNat (dramRead s (81920 * x.1 + a % 81920) 4)
  else none

/-- A read of a diagnostic view; of a slot that a SEG_FILL is writing each word is the old one or the new (R441, Table
MAP-15). -/
def diagRead (s : State) (a : Nat) : State :=
  match fillWord s a with
  | none => { s with rdata := leBytes 4 (diagWord s a) }
  | some w =>
    let f := takeFree s 1
    { f.2 with rdata := leBytes 4 (if f.1 = 1 then w else diagWord s a) }

/-- A host's access of a BAR (R56, R57). BAR4: below offset 0x200_0000 the diagnostic views, from there the
flash view; a write to it is discarded. BAR2 reads 0. -/
def barAccess (s : State) (addr : BitVec 28) : BarAccess → State
  | .bar0 len => readBar0 s (addr.setWidth 18).toNat (len.val + 1)
  | .bar4 =>
    let a := wordAt (addr.setWidth 26).toNat
    if a < 2 ^ 25 then diagRead s a
    else viewRead s { addr := a - 2 ^ 25, core := false }
  | .bar2 => { s with rdata := leBytes 4 (readBar2 (addr.setWidth 24).toNat) }
  | .bar4Write _ => s

/-- The bytes that a host's access reads. -/
def accessLen : BarAccess → Nat
  | .bar0 len => len.val + 1
  | _ => 4

/-- A control core's read of the flash view, or a host's access of a BAR; before RUNNING a read returns all
ones and a write is discarded (R414). -/
def execFlashViewRead (addr : BitVec 28) (v : ViewAccess) (s : State) : Out :=
  .next (
    match v with
    | .core => viewRead s { addr := wordAt addr.toNat, core := true }
    | .host b =>
      if barsOn s then barAccess s addr b
      else match b with
        | .bar4Write _ => s
        | _ => { s with rdata := onesB (accessLen b) })

/-! ### Diagnostic opcodes (R441, R442) -/

def execDiagView (op : OpId) (s : State) : Out :=
  .next (runDesc s op 0xF0 fun s o d =>
    let v := bits (wd d 2) 31 28
    if o.ctx ≠ 0 ∨ 5 < v then finishOp s op eArg []
    else
      finishOp { s with glb := { s.glb with diagView := BitVec.ofNat 4 v,
                                            diagPlaza := BitVec.ofNat 4 (bits (wd d 2) 3 0) } } op stOk [])

/-- A word as REG_DUMP samples it. -/
def dumpWord (s : State) (i : Nat) : Word := (readReg s (4 * i)).getD 0

def execRegDump (op : OpId) (s : State) : Out :=
  .next (runDesc s op 0xF1 fun s o d =>
    let first := bits (wd d 2) 15 0
    let n := bits (wd d 3) 16 0
    if o.ctx ≠ 0 ∨ n = 0 ∨ 49152 < first + n then finishOp s op eArg []
    else
      let ws := (List.range n).map fun i => dumpWord s (first + i)
      finishOp (hostWrite (usedFree s) (wd64 d 4) (bytesOf ws)) op stOk [BitVec.ofNat 32 n])

end Sys2Proof.Machine
end

