-- ==== Sys2Proof/Machine/Security.lean ====
section
/-! DEFINITION. Identity, attestation, floors and revocation (15_boot_security_recovery, R419 to R423). -/

namespace Sys2Proof.Machine

/-- Seed of the device identity key (R422). -/
def idSeed : List Byte :=
  bvBytes 32 (Config.shake256 32 (bvBytes 32 Config.deviceSecret ++ [0x50, 0x58, 0x49, 0x44]))

/-- The mask of the revoked slots. -/
def revokedMask (s : State) : Nat :=
  let r := s.boot.revoked
  b2n r[0] + 2 * b2n r[1] + 4 * b2n r[2] + 8 * b2n r[3]

/-- Bytes 0x000 to 0x0FF of the attestation report (Table BOOT-5). -/
def attestHead (s : State) (d : List Word) : List Byte :=
  let rec_ : Bool := s.boot.stage == .recovery
  let applied : Bool := s.patch.st == 2
  [0x50, 0x58, 0x41, 0x54, 0x01, 0x00, 0x10,
   BitVec.ofNat 8 (s.boot.manifest.toNat + 4 * b2n rec_ + 8 * b2n applied)] ++
  leBytes 4 0xB001 ++ leBytes 4 (if rec_ then 0 else s.glb.fwVer.toNat) ++ leBytes 4 s.patch.ver.toNat ++
  [BitVec.ofNat 8 s.boot.fwFloor, BitVec.ofNat 8 s.boot.patchFloor, s.boot.keyslot.setWidth 8,
   BitVec.ofNat 8 (revokedMask s)] ++
  leBytes 8 0 ++ bytesOf ((d.drop 2).take 8) ++
  (if rec_ then leBytes 64 0 else sliceB (digestOf s.boot.runMan 0x8A0) 0 64) ++
  (if applied then sliceB s.patch.digest 0 64 else leBytes 64 0) ++ leBytes 64 0

/-- The report with its signature, 4,096 bytes; a randomised signature is a free choice. -/
def attestReport (s : State) (d : List Word) : List Byte :=
  let h := attestHead s d
  let sig := Config.mlDsaSign idSeed (digestOf h 256) s.freeCount
  sliceB (h ++ bvBytes 3309 sig) 0 4096

/-- It waits for the end of a patch load (Table BOOT-11). -/
def execAttest (op : OpId) (s : State) : Out :=
  .next (
    if s.patch.st = 1 then s
    else
      runDesc s op 0xB0 fun s _ d =>
        let bs := attestReport s d
        finishOp (hostWrite (takeFree s 1).2 (wd64 d 10) bs) op stOk [])

/-- The identity record, 8,192 bytes (R422). -/
def idRecord : List Byte :=
  sliceB (bvBytes 16 Config.uid ++ leBytes 16 0 ++ bvBytes 1952 (Config.mlDsaPublic idSeed) ++
    [BitVec.ofNat 8 Config.endorseSlot.val] ++ leBytes 63 0 ++ bvBytes 3309 Config.endorsement) 0 8192

def execIdRead (op : OpId) (s : State) : Out :=
  .next (runDesc s op 0xB1 fun s _ d => finishOp (hostWrite s (wd64 d 10) idRecord) op stOk [])

/-- The floors rise to those of the running manifest (R420). -/
def execFloorCommit (op : OpId) (s : State) : Out :=
  .next (runDesc s op 0xB2 fun s _ _ =>
    let f := numAt s.boot.runMan 0x18 1
    let p := numAt s.boot.runMan 0x19 1
    if bits s.glb.fwVer 31 24 < f ∨ bits s.patch.ver 31 24 < p then finishOp s op eArg []
    else
      finishOp { s with boot := { s.boot with fwFloor := max s.boot.fwFloor f,
                                              patchFloor := max s.boot.patchFloor p } } op stOk [])

/-- What a revocation of a slot must be signed over (R421). -/
def revokeMessage (slot : Fin 4) : List Byte :=
  let m : List Byte := [0x50, 0x58, 0x52, 0x56] ++ bvBytes 16 Config.uid ++ [BitVec.ofNat 8 slot.val]
  digestOf m 21

/-- The slot is the last one not revoked. -/
def lastSlot (s : State) (k : Fin 4) : Bool :=
  (List.finRange 4).all fun j => if j = k then !s.boot.revoked[j] else s.boot.revoked[j]

def execKeyRevoke (op : OpId) (s : State) : Out :=
  .next (runDesc s op 0xB3 fun s _ d =>
    let k : Fin 4 := Fin.ofNat 4 (bits (wd d 2) 1 0)
    let sig := hostRead s (wd64 d 10) 3309
    if k.val = s.boot.keyslot.toNat || lastSlot s k then finishOp s op eArg []
    else if !Config.mlDsaVerify (sliceB s.boot.runMan 0x100 1952) (revokeMessage k) sig then
      finishOp s op eAuth []
    else
      finishOp { s with boot := { s.boot with revoked := s.boot.revoked.set k true } } op stOk [])

end Sys2Proof.Machine
end

