-- ==== Sys2Proof/Machine/Dispatch.lean ====
section
/-! DEFINITION. One arm per command. -/

namespace Sys2Proof.Machine

/-- The effect of a command on everything but the queue. -/
def exec (i : Instr) (s : State) : Host.Outcome State Fault Refusal :=
  match i with
  | .coldStart refsel => Sys2Proof.Machine.execColdStart refsel s
  | .pllLock chipid psChain => Sys2Proof.Machine.execPllLock chipid psChain s
  | .railGood r => Sys2Proof.Machine.execRailGood r s
  | .railStartTimeout r => Sys2Proof.Machine.execRailStartTimeout r s
  | .railOutOfTolerance r => Sys2Proof.Machine.execRailOutOfTolerance r s
  | .firmwareRunning => Sys2Proof.Machine.execFirmwareRunning s
  | .bootManifestTimeout => Sys2Proof.Machine.execBootManifestTimeout s
  | .patchLoadTimeout => Sys2Proof.Machine.execPatchLoadTimeout s
  | .perstNAssert => Sys2Proof.Machine.execPerstNAssert s
  | .perstNDeassert chipid psChain => Sys2Proof.Machine.execPerstNDeassert chipid psChain s
  | .vinUndervoltage => Sys2Proof.Machine.execVinUndervoltage s
  | .vinOvervoltage => Sys2Proof.Machine.execVinOvervoltage s
  | .vinRestored refsel => Sys2Proof.Machine.execVinRestored refsel s
  | .lichenPowerLoss => Sys2Proof.Machine.execLichenPowerLoss s
  | .vinSample vin10mV iavgMA => Sys2Proof.Machine.execVinSample vin10mV iavgMA s
  | .pllLockLoss => Sys2Proof.Machine.execPllLockLoss s
  | .dieLinkCrcFail n => Sys2Proof.Machine.execDieLinkCrcFail n s
  | .pwrReqActive => Sys2Proof.Machine.execPwrReqActive s
  | .pwrReqStandby => Sys2Proof.Machine.execPwrReqStandby s
  | .pwrReqDeepSleep => Sys2Proof.Machine.execPwrReqDeepSleep s
  | .powerStateChangeDone => Sys2Proof.Machine.execPowerStateChangeDone s
  | .linkL2L3Entry => Sys2Proof.Machine.execLinkL2L3Entry s
  | .deepSleepRequestTimeout => Sys2Proof.Machine.execDeepSleepRequestTimeout s
  | .wakeNLow => Sys2Proof.Machine.execWakeNLow s
  | .ctlEnable e m => Sys2Proof.Machine.execCtlEnable e m s
  | .ctlDisable e m => Sys2Proof.Machine.execCtlDisable e m s
  | .engineStartDone e => Sys2Proof.Machine.execEngineStartDone e s
  | .engineStopDone e => Sys2Proof.Machine.execEngineStopDone e s
  | .heldEnableTakesEffect e => Sys2Proof.Machine.execHeldEnableTakesEffect e s
  | .startTimeout e => Sys2Proof.Machine.execStartTimeout e s
  | .stopTimeout e => Sys2Proof.Machine.execStopTimeout e s
  | .flr => Sys2Proof.Machine.execFlr s
  | .dlDown => Sys2Proof.Machine.execDlDown s
  | .hifVerOfferWrite w => Sys2Proof.Machine.execHifVerOfferWrite w s
  | .adminEnSet readError => Sys2Proof.Machine.execAdminEnSet readError s
  | .adminEnClear => Sys2Proof.Machine.execAdminEnClear s
  | .doorbell page off size val => Sys2Proof.Machine.execDoorbell page off size val s
  | .sqFetchComplete ring n res => Sys2Proof.Machine.execSqFetchComplete ring n res s
  | .sqFetchTimeout ring => Sys2Proof.Machine.execSqFetchTimeout ring s
  | .descriptorDispatch op => Sys2Proof.Machine.execDescriptorDispatch op s
  | .executionTimeout op => Sys2Proof.Machine.execExecutionTimeout op s
  | .queueWaitTimeout op => Sys2Proof.Machine.execQueueWaitTimeout op s
  | .hostReadError op => Sys2Proof.Machine.execHostReadError op s
  | .completionWrite op => Sys2Proof.Machine.execCompletionWrite op s
  | .interruptDelayExpiry ring => Sys2Proof.Machine.execInterruptDelayExpiry ring s
  | .nop op => Sys2Proof.Machine.execNop op s
  | .ctxOpen op => Sys2Proof.Machine.execCtxOpen op s
  | .ctxClose op => Sys2Proof.Machine.execCtxClose op s
  | .ctxAbort op => Sys2Proof.Machine.execCtxAbort op s
  | .ctxOpsDrained ctx => Sys2Proof.Machine.execCtxOpsDrained ctx s
  | .resClaim op => Sys2Proof.Machine.execResClaim op s
  | .resRelease op => Sys2Proof.Machine.execResRelease op s
  | .ringAttach op => Sys2Proof.Machine.execRingAttach op s
  | .ringDetach op => Sys2Proof.Machine.execRingDetach op s
  | .ctxQuery op => Sys2Proof.Machine.execCtxQuery op s
  | .lvlLoad op => Sys2Proof.Machine.execLvlLoad op s
  | .chCfg op => Sys2Proof.Machine.execChCfg op s
  | .parkRead op => Sys2Proof.Machine.execParkRead op s
  | .cmpSelftest op => Sys2Proof.Machine.execCmpSelftest op s
  | .cmpSelftestDone op res => Sys2Proof.Machine.execCmpSelftestDone op res s
  | .settleEnd p => Sys2Proof.Machine.execSettleEnd p s
  | .driverOvercurrent c => Sys2Proof.Machine.execDriverOvercurrent c s
  | .tsLoad op => Sys2Proof.Machine.execTsLoad op s
  | .dskLoad op => Sys2Proof.Machine.execDskLoad op s
  | .dskRead op => Sys2Proof.Machine.execDskRead op s
  | .quietPoint p => Sys2Proof.Machine.execQuietPoint p s
  | .bandHoldExpiry p => Sys2Proof.Machine.execBandHoldExpiry p s
  | .plzEnable op m => Sys2Proof.Machine.execPlzEnable op m s
  | .plzDisable op m => Sys2Proof.Machine.execPlzDisable op m s
  | .seqLoad op => Sys2Proof.Machine.execSeqLoad op s
  | .segWrite op => Sys2Proof.Machine.execSegWrite op s
  | .segFill op => Sys2Proof.Machine.execSegFill op s
  | .segFillDone p slot => Sys2Proof.Machine.execSegFillDone p slot s
  | .seqRun op => Sys2Proof.Machine.execSeqRun op s
  | .runTimingZero p => Sys2Proof.Machine.execRunTimingZero p s
  | .seqJump op => Sys2Proof.Machine.execSeqJump op s
  | .jumpTakesEffect p => Sys2Proof.Machine.execJumpTakesEffect p s
  | .sitedataLoad op => Sys2Proof.Machine.execSitedataLoad op s
  | .maskLoad op => Sys2Proof.Machine.execMaskLoad op s
  | .holdLoad op => Sys2Proof.Machine.execHoldLoad op s
  | .slotQuery op => Sys2Proof.Machine.execSlotQuery op s
  | .vec p => Sys2Proof.Machine.execVec p s
  | .rpt p => Sys2Proof.Machine.execRpt p s
  | .loop p => Sys2Proof.Machine.execLoop p s
  | .endl p => Sys2Proof.Machine.execEndl p s
  | .call p => Sys2Proof.Machine.execCall p s
  | .ret p => Sys2Proof.Machine.execRet p s
  | .jmp p => Sys2Proof.Machine.execJmp p s
  | .jmpm p => Sys2Proof.Machine.execJmpm p s
  | .waitm p => Sys2Proof.Machine.execWaitm p s
  | .sync p => Sys2Proof.Machine.execSync p s
  | .evt p => Sys2Proof.Machine.execEvt p s
  | .stepSd p => Sys2Proof.Machine.execStepSd p s
  | .mark p => Sys2Proof.Machine.execMark p s
  | .clrf p => Sys2Proof.Machine.execClrf p s
  | .halt p => Sys2Proof.Machine.execHalt p s
  | .vectorPlay p levels steps => Sys2Proof.Machine.execVectorPlay p levels steps s
  | .matchDecision p => Sys2Proof.Machine.execMatchDecision p s
  | .underrun p => Sys2Proof.Machine.execUnderrun p s
  | .holdExit p => Sys2Proof.Machine.execHoldExit p s
  | .holdTimeout p => Sys2Proof.Machine.execHoldTimeout p s
  | .syncEvent p => Sys2Proof.Machine.execSyncEvent p s
  | .syncTimeout p => Sys2Proof.Machine.execSyncTimeout p s
  | .microNop p h => Sys2Proof.Machine.execMicroNop p h s
  | .fld p h dst hi lo => Sys2Proof.Machine.execFld p h dst hi lo s
  | .imm p h dst val => Sys2Proof.Machine.execImm p h dst val s
  | .alu p h dst a b fn => Sys2Proof.Machine.execAlu p h dst a b fn s
  | .iss p h a b burst => Sys2Proof.Machine.execIss p h a b burst s
  | .act p h kind a => Sys2Proof.Machine.execAct p h kind a s
  | .stk p h kind a b dst => Sys2Proof.Machine.execStk p h kind a b dst s
  | .lchk p h a b => Sys2Proof.Machine.execLchk p h a b s
  | .br p h ucond target => Sys2Proof.Machine.execBr p h ucond target s
  | .pcUpd p h mode a => Sys2Proof.Machine.execPcUpd p h mode a s
  | .mtch p h a b c form => Sys2Proof.Machine.execMtch p h a b c form s
  | .syn p h a b c => Sys2Proof.Machine.execSyn p h a b c s
  | .trap p h code => Sys2Proof.Machine.execTrap p h code s
  | .endRun p h status => Sys2Proof.Machine.execEndRun p h status s
  | .microcodeWatchdog p => Sys2Proof.Machine.execMicrocodeWatchdog p s
  | .ucodeParityError p => Sys2Proof.Machine.execUcodeParityError p s
  | .capCfg op => Sys2Proof.Machine.execCapCfg op s
  | .trigLoad op => Sys2Proof.Machine.execTrigLoad op s
  | .fqRecordWrite p => Sys2Proof.Machine.execFqRecordWrite p s
  | .mqRecordWrite ring => Sys2Proof.Machine.execMqRecordWrite ring s
  | .stepOpen op => Sys2Proof.Machine.execStepOpen op s
  | .stepClose op => Sys2Proof.Machine.execStepClose op s
  | .stepCloseEvaluate op => Sys2Proof.Machine.execStepCloseEvaluate op s
  | .recMeas op => Sys2Proof.Machine.execRecMeas op s
  | .maskArm op => Sys2Proof.Machine.execMaskArm op s
  | .pmuMeas op => Sys2Proof.Machine.execPmuMeas op s
  | .pmuMeasDone op codes => Sys2Proof.Machine.execPmuMeasDone op codes s
  | .acq op => Sys2Proof.Machine.execAcq op s
  | .acqTrigger op entry => Sys2Proof.Machine.execAcqTrigger op entry s
  | .acqEnd op samples why => Sys2Proof.Machine.execAcqEnd op samples why s
  | .recRead op => Sys2Proof.Machine.execRecRead op s
  | .recFree op => Sys2Proof.Machine.execRecFree op s
  | .tmuMeas op => Sys2Proof.Machine.execTmuMeas op s
  | .tmuGateRise b => Sys2Proof.Machine.execTmuGateRise b s
  | .tmuStampReference n => Sys2Proof.Machine.execTmuStampReference n s
  | .tmuStopEdge n t => Sys2Proof.Machine.execTmuStopEdge n t s
  | .tmuMeasDone n => Sys2Proof.Machine.execTmuMeasDone n s
  | .meaEngine op m => Sys2Proof.Machine.execMeaEngine op m s
  | .awgEngine op m => Sys2Proof.Machine.execAwgEngine op m s
  | .awgCfg op => Sys2Proof.Machine.execAwgCfg op s
  | .awgWrite op => Sys2Proof.Machine.execAwgWrite op s
  | .awgSeq op => Sys2Proof.Machine.execAwgSeq op s
  | .awgRun op => Sys2Proof.Machine.execAwgRun op s
  | .awgTrigger a => Sys2Proof.Machine.execAwgTrigger a s
  | .awgPlayEnd a => Sys2Proof.Machine.execAwgPlayEnd a s
  | .awgDecisionPoint a => Sys2Proof.Machine.execAwgDecisionPoint a s
  | .awgUnderrun a clocks => Sys2Proof.Machine.execAwgUnderrun a clocks s
  | .awgJump op => Sys2Proof.Machine.execAwgJump op s
  | .reEngine op m => Sys2Proof.Machine.execReEngine op m s
  | .reWrite op => Sys2Proof.Machine.execReWrite op s
  | .reLayer op => Sys2Proof.Machine.execReLayer op s
  | .reMap op => Sys2Proof.Machine.execReMap op s
  | .reRun op => Sys2Proof.Machine.execReRun op s
  | .reHalt op => Sys2Proof.Machine.execReHalt op s
  | .reCommitWrite k => Sys2Proof.Machine.execReCommitWrite k s
  | .verticalBlanking k => Sys2Proof.Machine.execVerticalBlanking k s
  | .frameComplete k => Sys2Proof.Machine.execFrameComplete k s
  | .dpsEngine op m => Sys2Proof.Machine.execDpsEngine op m s
  | .dpsCfg op => Sys2Proof.Machine.execDpsCfg op s
  | .dpsRampEnd n => Sys2Proof.Machine.execDpsRampEnd n s
  | .dpsMeas op => Sys2Proof.Machine.execDpsMeas op s
  | .senseLost n => Sys2Proof.Machine.execSenseLost n s
  | .monCfg op => Sys2Proof.Machine.execMonCfg op s
  | .monCheck op => Sys2Proof.Machine.execMonCheck op s
  | .windowMonitorTrip n vout iout => Sys2Proof.Machine.execWindowMonitorTrip n vout iout s
  | .blankEnd n => Sys2Proof.Machine.execBlankEnd n s
  | .offWatchCrossing n => Sys2Proof.Machine.execOffWatchCrossing n s
  | .budgetSample mw => Sys2Proof.Machine.execBudgetSample mw s
  | .psupCfg op => Sys2Proof.Machine.execPsupCfg op s
  | .psupTrip c => Sys2Proof.Machine.execPsupTrip c s
  | .laneSourceEvent src => Sys2Proof.Machine.execLaneSourceEvent src s
  | .plzEn p m => Sys2Proof.Machine.execPlzEn p m s
  | .plzDis p m => Sys2Proof.Machine.execPlzDis p m s
  | .seqSync p => Sys2Proof.Machine.execSeqSync p s
  | .taskSeqJump p => Sys2Proof.Machine.execTaskSeqJump p s
  | .measTrig p => Sys2Proof.Machine.execMeasTrig p s
  | .tmuArm p => Sys2Proof.Machine.execTmuArm p s
  | .awgStart a => Sys2Proof.Machine.execAwgStart a s
  | .taskAwgJump a => Sys2Proof.Machine.execTaskAwgJump a s
  | .dpsEn n m => Sys2Proof.Machine.execDpsEn n m s
  | .dpsDis n m => Sys2Proof.Machine.execDpsDis n m s
  | .dpsBlank n => Sys2Proof.Machine.execDpsBlank n s
  | .reStart k => Sys2Proof.Machine.execReStart k s
  | .cmArmOut => Sys2Proof.Machine.execCmArmOut s
  | .cmFireOut => Sys2Proof.Machine.execCmFireOut s
  | .cmHaltOut => Sys2Proof.Machine.execCmHaltOut s
  | .avOut line => Sys2Proof.Machine.execAvOut line s
  | .wake => Sys2Proof.Machine.execWake s
  | .host lane => Sys2Proof.Machine.execHost lane s
  | .andGate lane => Sys2Proof.Machine.execAndGate lane s
  | .laneCfg op => Sys2Proof.Machine.execLaneCfg op s
  | .laneFire op => Sys2Proof.Machine.execLaneFire op s
  | .laneAck op => Sys2Proof.Machine.execLaneAck op s
  | .lanCfgWrite n w => Sys2Proof.Machine.execLanCfgWrite n w s
  | .lanFireWrite lanes => Sys2Proof.Machine.execLanFireWrite lanes s
  | .lanAckWrite lanes => Sys2Proof.Machine.execLanAckWrite lanes s
  | .cmCtlArm op => Sys2Proof.Machine.execCmCtlArm op s
  | .cmCtlDisarm op => Sys2Proof.Machine.execCmCtlDisarm op s
  | .cmCtlFire op => Sys2Proof.Machine.execCmCtlFire op s
  | .cmCtlHalt op => Sys2Proof.Machine.execCmCtlHalt op s
  | .cmPulseEnd halt => Sys2Proof.Machine.execCmPulseEnd halt s
  | .cmArmDetect => Sys2Proof.Machine.execCmArmDetect s
  | .cmFireDetect armLow => Sys2Proof.Machine.execCmFireDetect armLow s
  | .cmHaltDetect => Sys2Proof.Machine.execCmHaltDetect s
  | .autodisarm => Sys2Proof.Machine.execAutodisarm s
  | .avTrain op res => Sys2Proof.Machine.execAvTrain op res s
  | .avTrainTimeout => Sys2Proof.Machine.execAvTrainTimeout s
  | .avSend op => Sys2Proof.Machine.execAvSend op s
  | .avFrameReceive line frame => Sys2Proof.Machine.execAvFrameReceive line frame s
  | .avPulseReceive line => Sys2Proof.Machine.execAvPulseReceive line s
  | .avEffect line => Sys2Proof.Machine.execAvEffect line s
  | .avLinkLost => Sys2Proof.Machine.execAvLinkLost s
  | .avCfgEnClear => Sys2Proof.Machine.execAvCfgEnClear s
  | .calRun op => Sys2Proof.Machine.execCalRun op s
  | .calRunDone op res => Sys2Proof.Machine.execCalRunDone op res s
  | .calLoad op => Sys2Proof.Machine.execCalLoad op s
  | .calRead op => Sys2Proof.Machine.execCalRead op s
  | .parkWrite op => Sys2Proof.Machine.execParkWrite op s
  | .thermalSample readings => Sys2Proof.Machine.execThermalSample readings s
  | .thermalTripClear d => Sys2Proof.Machine.execThermalTripClear d s
  | .thmLimWrite c w => Sys2Proof.Machine.execThmLimWrite c w s
  | .pmEngine op m => Sys2Proof.Machine.execPmEngine op m s
  | .pmXfer op => Sys2Proof.Machine.execPmXfer op s
  | .pmXferWaitTimeout => Sys2Proof.Machine.execPmXferWaitTimeout s
  | .pmInfo op => Sys2Proof.Machine.execPmInfo op s
  | .flashViewRead addr v => Sys2Proof.Machine.execFlashViewRead addr v s
  | .lineFillDone => Sys2Proof.Machine.execLineFillDone s
  | .flashViewReadTimeout => Sys2Proof.Machine.execFlashViewReadTimeout s
  | .psFrameStart => Sys2Proof.Machine.execPsFrameStart s
  | .psFrameEnd nbits data => Sys2Proof.Machine.execPsFrameEnd nbits data s
  | .psNop => Sys2Proof.Machine.execPsNop s
  | .psRead addr => Sys2Proof.Machine.execPsRead addr s
  | .psWrite addr data => Sys2Proof.Machine.execPsWrite addr data s
  | .psWake => Sys2Proof.Machine.execPsWake s
  | .psFrameAbandon => Sys2Proof.Machine.execPsFrameAbandon s
  | .psMbTomcWrite w => Sys2Proof.Machine.execPsMbTomcWrite w s
  | .attest op => Sys2Proof.Machine.execAttest op s
  | .idRead op => Sys2Proof.Machine.execIdRead op s
  | .floorCommit op => Sys2Proof.Machine.execFloorCommit op s
  | .keyRevoke op => Sys2Proof.Machine.execKeyRevoke op s
  | .fwWatchdogExpiry => Sys2Proof.Machine.execFwWatchdogExpiry s
  | .firmwareRestart watchdog => Sys2Proof.Machine.execFirmwareRestart watchdog s
  | .selfResetWrite w => Sys2Proof.Machine.execSelfResetWrite w s
  | .chipLevelSelfReset cause => Sys2Proof.Machine.execChipLevelSelfReset cause s
  | .internalConsistencyFailure => Sys2Proof.Machine.execInternalConsistencyFailure s
  | .faultReport src => Sys2Proof.Machine.execFaultReport src s
  | .stormWindowClose => Sys2Proof.Machine.execStormWindowClose s
  | .eqRecordWrite ctx => Sys2Proof.Machine.execEqRecordWrite ctx s
  | .diagView op => Sys2Proof.Machine.execDiagView op s
  | .regDump op => Sys2Proof.Machine.execRegDump op s
  | .snapshotLoRead r pair => Sys2Proof.Machine.execSnapshotLoRead r pair s
  | .snapshotHiRead r pair => Sys2Proof.Machine.execSnapshotHiRead r pair s
  | .peakRead r => Sys2Proof.Machine.execPeakRead r s
  | .registerWrite off bytes => Sys2Proof.Machine.execRegisterWrite off bytes s
  | .awgWriteDone op => Sys2Proof.Machine.execAwgWriteDone op s
  | .reWriteDone op => Sys2Proof.Machine.execReWriteDone op s
  | .pmXferDone res => Sys2Proof.Machine.execPmXferDone res s
  | .monCheckDone op res => Sys2Proof.Machine.execMonCheckDone op res s
  | .dpsMeasDone op codeSum clipped => Sys2Proof.Machine.execDpsMeasDone op codeSum clipped s
  | .recReadDone op => Sys2Proof.Machine.execRecReadDone op s
  | .avFrameSent line => Sys2Proof.Machine.execAvFrameSent line s
  | .dpsDropout n => Sys2Proof.Machine.execDpsDropout n s
  | .dpsDropoutEnd n => Sys2Proof.Machine.execDpsDropoutEnd n s
  | .dpsDischarged n => Sys2Proof.Machine.execDpsDischarged n s

end Sys2Proof.Machine
end

