-- ==== Sys2Proof/Machine/Tick.lean ====
section
/-! DEFINITION. The passing of time while no command waits (notes/assumptions/2.md). -/

namespace Sys2Proof.Machine

/-- One CCLK tick: TIME counts by one from the end of reset, while CCLK runs (Tables ARC-4 and
MAP-7). -/
def idleTick (s : State) : State :=
  if s.glb.lock && !s.glb.por && !s.glb.perst then { s with now := s.now + 1 } else s

end Sys2Proof.Machine
end

