-- ==== Sys2Proof/Safety.lean ====
section
/-! DEFINITION. The terms that claims about the block use: the occasion of a descriptor's commands, how an
operation stands in the table, and what counts as a safe run. -/

namespace Sys2Proof.Machine

/-- A step that went on. -/
def goesOn (s : State) : Bool :=
  match step s with
  | .next _ => true
  | _ => false

/-- Entry id is dispatched, and its descriptor in force carries the opcode: the occasion of the opcode's row. Its
descriptor does not name a PE die in STANDBY, where it runs no further (R34). -/
def Given (s : State) (id : OpId) (opc : Nat) (o : Op) : Prop :=
  op? s id = some o ∧ o.phase = .dispatched ∧ opcodeOf o.cur = opc ∧ (standingBy s && onPeDie o.cur) = false

/-- Entry id is dispatched with this opcode, in STANDBY, and its descriptor works on a PE die. -/
def Barred (s : State) (id : OpId) (opc : Nat) (o : Op) : Prop :=
  op? s id = some o ∧ o.phase = .dispatched ∧ opcodeOf o.cur = opc ∧ (standingBy s && onPeDie o.cur) = true

/-- Entry id is running, and its descriptor in force carries the opcode: the occasion of what happens later to an
operation of that opcode. -/
def Running (s : State) (id : OpId) (opc : Nat) (o : Op) : Prop :=
  op? s id = some o ∧ o.phase = .running ∧ opcodeOf o.cur = opc

/-- s with entry id running. -/
def begun (s : State) (id : OpId) : State := modOp s id fun o => { o with phase := .running }

/-- The block is awake: neither in power-on reset, nor under PERST_N, nor in DEEP SLEEP. -/
def awake (s : State) : Bool := !s.glb.por && !s.glb.perst && s.glb.pwr != .deepSleep

/-- Each byte memory is in its canonical form. -/
def memoriesWf (s : State) : Bool :=
  Mem.wf 0 s.hostMem && Mem.wf 0xFF s.flash && Mem.wf 0 s.dram.mem && Mem.wf 0 s.park.image &&
    Mem.wf 0 s.park.active

end Sys2Proof.Machine
end

