-- ==== Sys2Proof/Certificates/Slice0/Obligations.lean ====
section
/-! DEFINITION. The statements about the block, for the provers: what each command does, family by family, and
what holds of every command and every step. -/

open Sys2Proof Sys2Proof.Machine

/-! ### The queue, the idle tick and reset -/

/-- A step takes the command at the front of the queue and runs it on the state with the queue's rest. -/
def Obligations.StepRunsTheFrontCommand : Prop :=
  ∀ (c : Instr) (r : List Instr) (s : State),
    step { s with pending := c :: r } = exec c { s with pending := r }

/-- On an empty queue one CCLK tick passes: TIME counts by one while the PLLs are locked and no reset is in
force, and nothing else changes (the model's choice, notes/assumptions/2.md). -/
def Obligations.IdleStepCountsTime : Prop :=
  ∀ s : State, s.pending = [] →
    (s.glb.lock = true → s.glb.por = false → s.glb.perst = false → step s = .next { s with now := s.now + 1 }) ∧
    (s.glb.lock = false ∨ s.glb.por = true ∨ s.glb.perst = true → step s = .next s)

/-- Right after reset: power-on reset is in force in ACTIVE with VIN absent, the PLLs unlocked and no rail up; no
context, ring, operation, step or record, and no command waits; every Lane is disabled, every engine OFF, every
Plaza unlinked at width 64; every fuse floor is 0 and no key revoked; every memory is empty. -/
def Obligations.ResetState : Prop :=
  State.reset.glb.por = true ∧ State.reset.glb.pwr = .active ∧ State.reset.glb.lock = false ∧
  State.reset.glb.vinGood = false ∧ (∀ r : Rail, railGood State.reset r = false) ∧
  State.reset.boot.stage = .reset ∧ State.reset.hif.adminEn = false ∧ State.reset.ctxs = [] ∧
  State.reset.rings = [] ∧ State.reset.ops = [] ∧ State.reset.steps = [] ∧ State.reset.eqPend = [] ∧
  State.reset.pending = [] ∧
  (∀ n : Fin 64, State.reset.lanes[n].en = false) ∧ (∀ e ∈ allEngs, isOff State.reset e = true) ∧
  (∀ p : Fin 16, State.reset.plz[p].cfg.linked = false ∧ widthOf State.reset p = 64) ∧
  State.reset.boot.fwFloor = 0 ∧ State.reset.boot.patchFloor = 0 ∧
  (∀ n : Fin 4, State.reset.boot.revoked[n] = false) ∧
  State.reset.hostMem = [] ∧ State.reset.flash = [] ∧ State.reset.dram.mem = [] ∧ State.reset.park.image = []

/-! ### Start-up: rails, clocks, the boot -/

/-- VIN comes into range while power-on reset is in force, at a cold start or after a brownout: where the Lichen domain
was lost VLICH starts and REFSEL is sampled; where VLICH is still good VIO starts and REFSEL stays. A rail that
starts becomes good, and the start-up goes on by `resume`; one that does not start in time stops the sequence and sets
RAIL_FAULT, while the other rails of its order go on starting (DEDUCED, notes/assumptions/114.md). `railsEnded`
parks the outputs and lets the boot go on where no rail is starting any more. -/
def Obligations.InputPowerStartsTheRails : Prop :=
  (∀ (s : State) (refsel : Bool), s.glb.por = true → s.glb.vinGood = false → s.pwr.starting = [] →
      s.pwr.seqStopped = false → ∀ c ∈ [Instr.coldStart refsel, .vinRestored refsel],
      (railGood s .vlich = false → exec c s = .next { s with
        glb := { s.glb with vinGood := true, refsel := refsel }, pwr := { s.pwr with starting := [.vlich] } }) ∧
      (railGood s .vlich = true → railGood s .vio = false → s.glb.pwr ≠ .deepSleep → exec c s = .next { s with
        glb := { s.glb with vinGood := true }, pwr := { s.pwr with starting := [.vio] } })) ∧
  (∀ (s : State) (r : Rail), r ∈ s.pwr.starting →
      exec (.railGood r) s = .next (railsEnded (resume { s with pwr := { s.pwr with
        railUp := s.pwr.railUp.set (railIx r) true, starting := s.pwr.starting.filter (· != r) } })) ∧
      exec (.railStartTimeout r) s = .next (railsEnded { s with pwr := { s.pwr with
        starting := s.pwr.starting.filter (· != r), seqStopped := true,
        evt := { s.pwr.evt with railFault := true } } }))

/-- The PLLs lock with the core rails good, outside DEEP SLEEP: where power-on reset was in force it ends and CHIPID and
PS_CHAIN are sampled, and the start-up goes on by `resume`. -/
def Obligations.PllLockEndsPowerOnReset : Prop :=
  ∀ (s : State) (chipid : BitVec 6) (chain : Bool), s.glb.vinGood = true → s.glb.lock = false →
    coreUp s = true → s.glb.pwr ≠ .deepSleep →
    (s.glb.por = true → exec (.pllLock chipid chain) s = .next (resume { s with
      glb := { s.glb with por := false, chipid := chipid, psChain := chain, lock := true } })) ∧
    (s.glb.por = false → exec (.pllLock chipid chain) s = .next (resume { s with
      glb := { s.glb with lock := true } }))

/-- `resume` begins the boot exactly where no reset is in force, the core rails are good, the PLLs are locked and
the block is in RESET outside DEEP SLEEP; else it changes only which rails are starting. -/
def Obligations.BootBeginsWhenReady : Prop :=
  ∀ s : State,
    (s.boot.stage = .reset → s.glb.por = false → s.glb.perst = false → s.glb.lock = true → coreUp s = true →
      s.glb.pwr ≠ .deepSleep → (resume s).boot.stage = .rom ∧ (resume s).boot.trying = 1 ∧
        (resume s).pm.eng.st = .starting ∧ (resume s).park.loaded = true) ∧
    (s.boot.stage ≠ .reset ∨ s.glb.por = true ∨ s.glb.perst = true ∨ s.glb.lock = false ∨ coreUp s = false ∨
      s.glb.pwr = .deepSleep → resume s = { s with pwr := { s.pwr with starting := (resume s).pwr.starting } })

/-- VIN leaves its range: power-on reset, the operations and rings gone, the cause in PWR_EVT, and the monitor set-ups,
the Lanes, the flags, REFSEL and the waiting records of the Lichen domain kept (the model's reading of R311 against
R331, R346 and R440, notes/assumptions/106.md). VLICH fails: every rail is down, and the Lichen domain is lost as
well. Host memory, the flash, the park store and the fuses stay in each case. -/
def Obligations.InputPowerFailureResets : Prop :=
  ∀ s : State,
    (s.glb.vinGood = true → ∃ t u, exec .vinUndervoltage s = .next t ∧ exec .vinOvervoltage s = .next u ∧
      t.pwr.evt = { lichenFlags s.pwr.evt with brownout := true } ∧
      u.pwr.evt = { lichenFlags s.pwr.evt with vinOvSeen := true } ∧
      ∀ v ∈ [t, u], v.glb.por = true ∧ v.glb.vinGood = false ∧ v.rings = [] ∧ v.ops = [] ∧
        v.hostMem = s.hostMem ∧ v.flash = s.flash ∧ v.park.image = s.park.image ∧ v.boot.fwFloor = s.boot.fwFloor ∧
        v.boot.patchFloor = s.boot.patchFloor ∧ v.boot.revoked = s.boot.revoked ∧ v.glb.refsel = s.glb.refsel ∧
        (∀ n : Fin 32, v.dps[n].mon = s.dps[n].mon) ∧ v.eqPend = (keepRecs s s).eqPend ∧
        ∀ n : Fin 64, v.lanes[n] = { s.lanes[n] with hostPend := s.lanes[n].hostPend && eventWaits v n }) ∧
    ∃ t, exec .lichenPowerLoss s = .next t ∧ t.glb.por = true ∧ t.glb.vinGood = false ∧ t.pwr.evt = {} ∧
      t.rings = [] ∧ t.ops = [] ∧ t.hostMem = s.hostMem ∧ t.flash = s.flash ∧ t.park.image = s.park.image ∧
      t.boot.fwFloor = s.boot.fwFloor ∧ t.boot.patchFloor = s.boot.patchFloor ∧ t.boot.revoked = s.boot.revoked ∧
      t.dps = State.reset.dps ∧ t.lanes = State.reset.lanes ∧ ∀ r : Rail, railGood t r = false

/-- With no reset in force (PERST_N low in DEEP SLEEP puts none in force, notes/assumptions/112.md), a rail of order 1 to
5 out of tolerance makes a self-reset, and a rail of PE die n puts every engine of the die into FAULT with PE_RAIL, each
reporting for itself (DEDUCED, notes/assumptions/115.md), opens its outputs by `openDie` and ends the sampling
of its sensors. A sample of VIN outside DEEP SLEEP is kept, bounds the codes of parked supplies, and with an input
current above 15 A trips every DPS. -/
def Obligations.RailsInOperation : Prop :=
  ∀ s : State, s.glb.por = false → perstHolds s = false →
    (∀ r : Rail, railGood s r = true → railOrder r ≤ 5 →
      exec (.railOutOfTolerance r) s = .next (selfReset s .rail)) ∧
    (∀ (n : Fin 8), ∀ r ∈ [Rail.vped n, .vpep n, .vpen n], railGood s r = true →
      exec (.railOutOfTolerance r) s = .next (unsampled (openDie
        (faultMany (setRail s r false) ((dieEngs n).map fun e => (e, fcPeRail)) eAborted fun _ => true) n)
        (Fin.ofNat 10 n.val))) ∧
    (s.glb.perst = false → s.glb.pwr ≠ .deepSleep → ∀ (v : BitVec 16) (i : Nat) (u : State),
      u = reparkDps { s with pwr := { s.pwr with vin := v } } →
      (i ≤ 15000 → exec (.vinSample v i) s = .next u) ∧
      (15000 < i → exec (.vinSample v i) s =
        .next (tripAll { u with pwr := { u.pwr with evt := { u.pwr.evt with vinOc := true } } } 6)))

/-- PERST_N resets the block and is named in RST_CAUSE, and host memory, the flash, the park store and the fuses stay; in
DEEP SLEEP it is only noted (DEDUCED, notes/assumptions/112.md). Its release samples the straps and lets the
boot run, or wakes a block in DEEP SLEEP; under power-on reset it is only noted. -/
def Obligations.PerstResetsAndReleases : Prop :=
  ∀ s : State,
    (s.glb.perst = false → s.glb.pwr ≠ .deepSleep → ∃ t, exec .perstNAssert s = .next t ∧ t.glb.perst = true ∧
      t.boot.rst = { s.boot.rst with perst := true } ∧ t.boot.stage = .reset ∧ t.rings = [] ∧ t.ops = [] ∧
      t.ctxs = State.reset.ctxs ∧ t.hif = State.reset.hif ∧ t.lanes = State.reset.lanes ∧
      t.hostMem = s.hostMem ∧ t.flash = s.flash ∧ t.park.image = s.park.image ∧
      t.boot.fwFloor = s.boot.fwFloor ∧ t.boot.patchFloor = s.boot.patchFloor ∧ t.boot.revoked = s.boot.revoked) ∧
    (s.glb.perst = false → s.glb.pwr = .deepSleep →
      exec .perstNAssert s = .next { s with glb := { s.glb with perst := true } }) ∧
    (∀ (chipid : BitVec 6) (chain : Bool), s.glb.perst = true →
      (s.glb.por = true →
        exec (.perstNDeassert chipid chain) s = .next { s with glb := { s.glb with perst := false } }) ∧
      (s.glb.por = false → ∀ u, u = { s with
          glb := { s.glb with perst := false, chipid := chipid, psChain := chain } } →
        (s.glb.pwr ≠ .deepSleep → exec (.perstNDeassert chipid chain) s = .next (resume u)) ∧
        (s.glb.pwr = .deepSleep → exec (.perstNDeassert chipid chain) s = .next (wakeNow u))))

/-- The firmware declares itself RUNNING: after a boot, once every powered PE die has been sampled, the manifest tried,
its version and its key slot are named, and before that nothing changes (the model's reading of R150 at start-up,
notes/assumptions/229.md); after a restart the stage alone changes. A manifest that takes 80 ms fails with code 7: the
secondary is tried next, and after it comes RECOVERY. A patch load that takes 20 ms fails with code 9 and one record.
-/
def Obligations.BootStagesAdvance : Prop :=
  ∀ s : State,
    (s.boot.stage = .fwInit → (peSampled s = false → exec .firmwareRunning s = .next s) ∧
      (peSampled s = true → ∃ t, exec .firmwareRunning s = .next t ∧ t.boot.stage = .running ∧
        t.boot.manifest = BitVec.ofNat 2 s.boot.trying ∧
        t.glb.fwVer = BitVec.ofNat 32 (numAt s.boot.runMan 8 4) ∧
        t.boot.keyslot = BitVec.ofNat 2 (numAt s.boot.runMan 6 1))) ∧
    (s.boot.stage = .restarting →
      exec .firmwareRunning s = .next { s with boot := { s.boot with stage := .running } }) ∧
    (s.boot.stage = .rom ∨ s.boot.stage = .fwLoad ∨ s.boot.stage = .fwInit →
      (s.boot.trying = 2 → ∃ t, exec .bootManifestTimeout s = .next t ∧ t.boot.stage = .recovery ∧
        t.boot.failS = 7 ∧ t.boot.manifest = 0 ∧ t.glb.fwVer = 0) ∧
      (s.boot.trying ≠ 2 → exec .bootManifestTimeout s = .next (bootTry { s with
        patch := { s.patch with st := 1 }, boot := { s.boot with failP := 7, trying := 2 } }))) ∧
    (s.boot.stage = .fwInit → s.patch.st = 1 → numAt s.boot.runMan 0x14 4 ≠ 0 →
      exec .patchLoadTimeout s = .next (postEq
        { s with patch := { limit := s.patch.limit, st := 3, failCode := 9 } } none (mkEq s 0x0004 0 9 0)))

/-- A PLL that loses lock in ACTIVE or IDLE, with no reset in force, is reported once, from source 149 (DEDUCED,
notes/assumptions/116.md), and puts every engine but port M into FAULT with PLL_LOCK; in another power state the loss
is only noted. A flit of die link n that fails its CRC while the die is powered is reported at Plaza 2n and puts
Plazas and AWGs 2n and 2n + 1 into FAULT with DIE_LINK. -/
def Obligations.ClockAndDieLinkFailures : Prop :=
  ∀ s : State,
    (s.glb.lock = true → ∀ u, u = { s with glb := { s.glb with lock := false, lockLost := true } } →
      (s.glb.por = false → s.glb.perst = false → s.glb.pwr = .active ∨ s.glb.pwr = .idle →
        exec .pllLockLoss s = .next (faultMany (report u 149 fcPllLock)
          ((allEngs.filter (· != .portM)).map fun e => (e, fcPllLock)) eAborted fun _ => false)) ∧
      (s.glb.por = true ∨ s.glb.perst = true ∨ (s.glb.pwr ≠ .active ∧ s.glb.pwr ≠ .idle) →
        exec .pllLockLoss s = .next u)) ∧
    (∀ n : Fin 8, peGood s n = true → s.glb.lock = true → s.glb.por = false → s.glb.perst = false →
      exec (.dieLinkCrcFail n) s = .next (faultMany (report s (2 * n.val) fcDieLink)
        ((linkEngs n).map fun e => (e, fcDieLink)) eAborted fun e => !(linkEngs n).contains e))

/-! ### Power states -/

/-- A write of REQ over the link with no change in progress is acted on by `actOn`, and one that meets a change is held
in place of an earlier held one; the write shows that the link is in L0 (DEDUCED, notes/assumptions/132.md). -/
def Obligations.PowerRequestsAreActedOnOrHeld : Prop :=
  ∀ s : State, barsOn s = true →
    (s.glb.busy = true → ∀ x ∈ [(Instr.pwrReqActive, 0#2), (.pwrReqStandby, 1#2), (.pwrReqDeepSleep, 2#2)],
      exec x.1 s = .next { s with glb := { s.glb with req := x.2, linkL23 := false, heldReq := some x.2 } }) ∧
    (s.glb.busy = false → ∀ x ∈ [(Instr.pwrReqActive, 0#2), (.pwrReqStandby, 1#2), (.pwrReqDeepSleep, 2#2)],
      exec x.1 s = .next (actOn { s with glb := { s.glb with req := x.2, linkL23 := false } } x.2))

/-- In ACTIVE or IDLE, STANDBY and DEEP SLEEP are accepted exactly where every engine is OFF: then every DPS is isolated,
the Commons lines are released and BUSY is set; else REFUSED alone is set. In STANDBY or with DEEP SLEEP requested
either request is accepted with every engine OFF, and refused else. In STANDBY the row of a descriptor for an engine
on a PE die ends it with E_ARG (R34). The model's choices: the outputs are isolated and the Commons lines released as
the request is accepted (notes/assumptions/102.md), every engine OFF is asked of the cycle in which the request is
acted on (notes/assumptions/211.md), and which opcodes work on a PE die (notes/assumptions/193.md). -/
def Obligations.StandbyNeedsEveryEngineOff : Prop :=
  ∀ (s : State) (r : BitVec 2), r = 1 ∨ r = 2 →
    (s.glb.pwr = .active ∨ s.glb.pwr = .idle → (∀ e ∈ allEngs, isOff s e = true) →
      actOn s r = beginChange (harmless s) (if r = 1 then .standby else .deepReq) ∧
      (∀ n : Fin 32, (actOn s r).dps[n].sDps = false ∧ (actOn s r).dps[n].sink = false) ∧
      (actOn s r).cm.armDriven = false ∧ (actOn s r).cm.fireDriven = false ∧ (actOn s r).cm.haltDriven = false ∧
      (actOn s r).glb.busy = true) ∧
    (s.glb.pwr = .standby ∨ s.glb.pwr = .deepReq → s.glb.linkL23 = false → (∀ e ∈ allEngs, isOff s e = true) →
      actOn s r = { s with glb := { s.glb with pwr := if r = 1 then .standby else .deepReq } }) ∧
    (s.glb.pwr ≠ .deepSleep → (∃ e ∈ allEngs, isOff s e = false) →
      actOn s r = { s with glb := { s.glb with refused := true } }) ∧
    (∀ (id : OpId) (o : Op) (m : Meet),
      ∀ x ∈ [(Instr.chCfg id, 0x39), (.cmpSelftest id, 0x3B), (.maskArm id, 0x45), (.pmuMeas id, 0x50), (.acq id, 0x51),
          (.tmuMeas id, 0x54), (.meaEngine id m, 0x55), (.awgEngine id m, 0x60), (.awgCfg id, 0x61), (.awgWrite id, 0x62),
          (.awgSeq id, 0x63), (.awgRun id, 0x64), (.awgJump id, 0x65), (.psupCfg id, 0x7D)],
        Barred s id x.2 o → exec x.1 s = .next (completeOp s id eArg []))

/-- A change of power state with no request held ends with BUSY clear in the state it goes to, the return to ACTIVE
once the rails and the first samples are there. DEEP SLEEP is entered from its request once the link is in L2 or L3;
a request 100 ms old with the link elsewhere is cancelled with REFUSED, in progress or not; WAKE_N wakes. -/
def Obligations.PowerChangesEnd : Prop :=
  ∀ s : State,
    (s.glb.busy = true → s.glb.target = .standby → s.glb.heldReq = none →
      ∃ t, exec .powerStateChangeDone s = .next t ∧ t.glb.busy = false ∧ t.glb.pwr = .standby) ∧
    (s.glb.busy = true → s.glb.target = .deepReq → s.glb.heldReq = none → s.glb.linkL23 = false →
      ∃ t, exec .powerStateChangeDone s = .next t ∧ t.glb.busy = false ∧ t.glb.pwr = .deepReq) ∧
    (s.glb.busy = true → s.glb.target = .active → upReady s = true → s.glb.heldReq = none →
      ∃ t, exec .powerStateChangeDone s = .next t ∧ t.glb.busy = false ∧
        (t.glb.pwr = .active ∨ t.glb.pwr = .idle)) ∧
    (awake s = true → s.glb.pwr = .deepReq → s.glb.busy = false →
      exec .linkL2L3Entry s = .next (sleepNow { s with glb := { s.glb with linkL23 := true } })) ∧
    (awake s = true → s.glb.pwr ≠ .deepReq ∨ s.glb.busy = true →
      exec .linkL2L3Entry s = .next { s with glb := { s.glb with linkL23 := true } }) ∧
    (s.glb.linkL23 = false → s.glb.busy = false → s.glb.pwr = .deepReq →
      exec .deepSleepRequestTimeout s =
        .next { s with glb := { s.glb with pwr := .standby, refused := true } }) ∧
    (s.glb.linkL23 = false → s.glb.busy = true → s.glb.target = .deepReq →
      exec .deepSleepRequestTimeout s =
        .next { s with glb := { s.glb with target := .standby, refused := true } }) ∧
    (s.glb.pwr = .deepSleep → exec .wakeNLow s = .next (wakeNow s))

/-! ### The block state machine -/

/-- The Enable column of Table ARC-7, for an enable by the control register of an engine that is no member of a link set.
One that loses to a disable in the same cycle is absorbed in any state (R44); else one that a calibration, a throttle or
RECOVERY bars is rejected in any state; else OFF starts, or rejects where the start is blocked; the one cycle of OFF
after a stop with an enable held, STARTING, ON and PENDING_ON absorb it; STOPPING holds it; FAULT rejects it, also one
that loses to a fault in the same cycle. One of two enables that count as one sets nothing beside what the other set. -/
def Obligations.EnableFollowsTheStateTable : Prop :=
  ∀ (s : State) (e : Eng) (m : Meet), barsOn s = true → isMember s e = false →
    (m = .withDisable → exec (.ctlEnable e m) s = .next (modEng s e fun c => { c with absorbed := true })) ∧
    (m ≠ .withDisable → (∃ x ∈ together s e, calibrating s x = true) ∨ throttled s e = true ∨
        (s.boot.stage = .recovery ∧ e ≠ .portM) →
      exec (.ctlEnable e m) s = .next (modEng s e fun c => { c with reqRejected := true })) ∧
    (m ≠ .withDisable → (∀ x ∈ together s e, calibrating s x = false) → throttled s e = false →
        s.boot.stage ≠ .recovery ∨ e = .portM →
      ∃ t, exec (.ctlEnable e m) s = .next t ∧
        ((getEng s e).st = .off → (getEng s e).offCycle = false → startBlocked s e = false →
          (getEng t e).st = .starting) ∧
        ((getEng s e).st = .off → (getEng s e).offCycle = false → startBlocked s e = true →
          (getEng t e).st = .off ∧ (getEng t e).reqRejected = true) ∧
        (((getEng s e).st = .off ∧ (getEng s e).offCycle = true) ∨ (getEng s e).st = .starting ∨
            (getEng s e).st = .on ∨ (getEng s e).st = .pendingOn →
          (m = .withSame → t = s) ∧ (m ≠ .withSame → t = modEng s e fun c => { c with absorbed := true })) ∧
        ((getEng s e).st = .stopping → (getEng t e).st = .pendingOn) ∧
        ((getEng s e).st = .fault → t = modEng s e fun c => { c with reqRejected := true }))

/-- The Disable column of Table ARC-7, for a disable by the control register of an engine that is no member of a link
set: STARTING and ON stop, PENDING_ON cancels the held enable and stops, FAULT goes to OFF without STOPPING, OFF and
STOPPING absorb it; in the one cycle of OFF after a stop it cancels the held enable, and the engine stays OFF (R42). One
that loses to a fault in the same cycle is absorbed and the engine stays in FAULT (R44). A member of a link set has its
own requests rejected (R25). -/
def Obligations.DisableFollowsTheStateTable : Prop :=
  (∀ (s : State) (e : Eng) (m : Meet), barsOn s = true → isMember s e = false →
      ∃ t, exec (.ctlDisable e m) s = .next t ∧
        ((getEng s e).st = .off → (getEng s e).offCycle = false → (getEng t e).st = .off ∧
          (m ≠ .withSame → (getEng t e).absorbed = true)) ∧
        ((getEng s e).st = .off → (getEng s e).offCycle = true →
          (getEng t e).st = .off ∧ (getEng t e).offCycle = false ∧ (getEng t e).heldOps = []) ∧
        ((getEng s e).st = .starting ∨ (getEng s e).st = .on → (getEng t e).st = .stopping) ∧
        ((getEng s e).st = .stopping → (getEng t e).st = .stopping ∧
          (m ≠ .withSame → (getEng t e).absorbed = true)) ∧
        ((getEng s e).st = .pendingOn → (getEng t e).st = .stopping ∧ (getEng t e).heldOps = []) ∧
        ((getEng s e).st = .fault → m ≠ .withFault → (getEng t e).st = .off) ∧
        ((getEng s e).st = .fault → m = .withFault → (getEng t e).st = .fault ∧ (getEng t e).absorbed = true)) ∧
  (∀ (s : State) (p : Fin 16) (m : Meet), barsOn s = true → (s.plz[p]).cfg.linked = true →
      exec (.ctlEnable (.plaza p) m) s =
        .next (modEng s (.plaza p) fun c => { c with reqRejected := true }) ∧
      exec (.ctlDisable (.plaza p) m) s =
        .next (closeCheck (modEng s (.plaza p) fun c => { c with reqRejected := true })))

/-- An engine that is no member of a link set: STARTING ends in ON once what it does has been done, STOPPING in OFF; with
an enable held, STOPPING ends in one cycle of OFF with the enable still held. After that cycle the held enable starts
the engine, or is rejected where the start is blocked. -/
def Obligations.StartsAndStopsEnd : Prop :=
  ∀ (s : State) (e : Eng), isMember s e = false →
    ((getEng s e).st = .starting → startReady s e = true → ∃ t, exec (.engineStartDone e) s = .next t ∧
      (getEng t e).st = .on ∧ (getEng t e).startOps = []) ∧
    (stopReady s e = true → (getEng s e).st = .stopping → (getEng s e).offCycle = false →
      ∃ t, exec (.engineStopDone e) s = .next t ∧ (getEng t e).st = .off ∧ (getEng t e).offCycle = false ∧
        (getEng t e).stopOps = []) ∧
    (stopReady s e = true → (getEng s e).st = .pendingOn →
      ∃ t, exec (.engineStopDone e) s = .next t ∧ (getEng t e).st = .off ∧ (getEng t e).offCycle = true ∧
        (getEng t e).stopOps = [] ∧ (getEng t e).heldOps = (getEng s e).heldOps) ∧
    ((getEng s e).offCycle = true → ∀ u,
      u = (together s e).foldl (fun s x => modEng s x fun c => { c with offCycle := false }) s →
      ∃ t, exec (.heldEnableTakesEffect e) s = .next t ∧ (getEng t e).offCycle = false ∧
        (getEng t e).heldOps = [] ∧
        (startBlocked u e = false → (getEng t e).st = .starting ∧ (getEng t e).startOps = (getEng s e).heldOps) ∧
        (startBlocked u e = true → (getEng t e).st = (getEng s e).st ∧ (getEng t e).reqRejected = true))

/-- A STARTING or STOPPING timeout of an engine that is no member of a link set puts it into FAULT with TIMEOUT and
TIMED_OUT, and no enabling or held descriptor waits for it any more. A link set acts as a whole (R24 to R27): an enable,
a disable, the end of a start or of a stop, and a timeout of its leader take every Plaza of the set to the same state,
an enable of a set that is not valid starts nothing, and a FAULT of any Plaza of a set whose leader is not OFF takes all
of them to FAULT, those that were not in FAULT with the code LINK_SET. -/
def Obligations.EngineTimeoutsFault : Prop :=
  (∀ (s : State) (e : Eng), isMember s e = false →
    ((getEng s e).st = .starting → ∃ t, exec (.startTimeout e) s = .next t ∧ (getEng t e).st = .fault ∧
      (getEng t e).timedOut = true ∧ (getEng t e).faultCode = fcTimeout ∧ (getEng t e).startOps = [] ∧
      (getEng t e).heldOps = []) ∧
    ((getEng s e).st = .stopping ∨ (getEng s e).st = .pendingOn → ∃ t, exec (.stopTimeout e) s = .next t ∧
      (getEng t e).st = .fault ∧ (getEng t e).timedOut = true ∧ (getEng t e).faultCode = fcTimeout ∧
      (getEng t e).startOps = [] ∧ (getEng t e).heldOps = [])) ∧
  (∀ (s : State) (p : Fin 16), (s.plz[p]).cfg.linked = false →
    let all (t : State) (st : EngState) : Prop := ∀ q ∈ setOf s p, (getEng t (.plaza q)).st = st
    (barsOn s = true → (getEng s (.plaza p)).st = .off → (getEng s (.plaza p)).offCycle = false →
      (startBlocked s (.plaza p) = false → ∃ t, exec (.ctlEnable (.plaza p) .alone) s = .next t ∧ all t .starting) ∧
      (setBad s p = true → ∃ t, exec (.ctlEnable (.plaza p) .alone) s = .next t ∧
        (getEng t (.plaza p)).reqRejected = true ∧
        ∀ q ∈ setOf s p, (getEng t (.plaza q)).st = (getEng s (.plaza q)).st)) ∧
    (barsOn s = true → (getEng s (.plaza p)).st = .on ∨ (getEng s (.plaza p)).st = .starting →
      ∃ t, exec (.ctlDisable (.plaza p) .alone) s = .next t ∧ all t .stopping) ∧
    ((getEng s (.plaza p)).st = .starting →
      (∃ t, exec (.engineStartDone (.plaza p)) s = .next t ∧ all t .on) ∧
      (∃ t, exec (.startTimeout (.plaza p)) s = .next t ∧ all t .fault)) ∧
    ((getEng s (.plaza p)).st = .stopping →
      (∃ t, exec (.engineStopDone (.plaza p)) s = .next t ∧ all t .off) ∧
      (∃ t, exec (.stopTimeout (.plaza p)) s = .next t ∧ all t .fault)) ∧
    (∀ q ∈ setOf s p, ∀ code : BitVec 8, (getEng s (.plaza q)).st ≠ .fault → (getEng s (.plaza p)).st ≠ .off →
      ∃ t, t = faultEng s (.plaza q) code ∧ all t .fault ∧ (getEng t (.plaza q)).faultCode = code ∧
        ∀ r ∈ setOf s p, r ≠ q → (getEng s (.plaza r)).st ≠ .fault →
          (getEng t (.plaza r)).faultCode = fcLinkSet))

/-- A descriptor that enables or disables an engine requests it with its own number; a throttled die refuses an
enable with E_THERMAL. An enable that loses to a disable, and a disable that loses to a fault, are absorbed and end with
E_ABORTED; an enable that is barred or reaches an engine in FAULT is rejected and ends with E_ARG (R44, R46). ACTION 1
enables and 2 disables; another ACTION, or a MEA_ENGINE that names no unit, ends with E_ARG. -/
def Obligations.EngineDescriptorsRequest : Prop :=
  ∀ (s : State) (id : OpId) (o : Op) (m : Meet),
    (∀ (e : Eng), throttled s e = false → enableOp s e id m = enableEng s e (some id) m) ∧
    (∀ (e : Eng), throttled s e = true → enableOp s e id m = finishOp s id eThermal []) ∧
    (∀ (e : Eng), isMember s e = false →
      enableEng s e (some id) .withDisable = finishOp (modEng s e fun c => { c with absorbed := true }) id eAborted [] ∧
      (m ≠ .withDisable → alwaysBlocked s e = true ∨ (getEng s e).st = .fault → enableEng s e (some id) m =
        finishOp (modEng s e fun c => { c with reqRejected := true }) id eArg []) ∧
      ((getEng s e).st = .fault → disableEng s e (some id) .withFault =
        finishOp (modEng s e fun c => { c with absorbed := true }) id eAborted [])) ∧
    (Given s id 0x10 o → exec (.plzEnable id m) s =
      .next (enableOp (begun s id) (.plaza (Fin.ofNat 16 (bits (wd o.cur 2) 3 0))) id m)) ∧
    (Given s id 0x11 o → exec (.plzDisable id m) s =
      .next (disableEng (begun s id) (.plaza (Fin.ofNat 16 (bits (wd o.cur 2) 3 0))) (some id) m)) ∧
    (∀ x : Instr × Nat × Eng, x ∈ [(Instr.awgEngine id m, 0x60, Eng.awg (Fin.ofNat 16 (bits (wd o.cur 2) 3 0))),
        (.reEngine id m, 0x70, .re (Fin.ofNat 4 (bits (wd o.cur 2) 1 0))),
        (.dpsEngine id m, 0x78, .dps (Fin.ofNat 32 (bits (wd o.cur 2) 4 0))), (.pmEngine id m, 0x90, .portM)] ∨
      (x.1 = .meaEngine id m ∧ x.2.1 = 0x55 ∧ meaEng o.cur = some x.2.2) →
      Given s id x.2.1 o →
      (bits (wd o.cur 2) 31 30 = 1 → exec x.1 s = .next (enableOp (begun s id) x.2.2 id m)) ∧
      (bits (wd o.cur 2) 31 30 = 2 → exec x.1 s = .next (disableEng (begun s id) x.2.2 (some id) m)) ∧
      (bits (wd o.cur 2) 31 30 = 0 ∨ bits (wd o.cur 2) 31 30 = 3 →
        exec x.1 s = .next (finishOp (begun s id) id eArg []))) ∧
    (∀ n : Fin 64, (wd o.cur 2).getLsbD 24 = true → bits (wd o.cur 2) 5 0 = n.val → meaEng o.cur = some (.tmu n)) ∧
    (∀ p : Fin 16, (wd o.cur 2).getLsbD 24 = false → bits (wd o.cur 2) 5 0 = p.val →
      meaEng o.cur = some (.dg p)) ∧
    ((wd o.cur 2).getLsbD 24 = false → 16 ≤ bits (wd o.cur 2) 5 0 → Given s id 0x55 o →
      exec (.meaEngine id m) s = .next (finishOp (begun s id) id eArg []))

/-! ### The host link -/

/-- The format agreement is the offer while ADMIN_EN is 0 and stands while it is 1; ADMIN_EN, with a format agreed,
opens context 0 and attaches the three admin rings where their entries hold, and sets RT_BAD where they do not or
cannot be read; set already, it stays as it is. -/
def Obligations.FormatAgreementAndAdminContext : Prop :=
  ∀ s : State, barsOn s = true →
    (∀ (w : Word) (e : Bool), s.hif.adminEn = true →
      exec (.hifVerOfferWrite w) s = .next s ∧ exec (.adminEnSet e) s = .next s) ∧
    (∀ w : Word, s.hif.adminEn = false → exec (.hifVerOfferWrite w) s = .next { s with hif := { s.hif with
      offerF1 := w.getLsbD 1, offerF2 := w.getLsbD 2,
      agreedF1 := w.getLsbD 1, agreedF2 := w.getLsbD 2 } }) ∧
    (s.hif.adminEn = false → s.hif.agreedF1 = true ∨ s.hif.agreedF2 = true →
      (∀ rs, adminRings s = some rs → exec (.adminEnSet false) s = .next { s with
        rings := rs ++ s.rings, ctxs := { num := 0 } :: s.ctxs,
        hif := { s.hif with adminEn := true, adminOn := true } }) ∧
      (adminRings s = none →
        exec (.adminEnSet false) s = .next { s with hif := { s.hif with rtBad := true } }) ∧
      exec (.adminEnSet true) s = .next { s with hif := { s.hif with rtBad := true } })

/-- Without an agreed format a write of 1 to ADMIN_EN is ignored and sets FMT_NONE (R62). -/
def Obligations.AdminEnNeedsAnAgreedFormat : Prop :=
  ∀ (s : State) (readError : Bool), barsOn s = true → s.hif.adminEn = false → s.hif.agreedF1 = false →
    s.hif.agreedF2 = false →
    exec (.adminEnSet readError) s = .next { s with hif := { s.hif with fmtNone := true } }

/-- An FLR, a DL_Down and the clearing of ADMIN_EN detach every ring, clear ADMIN_EN and the agreement and mask
every vector; the ring-table base and the waits stay. RST_CAUSE notes the first two. -/
def Obligations.LinkResetsDetachEverything : Prop :=
  ∀ s : State,
    (awake s = true → ∀ c ∈ [Instr.flr, .dlDown], ∃ t, exec c s = .next t ∧ t.rings = [] ∧
      t.hif.adminEn = false ∧ t.hif.adminOn = false ∧ t.hif.agreedF1 = false ∧ t.hif.agreedF2 = false ∧
      t.hif.rtLo = s.hif.rtLo ∧ t.hif.rtHi = s.hif.rtHi ∧ t.hif.qwait = s.hif.qwait ∧
      (∀ e ∈ t.msix, e.masked = true) ∧ t.boot.rst.flr = true) ∧
    (barsOn s = true → s.hif.adminEn = true → ∃ t, exec .adminEnClear s = .next t ∧ t.rings = [] ∧
      t.hif.adminEn = false ∧ t.hif.adminOn = false ∧ t.hif.agreedF1 = false ∧ t.hif.agreedF2 = false ∧
      t.hif.rtLo = s.hif.rtLo ∧ t.hif.rtHi = s.hif.rtHi ∧ t.hif.qwait = s.hif.qwait ∧
      (∀ e ∈ t.msix, e.masked = true))

/-- An 8-byte doorbell write at the start of a page, with the admin context on, moves the tail of an SQ or the
released head of another ring, where the ring is attached, the page's own context is open and holds it, no reserved
bit is set and the index and the advance are within what the ring allows; else every ring stays and each case that
holds sets its own bit, with the page and the ring noted. A write of another form, or before the admin context is on,
only sets its bit, DB_FORMAT alone for a wrong form before ADMIN_ON, and LAST_BAD stays (the model's choice,
notes/assumptions/197.md). -/
def Obligations.DoorbellsMoveOwnRings : Prop :=
  ∀ (s : State) (page off : BitVec 12) (size : Nat) (val : BitVec 64), barsOn s = true →
    (size ≠ 8 ∨ off ≠ 0 → exec (.doorbell page off size val) s =
      .next { s with hif := { s.hif with dbFormat := true } }) ∧
    (s.hif.adminOn = false → exec (.doorbell page 0 8 val) s =
      .next { s with hif := { s.hif with fmtNone := true } }) ∧
    (s.hif.adminOn = true → ∀ (n i : Nat) (foreign closed wrong : Bool), n = bits val 14 0 → i = bits val 31 16 →
      (foreign = true ↔ ∃ r, ring? s n = some r ∧ r.ctx ≠ page.toNat) →
      (closed = true ↔ ring? s n = none ∨ isOpen s page.toNat = false) →
      (wrong = true ↔ bits val 63 32 ≠ 0 ∨ val.getLsbD 15 = true ∨ ∃ r, ring? s n = some r ∧ (r.size ≤ i ∨
        (r.ty = .sq ∧ r.size - 1 - r.used < (i + r.size - r.tail) % r.size) ∨
        (r.ty ≠ .sq ∧ r.used < (i + r.size - r.head) % r.size))) →
      (foreign = false → closed = false → wrong = false → exec (.doorbell page 0 8 val) s =
        .next (modRing s n fun q => if q.ty = .sq then { q with tail := i } else { q with head := i })) ∧
      (foreign = true ∨ closed = true ∨ wrong = true → exec (.doorbell page 0 8 val) s =
        .next { s with hif := { s.hif with
          lastBadPage := page, lastBadRing := BitVec.ofNat 15 n, dbForeign := s.hif.dbForeign || foreign,
          dbClosed := s.hif.dbClosed || closed, dbOverrun := s.hif.dbOverrun || wrong } }))

/-- A fetch read from an SQ that fetches takes up to eight descriptors in ring order, as many as the operation table has
room for, and releases their entries; a failed read stops the SQ with one record; a read part that times out is made
again up to RETRIES times, and then stops the SQ. -/
def Obligations.FetchTakesDescriptorsInOrder : Prop :=
  ∀ (s : State) (n : RingId) (r : Ring), ring? s n = some r → fetches s r = true →
    (∀ cnt : Nat, cnt ≤ r.used → cnt ≤ 8 →
      (let t := ((List.range cnt).map fun i => sqEntry s r (r.head + i)).foldl (acceptOne n)
          (modRing s n fun q => { q with head := (q.head + cnt) % q.size, retries := 0 })
       t.ops.length - s.ops.length ≤ roomFor s r.ctx → exec (.sqFetchComplete n cnt .ok) s = .next t) ∧
      exec (.sqFetchComplete n cnt .error) s = .next (stopSq s r)) ∧
    (r.used ≠ 0 → r.retries < s.hif.retries.toNat → exec (.sqFetchTimeout n) s =
      .next (modRing s n fun q => { q with retries := q.retries + 1 })) ∧
    (r.used ≠ 0 → s.hif.retries.toNat ≤ r.retries → exec (.sqFetchTimeout n) s = .next (stopSq s r))

/-- An operation whose turn it is is dispatched with the next sequence number and bound to the MQs of the Plazas it
writes records for, or ends with E_ARG where its descriptor works on a PE die and the block is in STANDBY, with
E_THERMAL where a throttle closes its engine, and with E_ARG where it is a chain and one of its descriptors names a table
in host memory with a reserved field other than 0 (R12; that these tables are read as the chain is dispatched is the
model's reading, notes/assumptions/15.md). While it waits, QWAIT ends it with
E_TIMEOUT without running; dispatched or running, the execution timeout abandons it with E_TIMEOUT, and while its
opcode uses host memory a failed access of its data abandons it with E_HOST_MEM. -/
def Obligations.DispatchAndTimeouts : Prop :=
  ∀ (s : State) (id : OpId) (o : Op), op? s id = some o →
    (dispatchable s o = true → o.id = id → ∀ u,
      u = bindMqs (modOp { s with nextSeq := s.nextSeq + 1 } id
        fun o => { o with phase := .dispatched, seq := s.nextSeq }) id (o.descs.flatMap mqPlazas).eraseDups →
      ((standingBy u && onPeDie o.cur) = false → tooHot u o.cur = false →
        (chainRsv u o = false → exec (.descriptorDispatch id) s = .next u) ∧
        (chainRsv u o = true → exec (.descriptorDispatch id) s = .next (completeOp u id eArg []))) ∧
      ((standingBy u && onPeDie o.cur) = true →
        exec (.descriptorDispatch id) s = .next (completeOp u id eArg [])) ∧
      ((standingBy u && onPeDie o.cur) = false → tooHot u o.cur = true →
        exec (.descriptorDispatch id) s = .next (completeOp u id eThermal []))) ∧
    (o.phase = .waiting → exec (.queueWaitTimeout id) s = .next (completeOp s id eTimeout [])) ∧
    (o.phase = .dispatched → exec (.executionTimeout id) s = .next (completeOp
      { s with mqPend := s.mqPend.filter fun m => m.op != id } id eTimeout [])) ∧
    (o.phase = .running → exec (.executionTimeout id) s = .next (abandon
      { s with mqPend := s.mqPend.filter fun m => m.op != id } o eTimeout)) ∧
    (o.phase = .dispatched → usesHost (opcodeOf o.cur) = true → exec (.hostReadError id) s = .next (completeOp
      { s with mqPend := s.mqPend.filter fun m => m.op != id } id eHostMem [])) ∧
    (o.phase = .running → opcodeOf o.cur ∈ [0x52, 0x62, 0x71, 0x7C, 0x91] → exec (.hostReadError id) s =
      .next (abandon { s with mqPend := s.mqPend.filter fun m => m.op != id } o eHostMem))

/-- Ending a descriptor: the last of a chain, or one that fails, completes with its status, its result words and the
present time; another one lets the chain go on with the next descriptor, which ends with E_ARG or E_THERMAL where
STANDBY or a throttle bars it as at a dispatch. A chain as one entry that ends at the first status other than OK is the
model's reading of R70 (notes/assumptions/15.md). A completed operation stays as it is, and
so do every other operation and everything but the table and a context's count of its aborted operations. -/
def Obligations.EndedDescriptorCompletesOnce : Prop :=
  ∀ (s : State) (id : OpId) (o : Op) (st : BitVec 8) (r : List Word), op? s id = some o →
    (o.live = true → st ≠ stOk ∨ o.descs.length ≤ 1 → op? (finishOp s id st r) id = some { o with
      phase := .completed { status := st, r4 := wd r 0, r5 := wd r 1, r6 := wd r 2, r7 := wd r 3,
                            time := s.now } }) ∧
    (o.live = true → st = stOk → 1 < o.descs.length → ∀ u,
      u = { o with descs := o.descs.tail, phase := .dispatched, mask := 0, count := 0, aux := 0, after := none } →
      ((standingBy s && onPeDie u.cur) = false → tooHot s u.cur = false →
        op? (finishOp s id st r) id = some u) ∧
      ((standingBy s && onPeDie u.cur) = true →
        op? (finishOp s id st r) id = some { u with phase := .completed { status := eArg, time := s.now } }) ∧
      ((standingBy s && onPeDie u.cur) = false → tooHot s u.cur = true →
        op? (finishOp s id st r) id = some { u with phase := .completed { status := eThermal, time := s.now } })) ∧
    (o.live = false → op? (finishOp s id st r) id = some o) ∧
    (∀ j, j ≠ id → op? (finishOp s id st r) j = op? s j) ∧
    finishOp s id st r = { s with ops := (finishOp s id st r).ops, ctxs := (finishOp s id st r).ctxs } ∧
    (st ≠ eAborted → (finishOp s id st r).ctxs = s.ctxs)

/-- The completion of an operation goes to its CQ where it has room, with its status, tag and opcode, its time and its
result words, and its entry of the table is free; in a full CQ it waits, and where its CQ is gone it is dropped and
the entry is free (DEDUCED, notes/assumptions/196.md). The delay of a ring's interrupt ends: counted entries
send the ring's vector, and the count clears. -/
def Obligations.CompletionsGoToTheCq : Prop :=
  (∀ (s : State) (id : OpId) (o : Op) (c : Completion), op? s id = some o → o.phase = .completed c →
      (ring? s o.cq = none → exec (.completionWrite id) s =
        .next (detachCheck { s with ops := s.ops.filter fun x => x.id != o.id })) ∧
      (∀ r : Ring, ring? s o.cq = some r → r.ty = .cq → r.ctx = o.ctx →
        (r.full = true → exec (.completionWrite id) s = .next s) ∧
        (r.full = false → exec (.completionWrite id) s = .next (
          let t := ringPutAs s o.cq (dctxOf o.first)
            [BitVec.ofNat 32 (at_ 16 (bits (wd o.first 0) 31 16) + at_ 8 (opcodeOf o.first) + c.status.toNat), 0,
             c.time.setWidth 32, (c.time >>> 32).setWidth 32, c.r4, c.r5, c.r6, c.r7] o.irq
          detachCheck { t with ops := t.ops.filter fun x => x.id != o.id })))) ∧
  (∀ (s : State) (n : RingId) (r : Ring), ring? s n = some r → r.intEn = true → 0 < r.intCount →
      exec (.interruptDelayExpiry n) s = .next (msixSend (modRing s n fun q => { q with intCount := 0 }) r.vector))

/-- An entry put into a ring is stored at its index, with the context and the ring's phase in word 1; the index goes on,
the phase inverts at the wrap, and every byte of host memory outside the entry stays. (The bytes stored are those of
a host memory in its canonical form, which MemoriesStayCanonical keeps.) -/
def Obligations.RingEntriesAreWrittenInOrder : Prop :=
  ∀ (s : State) (n : RingId) (c : CtxId) (ws : List Word) (irq : Bool) (r : Ring), ring? s n = some r →
    r.base + entrySize r.ty * r.tail + entrySize r.ty ≤ 2 ^ 64 →
    (∃ q, ring? (ringPutAs s n c ws irq) n = some q ∧ q.tail = (r.tail + 1) % r.size ∧
      (q.phase = if r.tail + 1 = r.size then !r.phase else r.phase) ∧ q.head = r.head) ∧
    (memoriesWf s = true →
      hostRead (ringPutAs s n c ws irq) (r.base + entrySize r.ty * r.tail) (entrySize r.ty) = sliceB
        (bytesOf (ws.take 1 ++ (wd ws 1 ||| BitVec.ofNat 32 ((if r.phase then 2 ^ 31 else 0) + c % 4096)) :: ws.drop 2))
        0 (entrySize r.ty)) ∧
    (∀ m, m ≠ n → ring? (ringPutAs s n c ws irq) m = ring? s m) ∧
    (∀ a, a < r.base + entrySize r.ty * r.tail ∨ r.base + entrySize r.ty * (r.tail + 1) ≤ a →
      Mem.read 0 (ringPutAs s n c ws irq).hostMem a = Mem.read 0 s.hostMem a)

/-! ### Contexts -/

/-- NOP, CTX_OPEN and CTX_QUERY: a context opens at the number asked for, or at the lowest free one, with its
quota; a query of an open context answers the open flag, the operations outstanding and the quota, of another
E_CONTEXT. That a query counts itself (notes/assumptions/204.md), and that a context that is closing is neither open nor
free (notes/assumptions/201.md), are the model's choices. -/
def Obligations.ContextsOpenAndAnswer : Prop :=
  ∀ (s : State) (id : OpId) (o : Op),
    (Given s id 0x00 o → exec (.nop id) s = .next (finishOp (begun s id) id stOk [])) ∧
    (Given s id 0x01 o → lowestFree (begun s id) = none →
      exec (.ctxOpen id) s = .next (finishOp (begun s id) id eNoContext [])) ∧
    (∀ n, Given s id 0x01 o → lowestFree (begun s id) = some n →
      ((wd o.cur 2).getLsbD 31 = true → exec (.ctxOpen id) s = .next (finishOp { begun s id with
        ctxs := s.ctxs ++ [{ num := n, quota := bits (wd o.cur 3) 13 0 }] } id stOk [BitVec.ofNat 32 n])) ∧
      ((wd o.cur 2).getLsbD 31 = false → isOpen (begun s id) (bits (wd o.cur 2) 11 0) = true →
        exec (.ctxOpen id) s = .next (finishOp (begun s id) id eOwned [])) ∧
      ((wd o.cur 2).getLsbD 31 = false → isOpen (begun s id) (bits (wd o.cur 2) 11 0) = false →
        exec (.ctxOpen id) s = .next (finishOp { begun s id with
          ctxs := s.ctxs ++ [{ num := bits (wd o.cur 2) 11 0, quota := bits (wd o.cur 3) 13 0 }] } id stOk
          [BitVec.ofNat 32 (bits (wd o.cur 2) 11 0)]))) ∧
    (∀ x, Given s id 0x08 o → ctx? (begun s id) (bits (wd o.cur 2) 11 0) = some x → x.phase = .normal →
      exec (.ctxQuery id) s = .next (finishOp (begun s id) id stOk
        [1, BitVec.ofNat 32 ((begun s id).ops.filter fun y => y.ctx == bits (wd o.cur 2) 11 0).length,
         BitVec.ofNat 32 x.quota])) ∧
    (Given s id 0x08 o → targetOpen (begun s id) (bits (wd o.cur 2) 11 0) = false →
      exec (.ctxQuery id) s = .next (finishOp (begun s id) id eContext []))

/-- CTX_ABORT and CTX_CLOSE of an open context other than 0 end its operations and wait for the table; the end of an
abort gives the number ended and the context goes on, the end of a close goes on to the context's engines; context 0
and contexts not open are refused. The wait until the ended entries have left the table (notes/assumptions/195.md), and
E_CONTEXT for a target that is ending already (notes/assumptions/201.md), are the model's choices. -/
def Obligations.ContextsAbortAndClose : Prop :=
  ∀ (s : State) (id : OpId) (o : Op) (c : CtxId), c = bits (wd o.cur 2) 11 0 →
    (Given s id 0x02 o → c ≠ 0 → targetOpen (begun s id) c = true → exec (.ctxClose id) s = .next (ctxDrained
      (abortCtx (modCtx (begun s id) c fun x => { x with phase := .closing (some id), aborted := 0 }) c) c)) ∧
    (Given s id 0x03 o → c ≠ 0 → targetOpen (begun s id) c = true → exec (.ctxAbort id) s = .next (ctxDrained
      (abortCtx (modCtx (begun s id) c fun x => { x with phase := .aborting (some id), aborted := 0 }) c) c)) ∧
    (∀ x ∈ [(Instr.ctxClose id, 0x02), (.ctxAbort id, 0x03)], Given s id x.2 o →
      c = 0 ∨ targetOpen (begun s id) c = false →
      exec x.1 s = .next (finishOp (begun s id) id eContext [])) ∧
    (∀ (c : CtxId) (x : Ctx) (k : OpId), ctx? s c = some x → (∀ y ∈ s.ops, y.ctx ≠ c) → x.phase = .aborting (some k) →
      exec (.ctxOpsDrained c) s = .next (completeOp (modCtx s c fun x => { x with phase := .normal, aborted := 0 })
        k stOk [BitVec.ofNat 32 x.aborted])) ∧
    (∀ (c : CtxId) (x : Ctx) (k : Option OpId), ctx? s c = some x → (∀ y ∈ s.ops, y.ctx ≠ c) →
      x.phase = .closing k →
      exec (.ctxOpsDrained c) s = .next (closeCheck (closeEngines s c k [])))

/-- RES_CLAIM is all or nothing: where another context holds a named resource nothing is claimed; else the target
holds every named resource, and every other resource stays with its holder. DGp and AWGp go with Plaza p. -/
def Obligations.ResourceClaimIsAllOrNothing : Prop :=
  ∀ (s : State) (id : OpId) (o : Op), Given s id 0x04 o → targetOpen (begun s id) (bits (wd o.cur 2) 11 0) = true →
    ((∃ r ∈ claimedBy o.cur, ∃ c, holder s r = some c ∧ c ≠ bits (wd o.cur 2) 11 0) →
      exec (.resClaim id) s = .next (finishOp (begun s id) id eOwned [])) ∧
    ((∀ r ∈ claimedBy o.cur, holder s r = none ∨ holder s r = some (bits (wd o.cur 2) 11 0)) →
      ∃ t, exec (.resClaim id) s = .next (finishOp t id stOk []) ∧ t = { begun s id with own := t.own } ∧
        (∀ r, r ∈ claimedBy o.cur → holder t r = some (bits (wd o.cur 2) 11 0)) ∧
        (∀ r, r ∉ claimedBy o.cur → holder t r = holder s r)) ∧
    (∀ p : Fin 16, resOf (.dg p) = .plaza p ∧ resOf (.awg p) = .plaza p)

/-- RES_RELEASE for an open context releases only resources that the context holds and whose engines are OFF, each of
them; else nothing, with the status of the check that fails: the claims first, E_OWNED before E_ARG, then OFF (the
model's choices, notes/assumptions/140.md and 199.md). A target that is not open, or is ending
(notes/assumptions/201.md), ends RES_CLAIM and RES_RELEASE with E_CONTEXT. -/
def Obligations.ResourceReleaseNeedsOff : Prop :=
  ∀ (s t : State) (id : OpId) (o : Op) (c : CtxId), t = begun s id → c = bits (wd o.cur 2) 11 0 →
    (∀ x ∈ [(Instr.resClaim id, 0x04), (.resRelease id, 0x05)], Given s id x.2 o → targetOpen t c = false →
      exec x.1 s = .next (finishOp t id eContext [])) ∧
    (Given s id 0x05 o → targetOpen t c = true →
      (∀ st, claimCheck t c (claimedBy o.cur) = some st → exec (.resRelease id) s = .next (finishOp t id st [])) ∧
      (claimCheck t c (claimedBy o.cur) = none →
        ((∃ r ∈ claimedBy o.cur, ∃ e ∈ engsOf r, isOff s e = false) →
          exec (.resRelease id) s = .next (finishOp t id eArg [])) ∧
        ((∀ r ∈ claimedBy o.cur, ∀ e ∈ engsOf r, isOff s e = true) →
          exec (.resRelease id) s = .next (finishOp ((claimedBy o.cur).foldl releaseRes t) id stOk []))))

/-- RING_ATTACH for an open context keeps a copy of a free ring's entry with both indices 0 where the entry holds, and
ends with E_ARG where it does not or the ring is attached, with E_OWNED where another context has it. RING_DETACH of a
ring of another context ends with E_OWNED, of one that is not attached or may not go with E_ARG; of an SQ it waits
until its descriptors have gone from the table (the model's reading, notes/assumptions/195.md), and another ring goes at
once. A target that is not open, or is ending (the model's choice, notes/assumptions/201.md), gives E_CONTEXT. -/
def Obligations.RingsAttachAndDetach : Prop :=
  ∀ (s t : State) (id : OpId) (o : Op) (c : CtxId) (n : RingId), t = begun s id → c = bits (wd o.cur 2) 11 0 →
    n = bits (wd o.cur 3) 14 0 →
    (∀ x ∈ [(Instr.ringAttach id, 0x06), (.ringDetach id, 0x07)], Given s id x.2 o → targetOpen t c = false →
      exec x.1 s = .next (finishOp t id eContext [])) ∧
    (targetOpen t c = true → Given s id 0x06 o →
      (∀ q, ring? s n = some q →
        (q.ctx = c → exec (.ringAttach id) s = .next (finishOp t id eArg [])) ∧
        (q.ctx ≠ c → exec (.ringAttach id) s = .next (finishOp t id eOwned []))) ∧
      (ring? s n = none →
        (ringEntry t n c = none → exec (.ringAttach id) s = .next (finishOp t id eArg [])) ∧
        (∀ r, ringEntry t n c = some r → r.head = 0 ∧ r.tail = 0 ∧
          (∀ st, attachCheck t c (some r) = some st → exec (.ringAttach id) s = .next (finishOp t id st [])) ∧
          (attachCheck t c (some r) = none →
            exec (.ringAttach id) s = .next (finishOp { t with rings := s.rings ++ [r] } id stOk []))))) ∧
    (targetOpen t c = true → Given s id 0x07 o →
      (ring? s n = none → exec (.ringDetach id) s = .next (finishOp t id eArg [])) ∧
      (∀ r, ring? s n = some r →
        (r.ctx ≠ c → exec (.ringDetach id) s = .next (finishOp t id eOwned [])) ∧
        (r.ctx = c → detachBarred t r = true ∨ r.detach.isSome = true →
          exec (.ringDetach id) s = .next (finishOp t id eArg [])) ∧
        (r.ctx = c → detachBarred t r = false → r.detach = none →
          (r.ty = .sq → exec (.ringDetach id) s =
            .next (detachCheck (modRing t n fun q => { q with detach := some id }))) ∧
          (r.ty ≠ .sq → exec (.ringDetach id) s = .next (finishOp (detachRing t n) id stOk [0])))))

/-! ### Pin channels, levels and timing -/

/-- LVL_LOAD, TS_LOAD and DSK_LOAD take their tables whole where they hold on every Plaza named, else nothing; DSK_READ
returns the held table. A quiet point, in OFF or FAULT or at the start of a run, applies what is staged; settling
ends; a band that stays unapplied for the hold time marks the Plaza stale once, with one record. LVL_LOAD's answer
that names every Plaza of its descriptor (notes/assumptions/169.md), the occasions of QUIET_POINT
(notes/assumptions/178.md), and that a command off its occasion changes nothing (notes/assumptions/1.md), are the
model's choices. -/
def Obligations.LevelAndTimingSetsAreTakenWhole : Prop :=
  ∀ (s t : State) (id : OpId) (o : Op) (d : List Word) (ps : List (Fin 16)) (bs : List Byte) (p : Fin 16),
    t = begun s id → d = o.cur → ps = plazasOf (BitVec.ofNat 16 (bits (wd d 2) 15 0)) →
    (Given s id 0x38 o → bs = hostRead t (wd64 d 4) (bits (wd d 6) 11 0) →
      ((∀ q ∈ ps, lvlOk t bs (bits (wd d 6) 11 0) q = true) →
        exec (.lvlLoad id) s = .next (finishOp
          (ps.foldl (fun s q => lvlPut s bs (Fin.ofNat 8 (bits (wd d 3) 2 0)) q) t) id stOk
          [(BitVec.ofNat 16 (bits (wd d 2) 15 0)).setWidth 32])) ∧
      ((∃ q ∈ ps, lvlOk t bs (bits (wd d 6) 11 0) q = false) →
        exec (.lvlLoad id) s = .next (finishOp t id eArg []))) ∧
    (Given s id 0x30 o → bs = hostRead t (wd64 d 4) (bits (wd d 6) 11 0) →
      ((∀ q ∈ ps, tsOk t bs (bits (wd d 6) 11 0) q = true) →
        exec (.tsLoad id) s = .next (endStaged (ps.foldl (fun s q =>
          stageTs s q (.ts (Fin.ofNat 64 (bits (wd d 3) 5 0)) (tsSet bs (widthOf s q)) id)) t) id)) ∧
      ((∃ q ∈ ps, tsOk t bs (bits (wd d 6) 11 0) q = false) →
        exec (.tsLoad id) s = .next (finishOp t id eArg []))) ∧
    (Given s id 0x31 o → bs = hostRead t (wd64 d 4) 528 →
      (bits (wd d 6) 11 0 = 528 → dskOk bs = true → exec (.dskLoad id) s = .next (endStaged
        (stageDsk t (plzIx d) (Fin.ofNat 8 (bits (wd d 3) 2 0))
          (.dsk (Fin.ofNat 8 (bits (wd d 3) 2 0)) (dskTab bs) id none)) id)) ∧
      (bits (wd d 6) 11 0 ≠ 528 ∨ dskOk bs = false → exec (.dskLoad id) s = .next (finishOp t id eArg []))) ∧
    (Given s id 0x32 o → exec (.dskRead id) s = .next (finishOp (hostWrite t (wd64 d 4)
      (dskBytes ((t.plz[plzIx d]).tim.dsk[Fin.ofNat 8 (bits (wd d 3) 2 0)]))) id stOk [])) ∧
    (quietThroughout s (leaderOf s p) = true ∨
        ((s.plz[leaderOf s p]).run.phase = .running ∧ (s.plz[leaderOf s p]).run.cyc = 0) →
      exec (.quietPoint p) s = .next (quietSet s (leaderOf s p))) ∧
    (exec (.settleEnd p) s = .next (modPin s p fun n => { n with settling := false })) ∧
    (targetBand s p ≠ (s.plz[p]).tim.applied → (s.plz[p]).tim.stale = false →
      exec (.bandHoldExpiry p) s = .next (postEq (modTim s p fun t => { t with stale := true })
        (holder s (.plaza p)) (mkEq s 0x0003 p.val (BitVec.ofNat 32 (targetBand s p).val) 0))) ∧
    (targetBand s p = (s.plz[p]).tim.applied ∨ (s.plz[p]).tim.stale = true →
      exec (.bandHoldExpiry p) s = .next s)

/-- CH_CFG configures the channels named, all or none, and a channel that leaves PMU_FV leaves the supplies. A comparator
self-test sets up the channels it tests, waits while another runs on one of its Plazas (DEDUCED,
notes/assumptions/168.md), and needs them OFF; it ends with the results, the bus readings corrected by `stRead`, in host
memory and the channels as they were. An overcurrent opens the channel and faults its Plaza. PSUP_CFG
names supplies that force voltage, all or none; one that trips is opened, leaves PMU force and is recorded. -/
def Obligations.ChannelsAreConfiguredAndProtected : Prop :=
  ∀ (s t : State) (id : OpId) (o : Op) (d : List Word) (c : Fin 1024),
    t = begun s id → d = o.cur →
    (Given s id 0x39 o → ∀ (ent : Fin 64 → CfgEnt) (sel : BitVec 64),
      ent = (fun k => cfgEnt (hostRead t (wd64 d 4) 1024) k) → sel = BitVec.ofNat 64 (wd64 d 6) →
      (sel ≠ 0 → (∀ x ∈ cfgRoles (t.plz[plzIx d]) sel ent, x.2 = .own →
          cfgOk t (plzIx d) x.1 (ent x.1) = true) →
        exec (.chCfg id) s = .next (finishOp (keepSupplies ((cfgRoles (t.plz[plzIx d]) sel ent).foldl
          (fun s x => modChanIn s (plzIx d) x.1 (cfgPut s (plzIx d) ent x.1 x.2)) t) (plzIx d)) id stOk [])) ∧
      ((sel = 0 ∨ ∃ x ∈ cfgRoles (t.plz[plzIx d]) sel ent, x.2 = .own ∧
          cfgOk t (plzIx d) x.1 (ent x.1) = false) →
        exec (.chCfg id) s = .next (finishOp t id eArg []))) ∧
    (Given s id 0x3B o → ∀ ps, ps = plazasOf (BitVec.ofNat 16 (bits (wd d 2) 15 0)) →
      ((∃ p ∈ ps, (t.plz[p]).pin.selftest ≠ none) → exec (.cmpSelftest id) s = .next s) ∧
      ((∀ p ∈ ps, (t.plz[p]).pin.selftest = none) →
        ((∀ p ∈ ps, isOff t (.plaza p) = true) → exec (.cmpSelftest id) s = .next (ps.foldl (fun s p =>
          modPin (mapChans s p fun c ch => if stTested ch then stBegin s c ch else ch) p
            fun n => { n with selftest := some id }) t)) ∧
        ((∃ p ∈ ps, isOff t (.plaza p) = false) → exec (.cmpSelftest id) s = .next (finishOp t id eArg [])))) ∧
    (Running s id 0x3B o → ∀ (raw res : List SelfTestRes) (cs ts : List (Fin 1024)) (bs : List Byte) (failed lim : Nat),
      cs = ((plazasOf (BitVec.ofNat 16 (bits (wd d 2) 15 0))).flatMap fun p =>
        (List.finRange 64).map fun k => chOf p k) → lim = bits (wd d 3) 15 0 →
      ts = cs.filter (fun c => (getChan s c).stSave.isSome) →
      (∀ c ∈ ts, (res.find? fun r => r.chan == c).isSome = true) →
      bs = (cs.flatMap fun c =>
        if (getChan s c).stSave.isSome then ((res.find? fun r => r.chan == c).map (stBytes lim)).getD (leBytes 8 0)
        else leBytes 8 0) →
      failed = (ts.filter fun c => (res.find? fun r => r.chan == c).any fun r => !stPass lim r).length →
      res = raw.map (stRead s) →
      exec (.cmpSelftestDone id raw) s = .next (finishOp (endSelftest (hostWrite s (wd64 d 4) bs) id) id
        (if failed = 0 then stOk else stPartial) [BitVec.ofNat 32 failed, BitVec.ofNat 32 ts.length])) ∧
    ((getChan s c).sDrv = true → (getChan s c).drvOn = true →
      (getChan s c).mode = .pe ∨ (getChan s c).mode = .peMon →
      exec (.driverOvercurrent c) s = .next (faultEng (modPin
        (modChan s c fun ch => { openChan ch with hiz := true }) (chPlaza c)
        fun n => { n with ovc := true, ovcCh := BitVec.ofNat 6 (chIx c).val })
        (.plaza (chPlaza c)) fcOvercurrent)) ∧
    (Given s id 0x7D o → ∀ m, m = BitVec.ofNat 64 (wd64 d 4) →
      ((∀ k : Fin 64, m.getLsbD k.val = true →
          ((t.plz[plzIx d]).chans[k]).mode = .pmuFv ∧ ((t.plz[plzIx d]).chans[k]).leader = none) →
        exec (.psupCfg id) s = .next (finishOp (modPlz t (plzIx d) fun P =>
          { P with psup := m, psupHold := max (bits (wd d 3) 15 0) 1 }) id stOk [])) ∧
      ((∃ k : Fin 64, m.getLsbD k.val = true ∧
          (((t.plz[plzIx d]).chans[k]).mode ≠ .pmuFv ∨ ((t.plz[plzIx d]).chans[k]).leader ≠ none)) →
        exec (.psupCfg id) s = .next (finishOp t id eArg []))) ∧
    ((s.plz[chPlaza c]).psup.getLsbD (chIx c).val = true → (getChan s c).mode = .pmuFv →
      ∃ u, exec (.psupTrip c) s = .next (postEq u (holder s (.plaza (chPlaza c))) (mkEq s 0x000D c.val 0 0)) ∧
        (getChan u c).mode = .off ∧ (getChan u c).sPmu = false ∧ (getChan u c).sDrv = false ∧
        (u.plz[chPlaza c]).psup = (s.plz[chPlaza c]).psup &&& ~~~(1#64 <<< (chIx c).val) ∧
        u.pwr = { s.pwr with evt := { s.pwr.evt with psupTrip := true } } ∧ u.ops = s.ops ∧ u.own = s.own)

/-- PARK_READ copies the 4,096-byte image of the park store and reports whether it holds and how often it was written;
PARK_WRITE of context 0 takes an image that holds, up to a thousand times, and ends the bar that a bad store sets; any
other PARK_WRITE ends with E_ARG and changes nothing. -/
def Obligations.ParkStoreIsReadAndWritten : Prop :=
  ∀ (s t : State) (id : OpId) (o : Op) (d : List Word), t = begun s id → d = o.cur →
    (Given s id 0x3A o → exec (.parkRead id) s = .next (finishOp
      (hostWrite t (wd64 d 4) (Mem.readBytes 0 t.park.image 0 4096)) id stOk
      [BitVec.ofNat 32 (b2n (parkGood t.park.image)), BitVec.ofNat 32 t.park.writes])) ∧
    (Given s id 0x83 o → ∀ img, img = parkImage (hostRead t (wd64 d 4) 4096) →
      (o.ctx = 0 → parkGood img = true → t.park.writes < 1000 →
        exec (.parkWrite id) s = .next (finishOp { t with park :=
          { t.park with image := img, writes := t.park.writes + 1, stands := false } } id stOk
          [BitVec.ofNat 32 (t.park.writes + 1)])) ∧
      (o.ctx ≠ 0 ∨ parkGood img = false ∨ 1000 ≤ t.park.writes →
        exec (.parkWrite id) s = .next (finishOp t id eArg [])))

/-! ### Sequencer -/

/-- Programs, segments, slots, site data, mask groups and the hold vector go where the descriptors say, checked first, or
the descriptor ends with E_ARG or E_RESIDENCY and changes nothing; a fill ends with its segment resident, or a later
one in its place, and ends with OK in either case (DESIGN CHOICE, notes/assumptions/218.md); mask group i stands at
bytes 8i of its buffer (DESIGN CHOICE, notes/assumptions/243.md); that SEQ_LOAD, SITEDATA_LOAD and MASK_LOAD end with
E_ARG also while a run is only armed is the model's reading of 'has a run in progress' (DEDUCED,
notes/assumptions/160.md); SEQ_RUN arms a run or waits its turn; SEQ_JUMP leaves a request with the run; SLOT_QUERY
reports. -/
def Obligations.SequencerDescriptorsAct : Prop :=
  ∀ (s t u : State) (id : OpId) (o : Op) (d : List Word) (p : Fin 16) (bs : List Byte),
    t = begun s id → u = commitSegs t → d = o.cur → p = plzIx d →
    (Given s id 0x12 o → ∀ ps, ps = plazasOf (BitVec.ofNat 16 (bits (wd d 2) 15 0)) →
      bs = hostRead t (wd64 d 4) (bits (wd d 6) 19 0) →
      (∀ prog sset, parseImage t.dram.segCount (bits (wd d 6) 19 0) bs = some (prog, sset) →
        (∀ q ∈ ps, runBusy t q = false) → exec (.seqLoad id) s = .next (finishOp (ps.foldl (fun s q =>
          modSeq s q fun x => { x with imem := prog, sset := sset }) u) id stOk
          [(BitVec.ofNat 16 (bits (wd d 2) 15 0)).setWidth 32])) ∧
      (parseImage t.dram.segCount (bits (wd d 6) 19 0) bs = none ∨ (∃ q ∈ ps, runBusy t q = true) →
        exec (.seqLoad id) s = .next (finishOp t id eArg []))) ∧
    (Given s id 0x13 o → ∀ g n : Nat, g = bits (wd d 2) 19 0 → n = bits (wd d 3) 10 0 →
      (t.dram.segCount < g + n → exec (.segWrite id) s = .next (finishOp t id eArg [])) ∧
      (g + n ≤ t.dram.segCount →
        ((∀ i < n, segHeld t (g + i) = false) → exec (.segWrite id) s = .next (finishOp
          (dramWrite u (81920 * g) (hostRead u (wd64 d 4) (81920 * n))) id stOk [BitVec.ofNat 32 n])) ∧
        ((∃ i < n, segHeld t (g + i) = true) → exec (.segWrite id) s = .next (finishOp t id eResidency [])))) ∧
    (Given s id 0x14 o → ∀ (n : Fin 64) (g : Nat), n = Fin.ofNat 64 (bits (wd d 2) 13 8) →
      g = bits (wd d 3) 19 0 →
      (slotActive (t.plz[p]) n = true → exec (.segFill id) s = .next (finishOp t id eResidency [])) ∧
      (slotActive (t.plz[p]) n = false → t.dram.segCount ≤ g ∨ (∃ k, k ≠ n ∧ ((t.plz[p]).seq.slots[k].seg = some g ∨
          (t.plz[p]).seq.slots[k].filling.map (·.1) = some g)) →
        exec (.segFill id) s = .next (finishOp t id eArg [])) ∧
      (slotActive (t.plz[p]) n = false → g < t.dram.segCount →
        (∀ k, k ≠ n → (t.plz[p]).seq.slots[k].seg ≠ some g ∧
          (t.plz[p]).seq.slots[k].filling.map (·.1) ≠ some g) →
        exec (.segFill id) s = .next (modSeq (modOp u id fun o =>
          { o with aux := ((t.plz[p]).seq.slots[n].seg).getD 0xFFFFF }) p fun q =>
          { q with slots := q.slots.set n { filling := some (g, id), data := ((t.plz[p]).seq.slots[n]).data },
                   fillQ := q.fillQ ++ [(n, id)] }))) ∧
    (∀ (n : Fin 64) (k : OpId) (rest : List (Fin 64 × OpId)) (v w : State), (s.plz[p]).seq.fillQ = (n, k) :: rest →
      v = modSeq s p (fun q => { q with fillQ := rest }) →
      (∀ g, (s.plz[p]).seq.slots[n].filling = some (g, k) →
        w = goOn (modSeq v p fun q => { q with slots := q.slots.set n ({
          seg := some g, data := Mem.writeBytes 0 [] 0 (dramRead v (81920 * g) 81920) } : Slot) }) p →
        exec (.segFillDone p n) s =
          .next (finishOp w k stOk [BitVec.ofNat 32 (((op? w k).map (·.aux)).getD 0xFFFFF)])) ∧
      (∀ g i, (s.plz[p]).seq.slots[n].filling = some (g, i) → i ≠ k → w = goOn v p →
        exec (.segFillDone p n) s =
          .next (finishOp w k stOk [BitVec.ofNat 32 (((op? w k).map (·.aux)).getD 0xFFFFF)]))) ∧
    (Given s id 0x15 o →
      (runAllowed t p d = true → (t.plz[p]).run.phase = .none → (t.plz[p]).runQ = [] →
        exec (.seqRun id) s = .next (armRun t p id d)) ∧
      (runAllowed t p d = true → (t.plz[p]).run.phase ≠ .none ∨ (t.plz[p]).runQ ≠ [] →
        exec (.seqRun id) s = .next (modPlz t p fun P => { P with runQ := enqueue t id P.runQ })) ∧
      (runAllowed t p d = false → exec (.seqRun id) s = .next (finishOp t id eArg []))) ∧
    (Given s id 0x16 o →
      ((t.plz[p]).run.phase ≠ .none → (t.plz[p]).cfg.linked = false →
        bits (wd d 3) 15 0 < (t.plz[p]).seq.imem.length →
        exec (.seqJump id) s = .next (requestJump t p (BitVec.ofNat 16 (bits (wd d 3) 15 0)) (some id))) ∧
      ((t.plz[p]).run.phase = .none ∨ (t.plz[p]).cfg.linked = true ∨
        (t.plz[p]).seq.imem.length ≤ bits (wd d 3) 15 0 →
        exec (.seqJump id) s = .next (finishOp t id eArg []))) ∧
    (Given s id 0x17 o →
      (runBusy t p = false → bits (wd d 2) 15 12 + bits (wd d 2) 11 8 < sitesOf t p →
        exec (.sitedataLoad id) s = .next (finishOp ((List.range (bits (wd d 2) 11 8 + 1)).foldl
          (fun (s : State) (i : Nat) => modSeq s p fun q =>
            { q with
              site := upd q.site (Fin.ofNat 16 (bits (wd d 2) 15 12 + i)) fun m =>
                Mem.writeBytes 0 m 0 (hostRead s (wd64 d 4 + 4096 * i) (bits (wd d 3) 12 0)) }) t) id stOk [])) ∧
      (runBusy t p = true ∨ sitesOf t p ≤ bits (wd d 2) 15 12 + bits (wd d 2) 11 8 →
        exec (.sitedataLoad id) s = .next (finishOp t id eArg []))) ∧
    (Given s id 0x18 o → ∀ g : Vector (BitVec 64) 16,
      g = updAll (t.plz[p]).seq.masks (fun i _ => BitVec.ofNat 64 (numAt (hostRead t (wd64 d 4) 128) (8 * i.val) 8)) →
      (runBusy t p = false → (∀ i : Fin 16, g[i].toNat < 2 ^ widthOf t p) →
        exec (.maskLoad id) s = .next (finishOp (modSeq t p fun q => { q with masks := g }) id stOk [])) ∧
      (runBusy t p = true ∨ (∃ i : Fin 16, 2 ^ widthOf t p ≤ g[i].toNat) →
        exec (.maskLoad id) s = .next (finishOp t id eArg []))) ∧
    (Given s id 0x19 o → exec (.holdLoad id) s = .next (finishOp (modSeq t p fun q =>
      { q with holdVec := BitVec.ofNat 320 (leNat (hostRead t (wd64 d 4) 40)) }) id stOk [])) ∧
    (Given s id 0x1A o → exec (.slotQuery id) s = .next (finishOp (hostWrite t (wd64 d 4)
      ((List.finRange 64).flatMap (slotEntry (t.plz[p])))) id stOk []))

/-- A run sets timing zero as its ARM says. While it plays, what is due comes before the next cycle: a decided match or
wait, a jump, the end of HOLD. A cycle plays the entry in progress, else a waiting instruction's idle vector, and in
HOLD a hold vector. A match shadow that the control store cannot extend is filled with hold vectors, at least 4
vectors and 40,000 ps in all; that a microword MTCH's shadow is filled so, and with the hold vector last loaded, are
DESIGN CHOICEs (notes/assumptions/239.md and 240.md). A match decides by what the channels of its vector have seen; a
window open yet then closes at its own time (DESIGN CHOICE, notes/assumptions/216.md). Where nothing is there to play and no path goes on, the pipe
holds; it goes on once a hold vector has played and something is there, or times out with E_UNDERRUN; a HOLD_TIMEOUT
that meets something to play, or a path that runs on, changes nothing (notes/assumptions/1.md). A SYNC ends with its
event or its timeout. -/
def Obligations.RunsPlayHoldAndTurn : Prop :=
  ∀ (s : State) (p : Fin 16) (r : Run), r = (s.plz[p]).run →
    (r.phase = .armed → r.arm = 0 ∨ r.go = true → ∀ z : State,
      z = { modRun s p (fun r => { r with
              phase := .running, cyc := 0, ps := 0, lastAddr := none, zero := s.nextZero, zeroAt := s.now }) with
            nextZero := s.nextZero + 1 } →
      exec (.runTimingZero p) s = .next ((setOf z p).foldl (fun t q => zeroPlaza t p q) z)) ∧
    (∀ (ls : List (Fin 1024 × Int)) (xs : List PinStep) (pins : List PinWave), pins = pinWaves ls xs →
      (r.on = false ∨ testDue r = true ∨ waitDue r = true ∨ jumpDue r = true →
        exec (.vectorPlay p ls xs) s = .next s) ∧
      (r.on = true → testDue r = false → waitDue r = false → jumpDue r = false →
        (r.phase = .hold →
          (r.holdLen ≠ 0 → canPlay s p = true → exec (.vectorPlay p ls xs) s = .next s) ∧
          (r.holdLen = 0 ∨ canPlay s p = false → exec (.vectorPlay p ls xs) s = .next (playHold s p pins))) ∧
        (∀ (f : State) (q : Run), r.phase ≠ .hold → f = fillShadow s p → q = (f.plz[p]).run →
          (∀ e : Entry, q.cur = some e ∨ (q.cur = none ∧ q.fifo.head? = some e) →
            exec (.vectorPlay p ls xs) s = .next (playEntry f p e pins)) ∧
          (q.cur = none → q.fifo = [] →
            (∀ w : WaitM, q.waitm = some w → exec (.vectorPlay p ls xs) s = .next (playWait f p w pins)) ∧
            (∀ y : SyncW, q.waitm = none → q.sync = some y → y.ready = false →
              exec (.vectorPlay p ls xs) s = .next (playSync f p y pins)) ∧
            (q.waitm = none → (∀ y ∈ q.sync, y.ready = true) → exec (.vectorPlay p ls xs) s = .next s))))) ∧
    (fillDue s p = false → fillShadow s p = s) ∧
    (∀ (t : MatchTest) (f : State), fillDue s p = true → r.test = some t → f = fillShadow s p →
      0 < recPeriod s p (s.plz[p]).seq.holdVec →
      ∃ n, (f.plz[p]).run.fifo = [{ id := r.nextId, vaddr := 0, reps := n, hold := true }] ∧
        4 ≤ (shadowIss s p t).1 + n ∧
        40000 ≤ (shadowIss s p t).2 + n * recPeriod s p (s.plz[p]).seq.holdVec ∧
        (f.plz[p]).run.short = true ∧ (f.plz[p]).seq.short = true) ∧
    (∀ (m : MatchTest) (f : State), r.on = true → testDue r = true → r.test = some m → f = judgeTo s p m.entry →
      exec (.matchDecision p) s = .next (decideDue f p) ∧
      ∀ (n : MatchTest) (x : Played), (f.plz[p]).run.test = some n → n.m = some x →
        decideDue f p = decideTest f p n x) ∧
    (∀ w : WaitM, r.on = true → testDue r = false → waitDue r = true → r.waitm = some w →
      exec (.matchDecision p) s = .next (decideWait s p w)) ∧
    (∀ j : JumpReq, r.on = true → r.jump = some j → jumpDue r = true →
      ∃ u, exec (.jumpTakesEffect p) s = .next u ∧ (u.plz[p]).run.pc = j.target ∧
        (u.plz[p]).run.jump = none ∧ (u.plz[p]).run.cur = none ∧ (u.plz[p]).run.fifo = [] ∧
        (u.plz[p]).run.loops = [] ∧ (u.plz[p]).run.calls = []) ∧
    (r.phase = .running → canPlay s p = false → testDue r = false → jumpDue r = false → r.ending = none →
      straightOn s p = false →
      ∃ u, exec (.underrun p) s = .next u ∧ (u.plz[p]).run.phase = .hold ∧ (u.plz[p]).run.underrun = true ∧
        (u.plz[p]).seq.underrun = true ∧ (u.plz[p]).run.fifo = r.fifo ∧ u.ops = s.ops) ∧
    (r.phase = .hold →
      (r.holdLen ≠ 0 → canPlay s p = true →
        exec (.holdExit p) s = .next (modRun (holdGaps s p) p fun r => { r with phase := .running })) ∧
      (r.holdLen = 0 ∨ canPlay s p = false → exec (.holdExit p) s = .next s) ∧
      (canPlay s p = false → runsOn s p = false → exec (.holdTimeout p) s = .next (endRun s p eUnderrun false)) ∧
      (canPlay s p = true ∨ runsOn s p = true → exec (.holdTimeout p) s = .next s)) ∧
    (∀ y : SyncW, r.sync = some y →
      (y.ready = true →
        (y.micro = false → exec (.syncEvent p) s = .next (pcNext (leaveSync s p y) p)) ∧
        (y.micro = true →
          exec (.syncEvent p) s = .next (endMatch (leaveSync s p y) p (s.plz[p]).uc.m false))) ∧
      (y.ready = false →
        (y.micro = false → exec (.syncTimeout p) s = .next (endProgram (leaveSync s p y) p eTimeout)) ∧
        (y.micro = true →
          exec (.syncTimeout p) s = .next (endMatch (leaveSync s p y) p (s.plz[p]).uc.m true))))

/-- Instructions that change the flow, where the next instruction may begin and no patch overlays its routine: loop and
call levels, jumps, and the end of the program. A LOOP waits for its segments; a level too many, one that is missing, or
an ENDL of another LOOP faults the Plaza; a LOOP above the residency limit ends the program with E_RESIDENCY. -/
def Obligations.FlowInstructionsMoveTheProgram : Prop :=
  ∀ (s n : State) (p : Fin 16) (i : BitVec 64) (r : Run), r = (s.plz[p]).run → canBegin s p = true →
    i = instrAt (s.plz[p]) r.pc → inRom s (opOf i) = true → n = modRun s p (fun r => { r with lastPc := r.pc }) →
    (opOf i = 3 →
      (loopCheck (n.plz[p]) (loopPtr i) (loopLen i) = .stack →
        exec (.loop p) s = .next (faultEng n (.plaza p) fcSeqStack)) ∧
      (loopCheck (n.plz[p]) (loopPtr i) (loopLen i) = .limit →
        exec (.loop p) s = .next (endProgram n p eResidency)) ∧
      (loopCheck (n.plz[p]) (loopPtr i) (loopLen i) = .wait → exec (.loop p) s = .next n) ∧
      (∀ segs, loopCheck (n.plz[p]) (loopPtr i) (loopLen i) = .enter segs →
        exec (.loop p) s = .next (pcNext (pushLoop n p {
          start := r.pc, endPc := BitVec.ofNat 16 (loopEnd i), count := loopCount i + 1, segs := segs,
          depth := r.calls.length }) p))) ∧
    (opOf i = 4 →
      (r.loops = [] → exec (.endl p) s = .next (faultEng n (.plaza p) fcSeqStack)) ∧
      (∀ (l : LoopLvl) (rest : List LoopLvl), r.loops = l :: rest →
        (l.start ≠ iTarget i → exec (.endl p) s = .next (faultEng n (.plaza p) fcSeqStack)) ∧
        (l.start = iTarget i → l.count ≤ 1 →
          exec (.endl p) s = .next (pcNext (modRun n p fun r => { r with loops := rest }) p)) ∧
        (l.start = iTarget i → 1 < l.count → exec (.endl p) s = .next (setPc (modRun n p fun r =>
          { r with loops := { l with count := l.count - 1 } :: rest }) p (iTarget i + 1))))) ∧
    (opOf i = 5 →
      (r.calls.length < 16 → exec (.call p) s = .next (setPc (modRun n p fun x =>
        { x with calls := { ret := r.pc + 1, depth := x.loops.length } :: x.calls }) p (iTarget i))) ∧
      (16 ≤ r.calls.length → exec (.call p) s = .next (faultEng n (.plaza p) fcSeqStack))) ∧
    (opOf i = 6 →
      (r.calls = [] → exec (.ret p) s = .next (faultEng n (.plaza p) fcSeqStack)) ∧
      (∀ c rest, r.calls = c :: rest →
        (r.loops.length < c.depth → exec (.ret p) s = .next (faultEng n (.plaza p) fcSeqStack)) ∧
        (c.depth ≤ r.loops.length → exec (.ret p) s = .next (setPc (modRun n p fun r =>
          { r with calls := rest, loops := r.loops.drop (r.loops.length - c.depth) }) p c.ret)))) ∧
    (opOf i = 7 → exec (.jmp p) s = .next (setPc (popLevels n p (iTarget i)) p (iTarget i))) ∧
    (opOf i = 8 →
      (r.lastIss.isSome = true → exec (.jmpm p) s =
        .next (pcNext (beginTest n p (iCond i) (iTarget i) false) p)) ∧
      (r.lastIss = none → condHolds n p (iCond i) 0 (flagsOf n p) = false →
        exec (.jmpm p) s = .next (pcNext n p)) ∧
      (r.lastIss = none → condHolds n p (iCond i) 0 (flagsOf n p) = true →
        exec (.jmpm p) s = .next (setPc (popLevels (fire n (0x11 + p.val) 0) p (iTarget i)) p (iTarget i)))) ∧
    (opOf i = 15 → exec (.halt p) s = .next (endProgram n p stOk))

/-- Instructions of the stream, where no patch overlays their routine: VEC and RPT issue vectors, and go on with what
still waits to be issued; a VEC that begins leaves VADDR in K0 and COUNT in K1, as its microwords do; WAITM and SYNC
wait on an idle vector once its segment is resident, and EVT, STEP, MARK and CLRF wait for the next vector issued. -/
def Obligations.StreamInstructionsIssue : Prop :=
  ∀ (s n : State) (p : Fin 16) (i : BitVec 64),
    i = instrAt (s.plz[p]) (s.plz[p]).run.pc → n = modRun s p (fun r => { r with lastPc := r.pc }) →
    ((s.plz[p]).run.issue.isSome = true →
      exec (.vec p) s = .next (goOn s p) ∧ exec (.rpt p) s = .next (goOn s p)) ∧
    (canBegin s p = true → inRom s (opOf i) = true →
      (∀ (f : Uc → Uc) (x : Instr × Nat × Bool),
        f = (fun u => { u with
          k := (u.k.set 0 (BitVec.ofNat 32 (iVaddr i))).set 1 (BitVec.ofNat 32 (iCount i)) }) →
        x ∈ [(Instr.vec p, 1, false), (.rpt p, 2, true)] → opOf i = x.2.1 →
        exec x.1 s = .next (noteMiss (issueAll (modRun (modRun (if x.2.2 then s else modUc s p f) p
          fun r => { r with lastPc := r.pc }) p fun r => { r with issue := some {
            vaddr := iVaddr i, count := iCount i + 1, rpt := x.2.2, instr := true } }) p) p)) ∧
      (opOf i = 9 →
        (idleReady n p (iVaddr i) = true → exec (.waitm p) s =
          .next (beginWaitm n p (iCond i) (iVaddr i) (iCount i + 1) false)) ∧
        (idleReady n p (iVaddr i) = false → exec (.waitm p) s = .next n)) ∧
      (opOf i = 10 →
        (idleReady n p (iVaddr i) = true → exec (.sync p) s =
          .next (beginSync n p (iCond i) (bits i 2 0) (iVaddr i) false)) ∧
        (idleReady n p (iVaddr i) = false → exec (.sync p) s = .next n)) ∧
      (∀ x ∈ [(Instr.evt p, 11, Act.evt (BitVec.ofNat 8 (bits i 7 0))),
          (.stepSd p, 12, .step (i.getLsbD 16) (BitVec.ofNat 15 (bits i 14 0))),
          (.mark p, 13, .mark (BitVec.ofNat 16 (bits i 15 0))), (.clrf p, 14, .clrf)], opOf i = x.2.1 →
        exec x.1 s = .next (pcNext (modRun n p fun r => { r with acts := r.acts ++ [x.2.2] }) p)))

/-- Microwords of the control store: where a word may run next on a Plaza, fits its address (the patch RAM's word, the
ROM's where the spec gives it, else one that the ROM may hold) and the ROM's longest path, is no END 0x32 of LOOP with
E clear and no END 0x20 of SYNC with T clear, agrees with its parity and the count is within LIMIT, it does what Table
UCS-2 says and the store goes on, or it faults where its form is illegal or the stack overflows; with a form that
waits, the microword stays in progress and its row run again goes on with it. FLD reads the instruction in progress,
also after a PC word. A word of the patch RAM whose parity is wrong, one that is illegal, and one beyond LIMIT fault
the Plaza. The model's choices: ROM words that the spec does not give are operands of the row
(notes/assumptions/13.md), a shift by 32 or more has a free result (42.md), bits that Table UCS-2 does not name are
illegal and parity comes before the watchdog (220.md), an ACT STEP takes SET and N from K[A] as STEP has them
(244.md). -/
def Obligations.MicrowordsActOnTheirPlaza : Prop :=
  ∀ (s n : State) (p : Fin 16) (h : UHdr) (u : BitVec 12), canUword s p = true → n = enterUword s p →
    u = nextUaddr (s.plz[p]) → ∀ fits : Word → Prop,
    (∀ w, fits w ↔ wordFits s u w = true ∧ pathOk n p w = true ∧ endFits n p w = true) →
    (parityBad s p u = false → illegalAt s u = false → (n.plz[p]).uc.count < (n.plz[p]).uc.limit →
    (fits (uword h 0 0) → exec (.microNop p h) s = .next (endUword n p h)) ∧
    (∀ (dst : Fin 8) (hi lo : Fin 64), fits (uword h 1 (at_ 21 dst.val + at_ 11 hi.val + lo.val)) →
      (lo.val ≤ hi.val → hi.val - lo.val ≤ 31 → exec (.fld p h dst hi lo) s = .next (endUword (setK n p dst
        (BitVec.ofNat 32 (bits (instrAt (n.plz[p]) (n.plz[p]).run.lastPc) hi.val lo.val))) p h)) ∧
      (hi.val < lo.val ∨ 31 < hi.val - lo.val → exec (.fld p h dst hi lo) s = .next (uFault n p fcUcodeIllegal))) ∧
    (∀ (dst : Fin 8) (v : BitVec 16), fits (uword h 2 (at_ 21 dst.val + v.toNat)) →
      exec (.imm p h dst v) s = .next (endUword (setK n p dst (v.setWidth 32)) p h)) ∧
    (∀ (dst a b fn : Fin 8) (x y : Word), x = kReg n p a → y = kReg n p b →
      fits (uword h 3 (at_ 21 dst.val + at_ 18 a.val + at_ 15 b.val + at_ 12 fn.val)) →
      (∀ v : Word, (fn, v) ∈ [(0, x + y), (1, x - y), (2, x &&& y), (3, x ||| y), (6, x - 1), (7, x + 1)] ∨
          (y.toNat < 32 ∧ (fn, v) ∈ [(4, x <<< y.toNat), (5, x >>> y.toNat)]) →
        exec (.alu p h dst a b fn) s = .next (endUword (modUc (setK n p dst v) p fun u =>
          { u with z := v == 0, n := v.msb }) p h)) ∧
      (∀ (v : Word) (t : State), 32 ≤ y.toNat → fn = 4 ∨ fn = 5 → (v, t) = takeFree n 32 →
        exec (.alu p h dst a b fn) s = .next (endUword (modUc (setK t p dst v) p fun u =>
          { u with z := v == 0, n := v.msb }) p h))) ∧
    (∀ (a b : Fin 8) (burst : Bool) (t : State),
      fits (uword h 4 (at_ 21 a.val + at_ 18 b.val + at_ 17 (b2n burst))) →
      t = issueAll (modRun n p fun r =>
        { r with
          issue := some { vaddr := (kReg n p a).toNat % 2 ^ 31, count := (kReg n p b).toNat + 1, rpt := !burst,
                          instr := false } }) p →
      ((t.plz[p]).run.issue = none → exec (.iss p h a b burst) s = .next (endUword t p h)) ∧
      ((t.plz[p]).run.issue ≠ none →
        exec (.iss p h a b burst) s = .next (modUc t p fun u => { u with wait := some h }))) ∧
    (∀ (kind : Fin 16) (a : Fin 8) (v : Word), v = kReg n p a →
      fits (uword h 5 (at_ 20 kind.val + at_ 17 a.val)) →
      (∀ x : Act, (kind, x) ∈ [(0, Act.evt (BitVec.ofNat 8 (bits v 7 0))), (1, .mark (BitVec.ofNat 16 (bits v 15 0))),
          (2, .step (v.getLsbD 16) (BitVec.ofNat 15 (bits v 14 0))), (3, .clrf)] →
        exec (.act p h kind a) s = .next (endUword (addAct n p x) p h)) ∧
      (4 ≤ kind.val → exec (.act p h kind a) s = .next (uFault n p fcUcodeIllegal))) ∧
    (∀ (kind : Fin 16) (a b dst : Fin 8),
      fits (uword h 6 (at_ 20 kind.val + at_ 17 a.val + at_ 14 b.val + at_ 11 dst.val)) →
      (kind = 0 → (n.plz[p]).run.loops.length < 8 → exec (.stk p h kind a b dst) s = .next (endUword (modUc
        (pushLoop n p { start := (n.plz[p]).run.lastPc, endPc := BitVec.ofNat 16 (kReg n p b).toNat,
                        count := (kReg n p a).toNat + 1, segs := (n.plz[p]).uc.segs,
                        depth := (n.plz[p]).run.calls.length }) p fun u => { u with segs := [] }) p h)) ∧
      (kind = 0 → 8 ≤ (n.plz[p]).run.loops.length →
        exec (.stk p h kind a b dst) s = .next (faultEng n (.plaza p) fcSeqStack)) ∧
      (kind = 1 → exec (.stk p h kind a b dst) s = .next (stkEnd n p h)) ∧
      (kind = 2 → exec (.stk p h kind a b dst) s = .next
        (pushCall n p (BitVec.ofNat 16 (kReg n p a).toNat) fun s => endUword s p h)) ∧
      (kind = 3 → exec (.stk p h kind a b dst) s = .next
        (popCall n p fun r s => endUword (setK s p dst (r.setWidth 32)) p h)) ∧
      (kind = 4 → exec (.stk p h kind a b dst) s = .next
        (endUword (popLevels n p (BitVec.ofNat 16 (kReg n p a).toNat)) p h)) ∧
      (5 ≤ kind.val → exec (.stk p h kind a b dst) s = .next (uFault n p fcUcodeIllegal))) ∧
    (∀ a b : Fin 8, fits (uword h 7 (at_ 21 a.val + at_ 18 b.val)) →
      exec (.lchk p h a b) s = .next (lchkStep n p h a b)) ∧
    (∀ (c : Fin 16) (target : BitVec 12), fits (uword h 8 (at_ 20 c.val + target.toNat)) →
      (uCond (n.plz[p]).uc c.val = some true → exec (.br p h c target) s =
        .next (modUc (endUword n p h) p fun u => { u with uaddr := target })) ∧
      (uCond (n.plz[p]).uc c.val = some false → exec (.br p h c target) s = .next (endUword n p h)) ∧
      (8 ≤ c.val → exec (.br p h c target) s = .next (uFault n p fcUcodeIllegal))) ∧
    (∀ (mode : Fin 4) (a : Fin 8), fits (uword h 9 (at_ 22 mode.val + at_ 19 a.val)) →
      (∀ pc : BitVec 16, (mode, pc) ∈ [(0, (n.plz[p]).run.pc + 1), (1, (n.plz[p]).run.pc + 2),
          (2, BitVec.ofNat 16 (kReg n p a).toNat)] →
        exec (.pcUpd p h mode a) s = .next (endUword (setPc n p pc) p h)) ∧
      (mode = 3 → exec (.pcUpd p h mode a) s = .next (uFault n p fcUcodeIllegal))) ∧
    (∀ a b c : Fin 8,
      (fits (uword h 10 (at_ 21 a.val + at_ 18 b.val + at_ 15 c.val + at_ 14 1)) →
        idleReady n p ((kReg n p c).toNat % 2 ^ 31) = true → exec (.mtch p h a b c true) s =
          .next (modUc (beginWaitm n p (kReg n p a).toNat ((kReg n p c).toNat % 2 ^ 31)
            ((kReg n p b).toNat + 1) true) p fun u => { u with wait := some h, need := none })) ∧
      (fits (uword h 10 (at_ 21 a.val + at_ 18 b.val + at_ 15 c.val + at_ 14 0)) →
        (n.plz[p]).run.lastIss.isSome = true → exec (.mtch p h a b c false) s =
          .next (modUc (beginTest n p (kReg n p a).toNat 0 true) p fun u => { u with wait := some h, need := none })) ∧
      (fits (uword h 10 (at_ 21 a.val + at_ 18 b.val + at_ 15 c.val + at_ 14 0)) →
        (n.plz[p]).run.lastIss = none → ∀ t : Bool, t = condHolds n p (kReg n p a).toNat 0 (flagsOf n p) →
        exec (.mtch p h a b c false) s =
          .next (endUword (modUc (matchFire n p t) p fun u => { u with m := t }) p h)) ∧
      (idleReady n p ((kReg n p c).toNat % 2 ^ 31) = false →
        (fits (uword h 10 (at_ 21 a.val + at_ 18 b.val + at_ 15 c.val + at_ 14 1)) →
          exec (.mtch p h a b c true) s = .next (lacks s p (.idle ((kReg n p c).toNat % 2 ^ 31)))) ∧
        (fits (uword h 11 (at_ 21 a.val + at_ 18 b.val + at_ 15 c.val)) →
          exec (.syn p h a b c) s = .next (lacks s p (.idle ((kReg n p c).toNat % 2 ^ 31))))) ∧
      (fits (uword h 11 (at_ 21 a.val + at_ 18 b.val + at_ 15 c.val)) →
        idleReady n p ((kReg n p c).toNat % 2 ^ 31) = true → exec (.syn p h a b c) s =
          .next (modUc (beginSync n p (kReg n p a).toNat (kReg n p b).toNat ((kReg n p c).toNat % 2 ^ 31) true) p
            fun u => { u with wait := some h, need := none }))) ∧
    (∀ v : BitVec 8,
      (fits (uword h 12 v.toNat) → exec (.trap p h v) s = .next (uFault n p v)) ∧
      (fits (uword h 13 v.toNat) →
        exec (.endRun p h v) s = .next (endProgram (endUword n p { h with last := true }) p v)))) ∧
    (∀ (d a b f : Fin 8) (k : Fin 16) (hi lo : Fin 64) (v : BitVec 16) (g : BitVec 12) (m : Fin 4) (x : Bool)
        (e : BitVec 8) (c : Instr),
      c ∈ [.microNop p h, .fld p h d hi lo, .imm p h d v, .alu p h d a b f, .iss p h a b x, .act p h k a,
        .stk p h k a b d, .lchk p h a b, .br p h k g, .pcUpd p h m a, .mtch p h a b d x, .syn p h a b d, .trap p h e,
        .endRun p h e] →
      (parityBad s p u = true → exec c s = .next (uFault s p fcUcodeParity)) ∧
      (parityBad s p u = false → illegalAt s u = true → (n.plz[p]).uc.count < (n.plz[p]).uc.limit →
        exec c s = .next (uFault n p fcUcodeIllegal))) ∧
    ((s.plz[p]).uc.busy = true → (s.plz[p]).uc.limit ≤ (s.plz[p]).uc.count →
      exec (.microcodeWatchdog p) s =
        .next (uFault s p (if parityBad s p u then fcUcodeParity else fcUcodeWdog))) ∧
    (pageOf s u ≠ 0 → exec (.ucodeParityError p) s = .next (uFault (modUc s p fun x =>
      { x with upset := ramIx s u :: x.upset.filter (· != ramIx s u) }) p fcUcodeParity)) ∧
    (∀ (t : State) (a b : Fin 8) (x : Bool),
      ((t.plz[p]).uc.wait.isSome = true → (t.plz[p]).run.issue.isSome = true →
        exec (.iss p h a b x) t = .next (goOn t p)) ∧
      ((t.plz[p]).uc.wait = some h → (t.plz[p]).run.issue = none → (t.plz[p]).run.test = none →
        (t.plz[p]).run.waitm = none → (t.plz[p]).run.sync = none →
        wordFits t (nextUaddr (t.plz[p])) (uword h 7 (at_ 21 a.val + at_ 18 b.val)) = true →
        exec (.lchk p h a b) t = .next (lchkStep t p h a b)))

/-! ### Capture and verdicts -/

/-- Capture set-ups and triggers are taken where they hold, else E_ARG; the oldest record of a Plaza, and of an MQ, goes
into its ring where it has room; a test step opens with its limit table; its first STEP_CLOSE marks it closing, and once
no dispatched operation feeds it, one VERDICT for each site or group goes to its MQ; REC_MEAS computes and delivers what
it names; MASK_ARM arms the digitizer's mask. Each ends with E_ARG where its arguments do not hold. E_ARG for a REC_MEAS
of TMU stamps (notes/assumptions/170.md), and a verdict that is counted but not written where its Plaza has no MQ bound
(notes/assumptions/172.md), are the model's choices. -/
def Obligations.CaptureRecordsAndStepsProceed : Prop :=
  ∀ (s t : State) (id : OpId) (o : Op) (d : List Word) (p : Fin 16) (ps : List (Fin 16)),
    t = begun s id → d = o.cur → p = Fin.ofNat 16 (bits (wd d 2) 3 0) →
    ps = plazasOf (BitVec.ofNat 16 (bits (wd d 2) 15 0)) →
    (Given s id 0x40 o → ∀ c, c = capCfgOf d →
      (ps ≠ [] → c.cmode ≤ 3 → c.mfSites ≤ 256 → (c.fqEn = true → ringIs t c.fq o.ctx .fq = true) →
        (c.mqEn = true → ringIs t c.mq o.ctx .mq = true) →
        exec (.capCfg id) s = .next (finishOp (ps.foldl (fun s q =>
          modCap s q fun x => { x with next := c, cur := if runOn s q then x.cur else c }) t) id stOk [])) ∧
      (ps = [] ∨ 3 < c.cmode ∨ 256 < c.mfSites ∨ (c.fqEn = true ∧ ringIs t c.fq o.ctx .fq = false) ∨
        (c.mqEn = true ∧ ringIs t c.mq o.ctx .mq = false) →
        exec (.capCfg id) s = .next (finishOp t id eArg []))) ∧
    (Given s id 0x41 o → ∀ pat, pat = BitVec.ofNat 128 (wd64 d 8 + wd64 d 10 * 2 ^ 64) →
      ((wd d 4).getLsbD 31 = true ∨ bits (wd d 4) 5 0 < sitesOf t p →
        (∀ k < 64, widthOf t p ≤ k → bits pat (2 * k + 1) (2 * k) = 2) →
        exec (.trigLoad id) s = .next (finishOp (modCap t p fun c =>
          { c with
            trigNext :=
              { enable := (wd d 2).getLsbD 8, occur := bits (wd d 3) 23 0, any := (wd d 4).getLsbD 31,
                site := bits (wd d 4) 5 0, window := (wd d 5).getLsbD 1, event := (wd d 5).getLsbD 0,
                pattern := pat } }) id stOk [])) ∧
      (((wd d 4).getLsbD 31 = false ∧ sitesOf t p ≤ bits (wd d 4) 5 0) ∨
          (∃ k < 64, widthOf t p ≤ k ∧ bits pat (2 * k + 1) (2 * k) ≠ 2) →
        exec (.trigLoad id) s = .next (finishOp t id eArg []))) ∧
    (∀ (q : Fin 16) (r : FqRec) (rest : List FqRec) (x : Ring), (s.plz[q]).cap.buf = r :: rest →
      ring? s r.ring = some x →
      (x.full = true → exec (.fqRecordWrite q) s = .next s) ∧
      (x.full = false → exec (.fqRecordWrite q) s = .next (fqFlush
        (ringPut (modCap s q fun c => { c with buf := rest }) r.ring (fqWords s q r) true) q 4080))) ∧
    (∀ (n : RingId) (m : MqPend) (x : Ring), s.mqPend.find? (fun m => m.ring == n) = some m → ring? s n = some x →
      (x.full = true → exec (.mqRecordWrite n) s = .next s) ∧
      (x.full = false → exec (.mqRecordWrite n) s = .next (settleOp (modOp
        (ringPut { s with mqPend := s.mqPend.eraseP fun m => m.ring == n } n (mqWords s m.rec_) true) m.op fun o =>
          { o with
            count := o.count + 1,
            aux := o.aux + b2n (m.rec_.typ == 0x11 && !(wd m.rec_.words 0).getLsbD 24) }) m.op))) ∧
    (Given s id 0x42 o → ∀ ls, limitTable (hostRead t (wd64 d 4) (bits (wd d 6) 15 0)) (bits (wd d 6) 15 0) = ls →
      (ls = none ∨ ps = [] ∨ (∃ q ∈ ps, (stepOf t q).isSome = true ∨ mqOf t q = none ∨
          ((wd d 2).getLsbD 16 = true ∧ widthOf t q ≠ 64)) →
        exec (.stepOpen id) s = .next (finishOp t id eArg [])) ∧
      (∀ l, ls = some l → ps ≠ [] → (∀ q ∈ ps, stepOf t q = none ∧ (mqOf t q).isSome = true ∧
          ((wd d 2).getLsbD 16 = true → widthOf t q = 64)) → ∃ x : TStep,
          exec (.stepOpen id) s = .next (finishOp { t with steps := t.steps ++ [x] } id stOk []) ∧
          x.num = BitVec.ofNat 16 (bits (wd d 3) 15 0) ∧ x.ctx = o.ctx ∧ x.limits = l ∧
          x.group = (wd d 2).getLsbD 16 ∧ x.plazas = BitVec.ofNat 16 (bits (wd d 2) 15 0) ∧ x.values = [] ∧
          x.closing = none)) ∧
    (Given s id 0x43 o → (stepOf t p = none → exec (.stepClose id) s = .next (finishOp t id eArg [])) ∧
      (∀ x, stepOf t p = some x →
        (x.num ≠ BitVec.ofNat 16 (bits (wd d 3) 15 0) ∨ x.closing ≠ none ∨ (closer t x).map (·.id) ≠ some o.id →
          exec (.stepClose id) s = .next (finishOp t id eArg [])) ∧
        (x.num = BitVec.ofNat 16 (bits (wd d 3) 15 0) → x.closing = none → (closer t x).map (·.id) = some o.id →
          exec (.stepClose id) s = .next { t with steps := t.steps.map fun u =>
            if u = x then { x with closing := some id } else u }))) ∧
    (Running s id 0x43 o → o.after = none → ∀ x : TStep, s.steps.find? (fun t => t.closing == some id) = some x →
      ((∃ y ∈ s.ops, feeds s x y = true) → exec (.stepCloseEvaluate id) s = .next s) ∧
      (∀ vs : List (MqRec × Bool), (∀ y ∈ s.ops, feeds s x y = false) →
        vs = (((if x.group then [x.sites] else x.sites.map fun y => [y]).filter fun g => !g.isEmpty).map
          (verdict s x)) →
        exec (.stepCloseEvaluate id) s = .next (endAfter (vs.foldl (fun (s : State) (v : MqRec × Bool) =>
          match mqOf s v.1.plaza with
          | some r => mqPost s r id v.1
          | none => s) s) id stOk
          [BitVec.ofNat 32 vs.length, BitVec.ofNat 32 (vs.filter fun v => !v.2).length]))) ∧
    (Given s id 0x44 o → ∀ (ms : List Nat) (q : Fin 16), q = Fin.ofNat 16 (bits (wd d 2) 7 0 / 16) →
      ms = ((List.range 13).filter fun i => (bits (wd d 3) 12 0).testBit i) →
      (∀ r xs, mqsBound o [q] = true → recOf t o.ctx (wd d 5) = some r → r.data = .samples xs → r.complete = true →
        bits (wd d 3) 12 0 ≠ 0 → bits (wd d 4) 15 0 + ms.getLastD 0 ≤ 65535 → ∀ x : State × Nat,
        x = ms.foldl (fun (a : State × Nat) (b : Nat) => ((recMeasOne a.1 id o.seq (bits (wd d 2) 7 0)
          (bits (wd d 4) 15 0) (wd d 5) r.delta xs b).1, a.2 + b2n (recMeasOne a.1 id o.seq (bits (wd d 2) 7 0)
          (bits (wd d 4) 15 0) (wd d 5) r.delta xs b).2)) (t, 0) →
        exec (.recMeas id) s =
          .next (endAfter x.1 id stOk [BitVec.ofNat 32 ms.length, BitVec.ofNat 32 x.2])) ∧
      (mqsBound o [q] = false ∨ recOf t o.ctx (wd d 5) = none ∨ (∃ r, recOf t o.ctx (wd d 5) = some r ∧
          ((∃ ys, r.data = .stamps ys) ∨ r.complete = false)) ∨ bits (wd d 3) 12 0 = 0 ∨
          65535 < bits (wd d 4) 15 0 + ms.getLastD 0 →
        exec (.recMeas id) s = .next (finishOp t id eArg []))) ∧
    (Given s id 0x45 o → ∀ es, maskTable (hostRead t (wd64 d 4) (bits (wd d 6) 19 0)) (bits (wd d 6) 19 0) = es →
      (∀ e, es = some e → mqsBound o [p] = true → (t.dg[p]).mask = none → bits (wd d 3) 23 16 / 16 = p.val →
        bits (wd d 3) 23 16 % 16 < sitesOf t p →
        exec (.maskArm id) s = .next (modDg t p fun D =>
          { D with
            mask := some { op := id, stop := (wd d 2).getLsbD 8, site := bits (wd d 3) 23 16,
                           test := BitVec.ofNat 16 (bits (wd d 3) 15 0), bounds := e } })) ∧
      (es = none ∨ mqsBound o [p] = false ∨ (t.dg[p]).mask ≠ none ∨ bits (wd d 3) 23 16 / 16 ≠ p.val ∨
          sitesOf t p ≤ bits (wd d 3) 23 16 % 16 →
        exec (.maskArm id) s = .next (finishOp t id eArg [])))

/-! ### Measurement -/

/-- PMU_MEAS and ACQ wait for their converters, TMU_MEAS for its TMU, or end with E_ARG; a PMU measurement ends with its
records once each site's codes are there; an acquisition takes the codes of its conversions, is placed at its trigger
and ends with its record, or with E_ABORTED where its digitizer stops before the trigger; a TMU takes its reference
and its stop edges and ends once it is done; a record is read and freed for its context. That conversions come with
ACQ_TRIGGER and ACQ_END, and that codes no converter gives change nothing (notes/assumptions/221.md), and that gate
rows are rising edges (notes/assumptions/148.md), are the model's choices. -/
def Obligations.MeasurementsEndWithTheirRecords : Prop :=
  ∀ (s t : State) (id : OpId) (o : Op) (d : List Word), t = begun s id → d = o.cur →
    (Given s id 0x50 o →
      (pmuArgs t d = true → mqsBound o (pmuPlazas t d) = true →
        exec (.pmuMeas id) s = .next (queueConv t id)) ∧
      (pmuArgs t d = false ∨ mqsBound o (pmuPlazas t d) = false →
        exec (.pmuMeas id) s = .next (finishOp t id eArg []))) ∧
    (Running s id 0x50 o → ∀ codes : List PmuReading, s.dram.pmu.contains id = true →
      codes.map (·.chan) = (pmuSites s d).map (·.2) → (∀ r ∈ codes, pmuOk (bits (wd d 4) 9 0) r = true) →
      ∀ r : State × Nat, r = ((pmuSites s d).zip codes).foldl (fun (a : State × Nat) x =>
        ((pmuRecord a.1 id o.seq d x.1 x.2).1, a.2 + b2n (!(pmuRecord a.1 id o.seq d x.1 x.2).2))) (s, 0) →
      exec (.pmuMeasDone id codes) s = .next (pumpConv (endAfter
        { r.1 with dram := { r.1.dram with pmu := r.1.dram.pmu.filter (· != id) } } id stOk
        [BitVec.ofNat 32 (pmuSites s d).length, BitVec.ofNat 32 r.2]))) ∧
    (Given s id 0x51 o →
      (acqArgs t d = false ∨ allocRec t o.ctx (b2n ((wd d 2).getLsbD 31)) (4 * (wd d 6).toNat) = none →
        exec (.acq id) s = .next (finishOp t id eArg [])) ∧
      (∀ slot v, acqArgs t d = true →
        allocRec t o.ctx (b2n ((wd d 2).getLsbD 31)) (4 * (wd d 6).toNat) = some (slot, v) →
        exec (.acq id) s = .next (queueConv (modOp (modRec v slot fun r =>
          { r with
            delta := (if (wd d 2).getLsbD 31 then 500000 else 2000) * (bits (wd d 8) 15 0 + 1),
            chan := bits (wd d 2) 25 16 }) id fun o => { o with aux := slot }) id))) ∧
    (∀ codes : List Int, exec (.acqTrigger id codes) s = .next { s with
      dram := { s.dram with
        acqs := s.dram.acqs.map fun a =>
          if a.op = id ∧ (∀ n ∈ codes, acqCode a n = true) then (a.take (acqGO s a) codes).eventTrig else a } }) ∧
    (∀ (codes : List Int) (why : AcqEndWhy) (u : State) (a : Acq), u = { s with
        dram := { s.dram with
          acqs := s.dram.acqs.map fun a =>
            if a.op = id ∧ (∀ n ∈ codes, acqCode a n = true) then a.take (acqGO s a) codes else a } } →
      u.dram.acqs.find? (fun a => a.op == id) = some a →
      (acqEnds u a why = false → exec (.acqEnd id codes why) s = .next u) ∧
      (acqEnds u a why = true → why ≠ .stopped ∨ a.trigAt ≠ none →
        exec (.acqEnd id codes why) s = .next (acqEndNow u a why)) ∧
      (acqEnds u a why = true → why = .stopped → a.trigAt = none →
        exec (.acqEnd id codes why) s = .next (killAcq u a eAborted))) ∧
    (Given s id 0x52 o → (recOf t o.ctx (wd d 2) = none → exec (.recRead id) s = .next (finishOp t id eArg [])) ∧
      (∀ r, recOf t o.ctx (wd d 2) = some r →
        (recRange r (wd d 3).toNat (wd d 4).toNat ≠ none → exec (.recRead id) s =
          .next (modRec t r.slot fun r => { r with readers := id :: r.readers })) ∧
        (recRange r (wd d 3).toNat (wd d 4).toNat = none →
          exec (.recRead id) s = .next (finishOp t id eArg [])))) ∧
    (Running s id 0x52 o → ∀ r n u, s.dram.recs.find? (fun r => r.readers.contains id) = some r →
      recRange r (wd d 3).toNat (wd d 4).toNat = some n →
      u = finishOp (modRec (hostWrite s (wd64 d 5)
        (r.header ++ (((r.entries.drop (wd d 3).toNat).take n).flatMap fun e => e))) r.slot fun r =>
          { r with readers := r.readers.filter (· != id) }) id stOk [BitVec.ofNat 32 n] →
      (r.freeing = none ∨ r.readers.filter (· != id) ≠ [] → exec (.recReadDone id) s = .next u) ∧
      (r.freeing ≠ none → r.readers.filter (· != id) = [] →
        exec (.recReadDone id) s = .next (freeRec u r.slot))) ∧
    (Given s id 0x53 o →
      (recOf t o.ctx (wd d 2) = none → exec (.recFree id) s = .next (finishOp t id eArg [])) ∧
      (∀ r, recOf t o.ctx (wd d 2) = some r →
        (r.complete = false ∨ r.freeing ≠ none → exec (.recFree id) s = .next (finishOp t id eArg [])) ∧
        (r.complete = true → r.freeing = none →
          (r.readers = [] → exec (.recFree id) s = .next (finishOp (freeRec t r.slot) id stOk [])) ∧
          (r.readers ≠ [] → exec (.recFree id) s =
            .next (modRec t r.slot fun r => { r with freeing := some id }))))) ∧
    (Given s id 0x54 o → ∀ (n : Fin 64) (k : Bool), n = Fin.ofNat 64 (bits (wd d 2) 5 0) →
      k = (tmuArgs t d && (bits (wd d 3) 31 30 == 2 || mqsBound o [Fin.ofNat 16 (bits (wd d 10) 7 0 / 16)])) →
      (k = false ∨ allocRec t o.ctx 2 (16 * tmuGoal d) = none →
        exec (.tmuMeas id) s = .next (finishOp t id eArg [])) ∧
      (∀ (slot : Nat) (v w : State), k = true → allocRec t o.ctx 2 (16 * tmuGoal d) = some (slot, v) →
        w = modOp (modRec v slot fun r =>
          { r with tmu := n.val, chan := 64 * (tmuPlaza n).val + bits (wd d 5) 5 0 }) id
          (fun o => { o with aux := slot }) →
        ((w.tmu[n]).meas = none → exec (.tmuMeas id) s = .next (tmuBegin w n id slot d)) ∧
        ((w.tmu[n]).meas ≠ none → exec (.tmuMeas id) s =
          .next (modTmu w n fun T => { T with queue := enqueue w id T.queue })))) ∧
    (∀ b : Fin 4, exec (.tmuGateRise b) s = .next ((List.finRange 64).foldl (fun s n =>
      if (s.tmu[n]).meas.isSome ∧ bits (wd (tmuDesc s n) 3) 29 28 = 1 ∧ bits (wd (tmuDesc s n) 3) 27 26 = b.val then
        tmuArmNow s n
      else s) (fire { s with gate := s.gate.set b true } (0x94 + b.val) 0))) ∧
    (∀ (n : Fin 64) (m : TmuMeas), (s.tmu[n]).meas = some m →
      (m.arm = .waitRef → bits (wd (tmuDesc s n) 4) 31 30 = 0 →
        exec (.tmuStampReference n) s = .next (tmuRef s n)) ∧
      (∀ x : BitVec 48, m.arm = .measuring → exec (.tmuStopEdge n x) s =
        .next (modMeas s n (tmuEdge (tmuDesc s n) (tmuStamp s n x.toNat)))) ∧
      (m.arm = .done → exec (.tmuMeasDone n) s = .next (tmuEnd s n false)))

/-! ### Waveform sources -/

/-- AWG set-ups, wave segments and sequences are taken where they hold, else E_ARG or E_RESIDENCY; a write ends with its
words in DRAM; AWG_RUN arms or waits its turn, and is triggered into its first play; at a play's end the committed jump
ends its AWG_JUMP and the next entry plays, or the run ends with OK, or with E_UNDERRUN where nothing was fetched. -/
def Obligations.WaveformRunsPlayTheirSequence : Prop :=
  ∀ (s t : State) (id : OpId) (o : Op) (d : List Word) (a : Fin 16) (A : Awg),
    t = begun s id → d = o.cur →
    (a = awgIx d → Given s id 0x61 o → ∀ r x, r = bits (wd d 3) 1 0 → x = (wd d 4).toInt →
      (r ≠ 3 → -4000000 ≤ x → x ≤ 4000000 → x.natAbs + awgFs r ≤ 7000000 → awgOfsOk t a x = true →
        (t.awg[a]).run.busy = false → exec (.awgCfg id) s = .next (finishOp (setRange t a r x) id stOk [])) ∧
      (r = 3 ∨ x < -4000000 ∨ 4000000 < x ∨ 7000000 < x.natAbs + awgFs r ∨ awgOfsOk t a x = false ∨
          (t.awg[a]).run.busy = true → exec (.awgCfg id) s = .next (finishOp t id eArg []))) ∧
    (a = awgIx d → Given s id 0x62 o → ∀ (w : Fin 256) (off len : Nat), w = Fin.ofNat 256 (bits (wd d 2) 15 8) →
      off = bits (wd d 3) 26 0 → len = bits (wd d 4) 26 0 →
      (off % 32 ≠ 0 ∨ len % 32 ≠ 0 ∨ len < 64 ∨ 100663296 < off + len →
        exec (.awgWrite id) s = .next (finishOp t id eArg [])) ∧
      (off % 32 = 0 → len % 32 = 0 → 64 ≤ len → off + len ≤ 100663296 →
        (wsegActive t.awg[a] w = true ∨ rangeActive t.awg[a] off len = true →
          exec (.awgWrite id) s = .next (finishOp t id eResidency [])) ∧
        (wsegActive t.awg[a] w = false → rangeActive t.awg[a] off len = false → exec (.awgWrite id) s =
          .next (modAwg t a fun A => { A with
            wsegs := A.wsegs.set w { off := off, len := len, writing := id :: (A.wsegs[w]).writing } })))) ∧
    (a = awgIx d → Running s id 0x62 o → exec (.awgWriteDone id) s = .next (finishOp (modAwg
      (dramWrite s (awgBase a + 2 * bits (wd d 3) 26 0) (hostRead s (wd64 d 5) (2 * bits (wd d 4) 26 0))) a
      fun A => endWrite A (Fin.ofNat 256 (bits (wd d 2) 15 8)) id) id stOk [])) ∧
    (a = awgIx d → Given s id 0x63 o → ∀ n, n = bits (wd d 3) 10 0 →
      ((t.awg[a]).run.busy = true ∨ n = 0 ∨ 1024 < n → exec (.awgSeq id) s = .next (finishOp t id eArg [])) ∧
      ((t.awg[a]).run.busy = false → n ≠ 0 → n ≤ 1024 →
        ∀ es, (List.range n).mapM (fun i => parseSeqEnt t.awg[a] n
          (sliceB (hostRead t (wd64 d 4) (16 * n)) (16 * i) 16)) = es →
        (es = none → exec (.awgSeq id) s = .next (finishOp t id eArg [])) ∧
        (∀ x, es = some x → exec (.awgSeq id) s =
          .next (finishOp (modAwg t a fun A => { A with seq := x }) id stOk [])))) ∧
    (a = awgIx d → Given s id 0x64 o →
      ((t.awg[a]).run.busy = true → exec (.awgRun id) s =
        .next (modAwg t a fun A => { A with queue := enqueue t id A.queue })) ∧
      ((t.awg[a]).run.busy = false → awgReady t a d = true → exec (.awgRun id) s = .next (armAwg t a id d)) ∧
      ((t.awg[a]).run.busy = false → awgReady t a d = false →
        exec (.awgRun id) s = .next (finishOp t id eArg []))) ∧
    (a = awgIx d → Given s id 0x65 o →
      ((t.awg[a]).run.busy = true → (wd d 3).getLsbD 16 = true ∨ bits (wd d 3) 9 0 < (t.awg[a]).seq.length →
        exec (.awgJump id) s = .next (requestAJump t a
          { halt := (wd d 3).getLsbD 16, target := bits (wd d 3) 9 0, op := some id })) ∧
      ((t.awg[a]).run.busy = false ∨ ((wd d 3).getLsbD 16 = false ∧ (t.awg[a]).seq.length ≤ bits (wd d 3) 9 0) →
        exec (.awgJump id) s = .next (finishOp t id eArg []))) ∧
    (A = s.awg[a] →
      (A.run.phase = .armed → A.run.fired = true →
        (∀ g, A.run.pre = some g →
          exec (.awgTrigger a) s = .next (playBegin s a A.run.entry A.run.left 0 true true g)) ∧
        (A.run.pre = none → exec (.awgTrigger a) s = .next (awgStop s a eUnderrun 0 A.code))) ∧
      (A.run.phase = .playing → A.run.decided = false → exec (.awgDecisionPoint a) s = .next (modAwg s a fun A =>
        refetch { A with run := { A.run with decided := true, commit := A.run.pend, pend := none } })) ∧
      (∀ clocks : Nat, A.run.phase = .playing → exec (.awgUnderrun a clocks) s =
        .next (awgStop s a eUnderrun (A.run.clocks + clocks) (codeAfter s a clocks)))) ∧
    (∀ (v w : State) (g : Fin 256) (off len m n : Nat) (c : BitVec 16), v = modAwg s a decideNow →
      A = v.awg[a] → A.run.phase = .playing → A.run.play = some (g, off, len) → c = lastCode v a →
      m = playClocks len A.run.frac (seqEnt A A.run.entry).step → n = A.run.clocks + m →
      w = (A.run.commit.bind (·.op)).toList.foldl
        (fun s i => finishOp s i stOk [BitVec.ofNat 32 n, BitVec.ofNat 32 (n / 2 ^ 32)]) v →
      (nextEntry A = none → exec (.awgPlayEnd a) s = .next (awgStop (modAwg w a fun B =>
        { B with run := { B.run with commit := none, jumped := A.run.jumped || A.run.commit.isSome } }) a stOk n c)) ∧
      (∀ i, nextEntry A = some i →
        (A.run.pre = none → exec (.awgPlayEnd a) s = .next (awgStop v a eUnderrun n c)) ∧
        (∀ x u left, A.run.pre = some x → u = modAwg (holdCode w a c false) a (fun B => { B with
            run := { B.run with clocks := n, jumped := A.run.jumped || A.run.commit.isSome } }) →
          left = (if A.run.commit.isNone && A.run.left != 0 then A.run.left - 1 else (seqEnt A i).rep) →
          exec (.awgPlayEnd a) s = .next (dropJump (playBegin u a i left
            (A.run.frac + m * (seqEnt A A.run.entry).step - len * 2 ^ 32) false
            ((seqEnt A i).ftw != (seqEnt A A.run.entry).ftw || (seqEnt A i).phase != (seqEnt A A.run.entry).phase) x)
            (lateStop u.awg[a] i left)))))

/-! ### Raster engines -/

/-- Raster descriptors set up image words, layers, maps and runs, or end with E_ARG or E_RESIDENCY; COMMIT is copied at
once with no run, else at vertical blanking; a run ends after its frames or at RE_HALT. -/
def Obligations.RasterRunsFollowTheirSetUp : Prop :=
  ∀ (s t : State) (id : OpId) (o : Op) (d : List Word) (k : Fin 4), t = begun s id → d = o.cur →
    (k = reIx d → Given s id 0x71 o → ∀ (off len : Nat) (hit : Bool), off = wd64 d 3 → len = (wd d 5).toNat →
      hit = (List.finRange 4).any (fun n =>
        (t.re[k]).active.layers[n].en && overlaps (off, off + len) ((t.re[k]).active.layers[n]).range) →
      (partSize t < off + len → exec (.reWrite id) s = .next (finishOp t id eArg [])) ∧
      (off + len ≤ partSize t → (t.re[k]).run.busy = true → hit = true →
        exec (.reWrite id) s = .next (finishOp t id eResidency [])) ∧
      (off + len ≤ partSize t → (t.re[k]).run.busy = false ∨ hit = false → exec (.reWrite id) s =
        .next (modRe t k fun R => { R with writes := R.writes ++ [(id, off, len)] }))) ∧
    (k = reIx d → Running s id 0x71 o → ∀ i off len, (s.re[k]).writes.find? (fun w => w.1 == id) = some (i, off, len) →
      exec (.reWriteDone id) s = .next (finishOp (modRe (dramWrite s (partBase s k + off)
        (hostRead s (wd64 d 6) len)) k fun R => { R with writes := R.writes.filter fun w => w.1 != id }) id stOk [])) ∧
    (k = reIx d → Given s id 0x72 o → ∀ l : Layer,
      l = { en := (wd d 3).getLsbD 31, alpha := BitVec.ofNat 8 (bits (wd d 3) 7 0), offset := wd64 d 4,
            stride := bits (wd d 6) 15 0, width := bits (wd d 7) 13 0, height := bits (wd d 7) 29 16,
            x := bits (wd d 8) 12 0, y := bits (wd d 8) 28 16 } →
      (l.ok t = true → exec (.reLayer id) s = .next (finishOp (modRe t k fun R =>
        { R with
          shadow := { R.shadow with
            layers := R.shadow.layers.set (Fin.ofNat 4 (bits (wd d 2) 5 4)) l } }) id stOk [])) ∧
      (l.ok t = false → exec (.reLayer id) s = .next (finishOp t id eArg []))) ∧
    (Given s id 0x73 o → ∀ (p : Fin 16) (m : List Nat), p = Fin.ofNat 16 (bits (wd d 2) 3 0) →
      m = (List.range 64).map (fun c => numAt (hostRead t (wd64 d 4) 128) (2 * c) 2) →
      ((t.re[reOf p]).run.busy = false → (∀ c < 64, mapEntryOk (widthOf t p) m c = true) →
        exec (.reMap id) s = .next (finishOp (modPlz t p fun P =>
          { P with rmap := updAll P.rmap fun c _ => BitVec.ofNat 16 (m.getD c.val 0) }) id stOk [])) ∧
      ((t.re[reOf p]).run.busy = true ∨ (∃ c < 64, mapEntryOk (widthOf t p) m c = false) →
        exec (.reMap id) s = .next (finishOp t id eArg []))) ∧
    (k = reIx d → Given s id 0x74 o →
      ((t.re[k]).run.busy = false → (t.re[k]).eng.st = .on → (streamOf t k).isSome = true →
        (t.re[k]).committed = true → exec (.reRun id) s = .next (armRe t k id d)) ∧
      ((t.re[k]).run.busy = true ∨ (t.re[k]).eng.st ≠ .on ∨ streamOf t k = none ∨ (t.re[k]).committed = false →
        exec (.reRun id) s = .next (finishOp t id eArg []))) ∧
    (k = reIx d → Given s id 0x75 o →
      ((t.re[k]).run.busy = true → exec (.reHalt id) s = .next (modRe t k fun R =>
        { R with run := { R.run with halts := R.run.halts ++ [id] } })) ∧
      ((t.re[k]).run.busy = false → exec (.reHalt id) s = .next (finishOp t id eArg []))) ∧
    (barsOn s = true →
      ((s.re[k]).run.busy = true → exec (.reCommitWrite k) s = .next (modRe s k fun R => { R with commit := true })) ∧
      ((s.re[k]).run.busy = false →
        exec (.reCommitWrite k) s = .next (commitNow (modRe s k fun R => { R with commit := true }) k))) ∧
    (∀ u, (s.re[k]).run.vblankDue = true →
      u = commitNow (fire (modRe s k fun R => { R with run := { R.run with vblankDue := false } }) (0x81 + k.val)
        ((s.re[k]).run.done % 256)) k →
      ((s.re[k]).run.halts = [] → exec (.verticalBlanking k) s = .next u) ∧
      ((s.re[k]).run.halts ≠ [] → exec (.verticalBlanking k) s = .next (endRe u k stOk))) ∧
    (∀ u, (s.re[k]).run.frameDue = true →
      u = modRe s k (fun R => { R with run := { R.run with frameDue := false, done := R.run.done + 1 } }) →
      ((s.re[k]).run.frames ≠ 0 → (s.re[k]).run.frames ≤ (s.re[k]).run.done + 1 →
        exec (.frameComplete k) s = .next (endRe u k stOk)) ∧
      ((s.re[k]).run.frames = 0 ∨ (s.re[k]).run.done + 1 < (s.re[k]).run.frames →
        exec (.frameComplete k) s = .next u))

/-! ### DUT supplies -/

/-- DPS and monitor descriptors apply or wait for the monitor ADC, or end with E_ARG; DPS_MEAS ends with its calibrated
mean, MON_CHECK with its results in host memory; the ends of a ramp, of a discharge and of a BLANK count move the
supply on; a crossing trips it where its monitor acts; a lost sense, a dropout and an off-watch crossing are noted;
the budget average is kept, warns and trips every DPS that is not OFF. Whether a crossing falls into the monitor's own
trip test is a free bit (notes/assumptions/134.md), and samples not yet there count 0 in the average (135.md): the
model's choices. -/
def Obligations.SuppliesAreConfiguredWatchedAndTripped : Prop :=
  ∀ (s t : State) (id : OpId) (o : Op) (d : List Word) (n : Fin 32) (D : Dps), t = begun s id → d = o.cur →
    (n = dpsIx d → Given s id 0x79 o → ∀ (c : DpsCfg) (es : List (Word × Word)), c = dpsCfgOf d →
      es = (if (t.dps[n]).eng.st == .on || (t.dps[n]).eng.st == .starting then (t.dps[n]).corr else dpsCal t n) →
      (c.inRange = true → c.vset ≤ dpsTop t → c.converts es = true → c.vset ≤ 1000 * c.slew * dpsStartMs t →
        exec (.dpsCfg id) s = .next (finishOp (modDps t n fun D => applyDpsCfg D c) id stOk [])) ∧
      (c.inRange = false ∨ dpsTop t < c.vset ∨ c.converts es = false ∨ 1000 * c.slew * dpsStartMs t < c.vset →
        exec (.dpsCfg id) s = .next (finishOp t id eArg []))) ∧
    (n = dpsIx d → Given s id 0x7A o →
      (isOn t (.dps n) = true → bits (wd d 4) 9 0 ≠ 0 → bits (wd d 4) 9 0 ≤ 1000 → peUp t = true →
        exec (.dpsMeas id) s = .next (queueMon t id)) ∧
      (isOn t (.dps n) = false ∨ bits (wd d 4) 9 0 = 0 ∨ 1000 < bits (wd d 4) 9 0 ∨ peUp t = false →
        exec (.dpsMeas id) s = .next (finishOp t id eArg []))) ∧
    (Running s id 0x7A o → ∀ (codes : List Int) (limited : Bool) (sum : Int) (v : BitVec 64),
      s.dram.mon.contains id = true → codes.length = bits (wd d 4) 9 0 → (∀ x ∈ codes, -32768 ≤ x ∧ x ≤ 32767) →
      D = s.dps[dpsIx d] → sum = codes.foldl (· + ·) 0 →
      v = BitVec.ofInt 64 (dpsValue D (bits (wd d 3) 0 0) (bits (wd d 4) 9 0) sum) →
      exec (.dpsMeasDone id codes limited) s = .next (leaveMon (finishOp s id stOk [v.setWidth 32,
        (v >>> 32).setWidth 32, BitVec.ofNat 32 (8 * b2n D.senseLost + 4 * b2n limited + 2 * b2n D.dropout +
          b2n (codes.any fun n => n == -32768 || n == 32767)),
        w32 ((16 * sum).tdiv (bits (wd d 4) 9 0))]) id)) ∧
    (Given s id 0x7B o → ((monOf d).ok = true → exec (.monCfg id) s = .next (queueMon t id)) ∧
      ((monOf d).ok = false → exec (.monCfg id) s = .next (finishOp t id eArg []))) ∧
    (Given s id 0x7C o → (wd d 2 ≠ 0 → peUp t = true → exec (.monCheck id) s = .next (queueMon t id)) ∧
      (wd d 2 = 0 ∨ peUp t = false → exec (.monCheck id) s = .next (finishOp t id eArg []))) ∧
    (Running s id 0x7C o → ∀ (res : List MonCheckRes) (rs : List (List Word × Bool)) (ns : List (Fin 32)) (f : Nat),
      s.dram.mon.contains id = true → ns = ixs 32 (fun n => (wd d 2).getLsbD n.val) → res.map (·.dps) = ns →
      (∀ r ∈ res, checkCodes (s.dps[r.dps]).mon r = true) → rs = res.map (monResult s d) → f = (rs.filter fun r => !r.2).length →
      exec (.monCheckDone id res) s = .next (leaveMon (finishOp
        (ns.foldl (fun u m => if tripTested u d m then blankDps u m else u)
          (hostWrite s (wd64 d 4) (bytesOf (rs.flatMap (·.1))))) id (if f = 0 then stOk else stPartial)
        [BitVec.ofNat 32 f, BitVec.ofNat 32 ns.length]) id)) ∧
    (exec (.blankEnd n) s = .next (modDps s n fun D => { D with blankCount := false })) ∧
    (exec (.dpsDropoutEnd n) s = .next (modDps s n fun D => { D with dropout := false })) ∧
    (D = s.dps[n] →
      (D.eng.st = .on → D.ramping = true → exec (.dpsRampEnd n) s = .next (modDps s n fun D =>
        { D with ramping := false, blankCount := true, vcode := D.code D.live })) ∧
      (D.eng.st = .starting → D.stage = .ramp → exec (.dpsRampEnd n) s =
        .next (modDps s n fun D => { D with stage := .settle, vcode := D.code D.live })) ∧
      (D.eng.st = .stopping ∨ D.eng.st = .pendingOn → D.stage = .ramp →
        exec (.dpsRampEnd n) s = .next (modDps s n dpsIsolate)) ∧
      (D.eng.st = .fault → D.sink = true → exec (.dpsDischarged n) s =
        .next (parkDps (modDps s n fun D => { D with discharged := true, sink := false }) n)) ∧
      (D.eng.st = .starting → D.stage = .discharge → exec (.dpsDischarged n) s = .next (modDps s n dpsRampUp)) ∧
      (D.eng.st = .stopping ∨ D.eng.st = .pendingOn → D.stage = .discharge → exec (.dpsDischarged n) s =
        .next (modDps s n fun D => { D with discharged := true, sink := false, stage := .none })) ∧
      (D.eng.st = .starting ∨ D.eng.st = .on ∨ D.eng.st = .stopping ∨ D.eng.st = .pendingOn →
        (D.live.sense = true → D.pkgSense = false → exec (.senseLost n) s =
          .next (modDps s n fun D => { D with pkgSense := true, senseLost := true })) ∧
        (exec (.dpsDropout n) s = .next (modDps s n fun D => { D with dropout := true })) ∧
        (∀ (v i : Int) (c : BitVec 4), monCause D v i = some c →
          (D.mon.en = false ∨ D.blanked = true ∨ D.tripped = true →
            exec (.windowMonitorTrip n v i) s = .next s) ∧
          (D.mon.en = true → D.blanked = false → D.tripped = false →
            (tripPathOpen s n = false → exec (.windowMonitorTrip n v i) s = .next (tripDps s n c)) ∧
            (∀ f : BitVec 1 × State, tripPathOpen s n = true → f = takeFree s 1 →
              exec (.windowMonitorTrip n v i) s = .next (if f.1 = 1 then tripDps f.2 n c else f.2))))) ∧
      (∀ v i : Int, monCause D v i = none → exec (.windowMonitorTrip n v i) s = .next s) ∧
      (∀ u : State, isOff s (.dps n) = true → D.mon.en = true → D.mon.offWatch = true → D.blanked = false →
        u = (if s.glb.pwr = .deepSleep then { s with glb := { s.glb with wakeNLow := true } } else s) →
        (s.pwr.evt.extV = true → exec (.offWatchCrossing n) s = .next u) ∧
        (s.pwr.evt.extV = false → ∀ x, x = { u with pwr := { u.pwr with evt := { u.pwr.evt with extV := true } } } →
          exec (.offWatchCrossing n) s = .next (postEq x (holder x (.dps n)) (mkEq x 0x000B n.val 0 0))))) ∧
    (∀ (mw sum lim : Nat) (xs : List Nat) (p : BitVec 16), xs = (mw :: s.pwr.samples).take 100 →
      sum = xs.foldl (· + ·) 0 → lim = s.pwr.limitMw.toNat → p = BitVec.ofNat 16 (min (sum / 100) 65535) →
      ∃ u : State, u = { s with pwr := u.pwr } ∧ u.pwr.samples = xs ∧ u.pwr.pMw = p ∧
        (sum ≤ 90 * lim ∨ s.pwr.warnArmed = false → sum ≤ 100 * lim →
          u.pwr.evt = s.pwr.evt ∧ exec (.budgetSample mw) s = .next u) ∧
        (90 * lim < sum → s.pwr.warnArmed = true → sum ≤ 100 * lim → u.pwr.evt.budgetWarn = true ∧
          u.pwr.warnArmed = false ∧
          exec (.budgetSample mw) s = .next (postEq u none (mkEq u 0x000C 0 (p.setWidth 32) 0))) ∧
        (100 * lim < sum → u.pwr.evt.budgetTrip = true ∧
          exec (.budgetSample mw) s = .next (tripAll (if s.pwr.warnArmed = true then
            postEq u none (mkEq u 0x000C 0 (p.setWidth 32) 0) else u) 5)))

/-! ### Lanes, the Commons and the Avenue -/

/-- The oldest event of a source reaches the enabled Lanes that have it. The oldest trigger goes to its task's consumer,
which acts on it, or is busy: then the Lane notes that it was ignored; in a reset WAKE_N stays released. A set-up word
applies where it passes the checks, by LANE_CFG else E_ARG, by register else CFG_BAD; Lanes are fired and acknowledged
by descriptor and by register. The model's choices (all DEDUCED): a jump to a target beyond the AWG's loaded sequence
makes no request, and the Lane does not note it, the AWG not being busy (notes/assumptions/41.md); which payload counts
where events meet, and which join (notes/assumptions/92.md); in which order a pair's AND and task may be set up
(notes/assumptions/174.md). -/
def Obligations.LanesCarryEventsToTheirTasks : Prop :=
  ∀ (s t : State) (id : OpId) (o : Op) (d : List Word), t = begun s id → d = o.cur →
    (∀ f : BitVec 8 × BitVec 8, s.fired.find? (fun x => x.1 == f.1) = some f →
      ∀ u, u = { s with fired := s.fired.eraseP fun x => x.1 == f.1 } →
      exec (.laneSourceEvent f.1) s = .next (carryAll u (ixs 64 fun n => carries u n && (u.lanes[n]).src == f.1) f.2)) ∧
    (∀ (x : Trigger) (rest : List Trigger) (u : State), s.triggers = x :: rest → u = { s with triggers := rest } →
      (∀ (p : Fin 16) (m : Meet),
        (x.task = BitVec.ofNat 8 (0x01 + p.val) →
          exec (.plzEn p m) s = .next (enableEng u (.plaza p) none m)) ∧
        (x.task = BitVec.ofNat 8 (0x11 + p.val) →
          exec (.plzDis p m) s = .next (closeCheck (disableEng u (.plaza p) none m))) ∧
        (x.task = BitVec.ofNat 8 (0x21 + p.val) → syncWaits u p 2 = true →
          exec (.seqSync p) s = .next (releaseSync u p 2 0)) ∧
        (x.task = BitVec.ofNat 8 (0x31 + p.val) → (u.plz[p]).run.on = true →
          exec (.taskSeqJump p) s = .next (requestJump u p (u.plz[p]).seq.sjtgt none)) ∧
        (x.task = BitVec.ofNat 8 (0x31 + p.val) → (u.plz[p]).run.on = false →
          exec (.taskSeqJump p) s = .next (modLane u x.lane fun l => { l with ignored := true })) ∧
        (x.task = BitVec.ofNat 8 (0x41 + p.val) → acqWaits u p = true →
          exec (.measTrig p) s = .next (trigAcqs u p fun a => a.trig == 1)) ∧
        (x.task = BitVec.ofNat 8 (0x51 + p.val) → (∃ n, tmuWaits u p n = true) →
          exec (.tmuArm p) s = .next ((ixs 64 (tmuWaits u p)).foldl tmuArmNow u)) ∧
        (x.task = BitVec.ofNat 8 (0x61 + p.val) → (u.awg[p]).run.phase = .armed → (u.awg[p]).run.trig = 1 →
          exec (.awgStart p) s = .next (awgLaneStart u p)) ∧
        (∀ A, A = u.awg[p] → x.task = BitVec.ofNat 8 (0x71 + p.val) → A.run.phase = .playing →
          (A.jHalt = true ∨ A.jTgt.toNat < A.seq.length → exec (.taskAwgJump p) s =
            .next (requestAJump u p { halt := A.jHalt, target := A.jTgt.toNat, op := none })) ∧
          (A.jHalt = false → A.seq.length ≤ A.jTgt.toNat → exec (.taskAwgJump p) s = .next u))) ∧
      (∀ (n : Fin 32) (m : Meet),
        (x.task = BitVec.ofNat 8 (0x81 + n.val) → exec (.dpsEn n m) s = .next (enableEng u (.dps n) none m)) ∧
        (x.task = BitVec.ofNat 8 (0xA1 + n.val) →
          exec (.dpsDis n m) s = .next (closeCheck (disableEng u (.dps n) none m))) ∧
        (x.task = BitVec.ofNat 8 (0xC1 + n.val) → exec (.dpsBlank n) s = .next (blankDps u n))) ∧
      (∀ k : Fin 4, x.task = BitVec.ofNat 8 (0xE1 + k.val) → (u.re[k]).run.phase = .armed → (u.re[k]).run.trig = 2 →
        exec (.reStart k) s = .next (modRe u k fun R => { R with run := { R.run with fired := true } })) ∧
      (x.task = 0xE5 → u.cm.master = true → exec .cmArmOut s = .next (cmArm u true)) ∧
      (x.task = 0xE6 → u.cm.fireDriven = false → cmAsleep u = false →
        exec .cmFireOut s = .next (cmPulse u false)) ∧
      (x.task = 0xE7 → u.cm.haltDriven = false → cmAsleep u = false →
        exec .cmHaltOut s = .next (cmPulse u true)) ∧
      (∀ n : Fin 8, x.task = BitVec.ofNat 8 (0xE8 + n.val) → sendable u n = true → onLine u n = false →
        exec (.avOut n) s = .next (avSendNow u n x.payload none)) ∧
      (x.task = 0xF0 →
        (inReset u = false → exec .wake s = .next { u with glb := { u.glb with wakeNLow := true } }) ∧
        (inReset u = true → exec .wake s = .next u)) ∧
      (x.task = 0xF1 → (u.lanes[x.lane]).hostPend = false →
        exec (.host x.lane) s = .next (laneEvent u x.lane x.payload)) ∧
      (x.task = 0xFE → exec (.andGate x.lane) s = .next (setGate u x.lane)) ∧
      (∀ (p : Fin 16) (k : Fin 4) (n : Fin 8) (y : Instr × Nat × Bool),
        y ∈ [(.seqSync p, 0x21 + p.val, !syncWaits u p 2), (.taskSeqJump p, 0x31 + p.val, !(u.plz[p]).run.on),
          (.measTrig p, 0x41 + p.val, !acqWaits u p),
          (.tmuArm p, 0x51 + p.val, !(List.finRange 64).any (tmuWaits u p)),
          (.awgStart p, 0x61 + p.val, !((u.awg[p]).run.phase == .armed && (u.awg[p]).run.trig == 1)),
          (.taskAwgJump p, 0x71 + p.val, (u.awg[p]).run.phase != .playing),
          (.reStart k, 0xE1 + k.val, !((u.re[k]).run.phase == .armed && (u.re[k]).run.trig == 2)),
          (.cmArmOut, 0xE5, !u.cm.master), (.cmFireOut, 0xE6, u.cm.fireDriven || cmAsleep u),
          (.cmHaltOut, 0xE7, u.cm.haltDriven || cmAsleep u),
          (.avOut n, 0xE8 + n.val, !sendable u n || onLine u n), (.host x.lane, 0xF1, (u.lanes[x.lane]).hostPend)] →
        x.task = BitVec.ofNat 8 y.2.1 → y.2.2 = true →
        exec y.1 s = .next (modLane u x.lane fun l => { l with ignored := true }))) ∧
    (Given s id 0xA0 o → ∀ n : Fin 64, n = Fin.ofNat 64 (bits (wd d 2) 5 0) →
      (laneCfgOk t n (wd d 3) = true → o.ctx = 0 ∨ taskOfZero (bits (wd d 3) 15 8) = false →
        exec (.laneCfg id) s = .next (finishOp (applyLane t n (wd d 3)) id stOk [])) ∧
      (laneCfgOk t n (wd d 3) = false ∨ (o.ctx ≠ 0 ∧ taskOfZero (bits (wd d 3) 15 8) = true) →
        exec (.laneCfg id) s = .next (finishOp t id eArg []))) ∧
    (Given s id 0xA1 o → ∀ on off, on = ixs 64 (fun n => (BitVec.ofNat 64 (wd64 d 2)).getLsbD n.val && (t.lanes[n]).en) →
      off = ixs 64 (fun n => (BitVec.ofNat 64 (wd64 d 2)).getLsbD n.val && !(t.lanes[n]).en) →
      exec (.laneFire id) s = .next (finishOp (softFire t on (BitVec.ofNat 8 (bits (wd d 4) 7 0))) id stOk
        [BitVec.ofNat 32 on.length, BitVec.ofNat 32 off.length])) ∧
    (Given s id 0xA2 o → exec (.laneAck id) s =
      .next (finishOp (ackLanes t (BitVec.ofNat 64 (wd64 d 2))) id stOk [])) ∧
    (barsOn s = true → ∀ (n : Fin 64) (w : Word) (m : BitVec 64),
      (laneCfgOk s n w = true → exec (.lanCfgWrite n w) s = .next (applyLane s n w)) ∧
      (laneCfgOk s n w = false → exec (.lanCfgWrite n w) s = .next (modLane s n fun l => { l with cfgBad := true })) ∧
      exec (.lanFireWrite m) s = .next (fireLanes s m) ∧ exec (.lanAckWrite m) s = .next (ackLanes s m))

/-- The Commons: CM_CTL arms, disarms, fires and halts as context 0 of an enabled unit, else E_ARG; arming and disarming
are the master's, on another unit ARM_REFUSED. A pulse ends; a detected arm fires its source; a detected fire, where
CM_ARM_N is low, fires its source and on an enabled unit counts and releases what waits for it, else it is noted; a halt
disables the Plazas it names; AUTODISARM releases CM_ARM_N, and an ARM that comes before it does not call it off (DEDUCED, notes/assumptions/180.md); off its occasion it changes nothing (notes/assumptions/1.md). -/
def Obligations.CommonsArmFireAndHalt : Prop :=
  ∀ (s t : State) (id : OpId) (o : Op) (d : List Word), t = begun s id → d = o.cur →
    (Given s id 0xA3 o →
      (o.ctx = 0 → t.cm.en = true →
        (t.cm.master = true →
          (bits (wd d 2) 1 0 = 0 → exec (.cmCtlArm (some id)) s = .next (finishOp (cmArm t true) id stOk [])) ∧
          (bits (wd d 2) 1 0 = 1 → exec (.cmCtlDisarm (some id)) s = .next (finishOp (cmArm t false) id stOk []))) ∧
        (bits (wd d 2) 1 0 = 2 → exec (.cmCtlFire (some id)) s = .next (finishOp (cmPulse t false) id stOk [])) ∧
        (bits (wd d 2) 1 0 = 3 → exec (.cmCtlHalt (some id)) s = .next (finishOp (cmPulse t true) id stOk []))) ∧
      (∀ x ∈ [(Instr.cmCtlArm (some id), 0), (.cmCtlDisarm (some id), 1), (.cmCtlFire (some id), 2),
          (.cmCtlHalt (some id), 3)], bits (wd d 2) 1 0 = x.2 →
        (x.2 ≤ 1 → o.ctx = 0 → t.cm.master = false →
          exec x.1 s = .next (finishOp { t with cm := { t.cm with armRefused := true } } id eArg [])) ∧
        (o.ctx ≠ 0 ∨ (t.cm.en = false ∧ (2 ≤ x.2 ∨ t.cm.master = true)) →
          exec x.1 s = .next (finishOp t id eArg [])))) ∧
    (barsOn s = true → exec (.cmCtlArm none) s = .next (cmArm s true) ∧
      exec (.cmCtlDisarm none) s = .next (cmArm s false) ∧ exec (.cmCtlFire none) s = .next (cmPulse s false) ∧
      exec (.cmCtlHalt none) s = .next (cmPulse s true)) ∧
    (∀ on : Bool, (s.cm.master = false → cmArm s on = { s with cm := { s.cm with armRefused := true } }) ∧
      (s.cm.master = true → on = false ∨ (s.cm.en = true ∧ cmAsleep s = false) →
        cmArm s on = { s with cm := { s.cm with armDriven := on } })) ∧
    (s.cm.en = true → cmAsleep s = false → cmPulse s false = { s with cm := { s.cm with fireDriven := true } } ∧
      cmPulse s true = { s with cm := { s.cm with haltDriven := true } }) ∧
    (exec (.cmPulseEnd true) s = .next { s with cm := { s.cm with haltDriven := false } } ∧
      exec (.cmPulseEnd false) s = .next { s with cm := { s.cm with fireDriven := false } } ∧
      exec .cmArmDetect s = .next (fire s 0x90 0) ∧
      exec .cmHaltDetect s = .next (closeCheck ((plazasOf s.cm.haltMask).foldl
        (fun s p => disableEng s (.plaza p) none .alone) (fire s 0x92 0)))) ∧
    (∀ low : Bool,
      (low = false → s.cm.armDriven = false →
        exec (.cmFireDetect low) s = .next { s with cm := { s.cm with fireUnarmed := true } }) ∧
      (low = true ∨ s.cm.armDriven = true →
        (s.cm.en = false → exec (.cmFireDetect low) s = .next (fire s 0x91 0)) ∧
        (s.cm.en = true → exec (.cmFireDetect low) s =
          .next ((List.finRange 16).foldl (fun s p => releaseSync s p 0 0) (startArmed
            { fire s 0x91 0 with
              cm := { s.cm with
                fires := s.cm.fires + 1,
                autoDue := s.cm.autoDue || (s.cm.autodisarm && s.cm.armDriven) } } 1))))) ∧
    (s.cm.autoDue = true → s.cm.autodisarm = true →
      exec .autodisarm s = .next { s with cm := { s.cm with armDriven := false, autoDue := false } }) ∧
    (s.cm.autoDue = false ∨ s.cm.autodisarm = false → exec .autodisarm s = .next s)

/-- The Avenue: the master's AV_TRAIN and a follower's training begin; a training ends as its answers say, or OFF where a
step fails, an owner clashes, no version is common or time runs out. AV_SEND starts on a free line, waits for a busy
one, or ends with E_LINK or E_ARG; a line that comes free takes the first that waits. A received frame is dropped,
reported for its CRC, or becomes an event, at the earliest 64 ticks from now; an effect fires its source, releases
what waits and ends its AV_SEND. A follower reports a lost link. The open rounding of a latency in ticks
(notes/assumptions/43.md), the drop of a frame whose preamble is wrong (notes/assumptions/179.md), and that a command
off its occasion changes nothing (notes/assumptions/1.md), are the model's choices. -/
def Obligations.AvenueTrainsSendsAndTakesEffect : Prop :=
  ∀ (s t : State) (id : OpId) (o : Op) (d : List Word) (line : Fin 8), t = begun s id → d = o.cur →
    (Given s id 0xA4 o →
      (o.ctx = 0 → t.av.master = true → t.av.en = true →
        (t.av.st ≠ .training → exec (.avTrain (some id) .begun) s = .next (avBegin t (some id))) ∧
        (t.av.st = .training → exec (.avTrain (some id) .begun) s = .next s)) ∧
      (o.ctx ≠ 0 ∨ t.av.master = false ∨ t.av.en = false →
        exec (.avTrain (some id) .begun) s = .next (finishOp t id eArg []))) ∧
    (s.av.en = true → s.av.master = false → exec (.avTrain none .begun) s = .next (avBegin s none)) ∧
    (s.av.st = .training → exec .avTrainTimeout s = .next (avFail s) ∧
      exec (.avTrain s.av.trainOp .stepFailed) s = .next (avFail s) ∧
      (∀ (us others : List AvUnit) (ver : Nat), others = us.filter (fun u => u.chipid.val != s.glb.chipid.toNat) →
        ver = us.foldl (fun v u => min v u.version) 2 →
        (ownClash s.av.own others = true → exec (.avTrain s.av.trainOp (.answers us)) s =
          .next (avFail { s with av := { s.av with ownerClash := true } })) ∧
        (ownClash s.av.own others = false →
          (ver = 0 → exec (.avTrain s.av.trainOp (.answers us)) s = .next (avFail s)) ∧
          (ver ≠ 0 → s.av.trainOp = some id →
            exec (.avTrain (some id) (.answers us)) s = .next (avTrained s others ver)) ∧
          (ver ≠ 0 → s.av.trainOp = none → s.av.master = false →
            exec (.avTrain none (.answers us)) s = .next (avFollow s us ver))))) ∧
    (Given s id 0xA5 o → ∀ n, n = Fin.ofNat 8 (bits (wd d 2) 2 0) →
      (o.ctx ≠ 0 → exec (.avSend id) s = .next (finishOp t id eArg [])) ∧
      (o.ctx = 0 →
        (t.av.st ≠ .trained → exec (.avSend id) s = .next (finishOp t id eLink [])) ∧
        (t.av.st = .trained → sendable t n = false → exec (.avSend id) s = .next (finishOp t id eArg [])) ∧
        (sendable t n = true → onLine t n = true → exec (.avSend id) s =
          .next { t with av := { t.av with waiting := t.av.waiting ++ [(n, id)] } }) ∧
        (sendable t n = true → onLine t n = false → exec (.avSend id) s =
          .next (avSendNow t n (BitVec.ofNat 8 (bits (wd d 2) 15 8)) (some id))))) ∧
    (∀ u : State, u = { s with av := { s.av with sending := s.av.sending.filter fun x => x.1 != line } } →
      (s.av.waiting.find? (fun w => w.1 == line) = none → exec (.avFrameSent line) s = .next u) ∧
      (∀ (k : OpId) (x : Op), s.av.waiting.find? (fun w => w.1 == line) = some (line, k) → op? s k = some x →
        x.live = true → exec (.avFrameSent line) s = .next (avSendNow
          { u with av := { u.av with waiting := s.av.waiting.filter fun w => w.2 != k } } line
          (BitVec.ofNat 8 (bits (wd x.cur 2) 15 8)) (some k)))) ∧
    (∀ f : BitVec 40,
      (s.av.st ≠ .trained ∨ s.av.ver ≠ 2 ∨ bits f 3 0 ≠ 5 → exec (.avFrameReceive line f) s = .next s) ∧
      (s.av.st = .trained → s.av.ver = 2 → bits f 3 0 = 5 →
        (frameCrc f ≠ BitVec.ofNat 8 (bits f 39 32) → exec (.avFrameReceive line f) s = .next (postEq
          { s with av := { s.av with crcErr := true } } none (mkEq s 0x0008 line.val 0 0))) ∧
        (∀ e, frameCrc f = BitVec.ofNat 8 (bits f 39 32) → e = extendEffect (avTime s) (bits f 31 12) →
          (avTime s + 64 ≤ e → exec (.avFrameReceive line f) s = .next { s with
            av := { s.av with
              events := s.av.events ++ [⟨line, BitVec.ofNat 8 (bits f 11 4), (e % 2 ^ 48).toNat, none⟩] } }) ∧
          (e < avTime s + 64 → exec (.avFrameReceive line f) s = .next (postEq { s with
            av := { s.av with
              late := true,
              events := s.av.events ++ [⟨line, BitVec.ofNat 8 (bits f 11 4), ((avTime s + 64) % 2 ^ 48).toNat, none⟩] } }
            none (mkEq s 0x0009 line.val 0 0)))))) ∧
    (s.av.st = .trained → s.av.ver = 1 → ∀ l : Int × State, l = openDiv s ((avLatPs s - s.av.dly) * 2) 625 →
      exec (.avPulseReceive line) s = .next { l.2 with
        av := { l.2.av with
          events := l.2.av.events ++ [⟨line, 0, ((avTime l.2 + l.1) % 2 ^ 48).toNat, none⟩] } }) ∧
    (s.av.st ≠ .trained ∨ s.av.ver ≠ 1 → exec (.avPulseReceive line) s = .next s) ∧
    (∀ (e : AvEv) (u : State), s.av.events.find? (fun x => x.line == line) = some e → s.av.st = .trained →
      u = (List.finRange 16).foldl (fun s p => releaseSync s p 1 line.val)
        (fire { s with av := { s.av with events := s.av.events.eraseP fun x => x.line == line } } (0x88 + line.val)
          e.payload.toNat) →
      exec (.avEffect line) s = .next (e.op.toList.foldl (fun s i => finishOp s i stOk
        [BitVec.ofNat 32 e.effect, BitVec.ofNat 32 (e.effect / 2 ^ 32)])
        (if line = u.av.startLine then startArmed u 2 else u))) ∧
    (s.av.st = .trained → s.av.master = false →
      exec .avLinkLost s = .next (postEq (avStop s .lost) none (mkEq s 0x000A 0 0 0))) ∧
    (s.av.st ≠ .trained ∨ s.av.master = true → exec .avLinkLost s = .next s) ∧
    (barsOn s = true → exec .avCfgEnClear s = .next (avOff s))

/-! ### Calibration and temperature -/

/-- CAL_RUN waits for the monitor ADC where it may run, else E_ARG; its procedure makes its entries from what it measured,
and is accepted as a whole, with its count one up, or rejected as a whole with the code of its first failing check;
CAL_LOAD takes an image that is well formed and within the limits, else ends with its status; CAL_READ returns the
current set. The model's choices: check 5 goes before the entries' checks, and result word 5 names the lowest entry that
fails (notes/assumptions/182.md); the readings, and so the entries, come with the command (notes/assumptions/227.md and
237.md); a CAL_RUN_DONE whose readings do not fit its set changes nothing (notes/assumptions/1.md). -/
def Obligations.CalibrationIsTakenWhole : Prop :=
  ∀ (s t : State) (id : OpId) (o : Op) (d : List Word) (k : CalKey), t = begun s id → d = o.cur →
    (Given s id 0x80 o →
      (calNamed d = none → exec (.calRun id) s = .next (finishOp t id eArg [])) ∧
      (calNamed d = some k →
        (calRunFields k d = true → calPrereq t k = true → calRefOk t k = true →
          exec (.calRun id) s = .next (queueMon t id)) ∧
        (calRunFields k d = false ∨ calPrereq t k = false ∨ calRefOk t k = false →
          exec (.calRun id) s = .next (finishOp t id eArg [])))) ∧
    (Running s id 0x80 o → ∀ (res : CalRes) (j : CalJob), s.cal.running.find? (fun r => r.op == id) = some j →
      k = j.key →
      (calEntries s k d res = none → exec (.calRunDone id res) s = .next s) ∧
      (∀ (es : List (Word × Word)) (cs : List Nat) (n first code : Nat), calEntries s k d res = some es →
        cs = entryChecks s k ((wd d 2).getLsbD 31 || (calSet s k).count == 0) es → n = (cs.filter (· != 0)).length →
        first = cs.findIdx (· != 0) →
        code = (if refBad s k d res then 5 else if cs.all (· == 0) then procCheck j res else cs.getD first 0) →
        (code = 0 → exec (.calRunDone id res) s = .next (leaveMon (finishOp
          (putSet s (newSet s k d es) es id) id stOk [BitVec.ofNat 32 (newSet s k d es).count, 0xFFFF, 0]) id)) ∧
        (code ≠ 0 → exec (.calRunDone id res) s = .next (leaveMon (finishOp { s with
            cal := { s.cal with
              rejected := true, check := BitVec.ofNat 3 code, kind := BitVec.ofNat 8 (calKind k),
              index := BitVec.ofNat 6 (calIndex k) } } id eCalReject
            [BitVec.ofNat 32 (calSet s k).count,
             BitVec.ofNat 32 (at_ 16 n + (if n = 0 then 0xFFFF else first)), BitVec.ofNat 32 code]) id)))) ∧
    (Given s id 0x81 o → ∀ (bs : List Byte) (es : List (Word × Word)) (cs : List Nat),
      bs = hostRead t (wd64 d 4) (min (wd d 6).toNat 16384) → es = (List.range (calNent k)).map (imgEntry bs) →
      cs = es.mapIdx (fun i e => absCheck k i e) →
      (imgKey bs (wd d 6).toNat = none → exec (.calLoad id) s = .next (finishOp t id eArg [0xFFFF])) ∧
      (imgKey bs (wd d 6).toNat = some k →
        (imgRsv k es = false → exec (.calLoad id) s = .next (finishOp t id eArg [0xFFFF])) ∧
        (∀ st, imgRsv k es = true → calClaim t o.ctx k = some st →
          exec (.calLoad id) s = .next (finishOp t id st [0xFFFF])) ∧
        (imgRsv k es = true → calClaim t o.ctx k = none →
          ((∃ r ∈ t.cal.running, r.key = k) → exec (.calLoad id) s = .next (finishOp t id eArg [0xFFFF])) ∧
          ((∀ r ∈ t.cal.running, r.key ≠ k) →
            ((∃ c ∈ cs, c ≠ 0) → exec (.calLoad id) s =
              .next (finishOp t id eCalReject [BitVec.ofNat 32 (cs.findIdx (· != 0))])) ∧
            ((∀ c ∈ cs, c = 0) →
              exec (.calLoad id) s = .next (endStaged (putSet t (imgSet t k bs es) es id) id)))))) ∧
    (Given s id 0x82 o →
      (calNamed d = some k →
        exec (.calRead id) s = .next (finishOp (hostWrite t (wd64 d 4) (setImage t k)) id stOk [])) ∧
      (calNamed d = none → exec (.calRead id) s = .next (finishOp t id eArg [])))

/-- A sample brings every die that is sampled its temperature, rate and band, and its Plazas their band, and then acts on
the levels reached; in reset it does nothing (notes/assumptions/1.md). TRIP and THROTTLE clear together where their
clear condition holds: that throttle stands while TRIP does is the model's choice (notes/assumptions/186.md). -/
def Obligations.TemperatureSamplesAct : Prop :=
  ∀ (s : State) (rs : List Int),
    (inReset s = false → ∀ on off : List (Fin 10),
      on = (List.finRange 10).filter (sampled s) → off = (List.finRange 10).filter (fun d => !sampled s d) →
      exec (.thermalSample rs) s = .next (on.foldl levelDie ((List.finRange 16).foldl (fun s p =>
        if on.contains (Fin.ofNat 10 (p.val / 2)) then bandMoved s p else s)
        (on.foldl (fun s d => sampleDie s rs d) (off.foldl unsampled s))))) ∧
    (inReset s = true → exec (.thermalSample rs) s = .next s) ∧
    (∀ (d : Fin 10) (D : Die), D = s.thm.dies[d] → D.trip = false ∨
      throttleClears (s.thm.lims[dieClass d]) (fewGood s d) D.hist = false →
      exec (.thermalTripClear d) s = .next s) ∧
    (∀ (d : Fin 10) (D : Die), D = s.thm.dies[d] → D.trip = true →
      throttleClears (s.thm.lims[dieClass d]) (fewGood s d) D.hist = true → ∃ t,
      exec (.thermalTripClear d) s = .next t ∧ t = { s with thm := { s.thm with dies := t.thm.dies } } ∧
      (t.thm.dies[d]).trip = false ∧ (t.thm.dies[d]).throttle = false ∧ (t.thm.dies[d]).temp = D.temp ∧
      ∀ e, e ≠ d → t.thm.dies[e] = s.thm.dies[e])

/-- A write of THM_LIM that keeps warn below throttle, throttle below trip and trip at or below its ceiling applies; any
other is ignored in whole and sets LIM_BAD (R384). The levels of the next sample read what is stored. -/
def Obligations.ThermalLimitsAreOrderedOrIgnored : Prop :=
  ∀ (s : State) (c : Fin 3) (w : Word) (l : ThmLim), barsOn s = true →
    l = { warn := BitVec.ofNat 8 (bits w 7 0), throttle := BitVec.ofNat 8 (bits w 15 8),
          trip := BitVec.ofNat 8 (bits w 23 16) } →
    (l.warn < l.throttle ∧ l.throttle < l.trip ∧ l.trip.toNat ≤ (if c = 2 then 130 else 110) →
      ∃ t, exec (.thmLimWrite c w) s = .next t ∧ t = { s with thm := { s.thm with lims := t.thm.lims } } ∧
        t.thm.lims[c] = l ∧ (∀ e, e ≠ c → t.thm.lims[e] = s.thm.lims[e]) ∧
        ∀ (d : Fin 10) (few : Bool) (h : List Int), dieClass d = c → tempReaches (h.headD 0) l.trip.toNat = true →
          (levels3 (t.thm.lims[dieClass d]) few h).2.2 = true) ∧
    (¬(l.warn < l.throttle ∧ l.throttle < l.trip ∧ l.trip.toNat ≤ (if c = 2 then 130 else 110)) →
      exec (.thmLimWrite c w) s = .next { s with thm := { s.thm with limBad := true } })

/-! ### Serial ports -/

/-- Port M takes a program that is right while it is ON, else E_ARG; the transaction ends with its results, and, standing
at a unit whose ready line stays away, ends there; both release its select, with PM_SCK low and PM_IO high-impedance;
PM_INFO answers; a read of the flash view is answered from a line held, waits for a line fill, or fails; the host's
other accesses of a BAR are answered. The model's choices: a PM_XFER_DONE whose units end at one that waits for its
ready line leaves the transaction standing there (notes/assumptions/188.md); what a cut transaction reports
(notes/assumptions/228.md); the accesses of a BAR that this row carries (notes/assumptions/131.md); off its occasion a
command changes nothing (notes/assumptions/1.md). -/
def Obligations.PortMTransfersAndServesTheView : Prop :=
  ∀ (s t : State) (id : OpId) (o : Op) (d : List Word), t = begun s id → d = o.cur →
    (Given s id 0x91 o → ∀ us, us = pmProg t d →
      (isOn t .portM = true → bits (wd d 3) 12 0 ≠ 0 → bits (wd d 3) 12 0 ≤ 4096 →
        (us.mapIdx fun i u => pmEntryOk t d i u).all (fun b => b) = true → (wd d 10).toNat = outWords us →
        (wd d 11).toNat = inWords us → exec (.pmXfer id) s =
          .next (pumpPm { t with pm := { t.pm with queue := enqueue t id t.pm.queue } })) ∧
      (isOn t .portM = false ∨ bits (wd d 3) 12 0 = 0 ∨ 4096 < bits (wd d 3) 12 0 ∨
        (us.mapIdx fun i u => pmEntryOk t d i u).all (fun b => b) = false ∨ (wd d 10).toNat ≠ outWords us ∨
        (wd d 11).toNat ≠ inWords us → exec (.pmXfer id) s = .next (finishOp t id eArg []))) ∧
    (Running s id 0x91 o → s.pm.xfer = some id → ∀ res : PmXferRes,
      (∀ r u, r = pmRun s.pm.prog 0 (if s.pm.doom.isSome then some res.units else none) res.words →
        u = pmRun s.pm.prog 0 (some res.units) res.words →
        (s.pm.doom ≠ none ∨ u.left = false ∨ u.miss = true ∨ (s.pm.prog[u.next]?).map (·.wait) ≠ some true →
          exec (.pmXferDone res) s =
            .next (closeXfer (takeXfer s o res r) o r (s.pm.doom.getD (if r.miss then stPartial else stOk)) r.last)) ∧
        (s.pm.doom = none → u.left = true → u.miss = false → (s.pm.prog[u.next]?).map (·.wait) = some true →
          ∃ v, v = takeXfer s o res u ∧ exec (.pmXferDone res) s =
            .next { v with pm := { v.pm with met := res, io := {} } })) ∧
      (∀ r, r = pmRun s.pm.prog 0 (some s.pm.met.units) s.pm.met.words →
        (s.pm.doom = none → r.left = true → r.miss = false → (s.pm.prog[r.next]?).map (·.wait) = some true →
          exec .pmXferWaitTimeout s = .next (closeXfer s o r eTimeout r.next)) ∧
        (s.pm.doom ≠ none ∨ r.left = false ∨ r.miss = true ∨ (s.pm.prog[r.next]?).map (·.wait) ≠ some true →
          exec .pmXferWaitTimeout s = .next s))) ∧
    ((endXfer s o).pm.xfer = none ∧ (endXfer s o).pm.selOn = false ∧ (endXfer s o).pm.sel = 0 ∧
      (endXfer s o).pm.sck = false ∧ (endXfer s o).pm.io = {}) ∧
    (s.pm.xfer = none → ∀ res : PmXferRes,
      exec (.pmXferDone res) s = .next s ∧ exec .pmXferWaitTimeout s = .next s) ∧
    (Given s id 0x92 o → exec (.pmInfo id) s = .next (finishOp (hostWrite t (wd64 d 4)
      (if t.pm.sfdpOk then sliceB t.pm.sfdp 0 512 else List.replicate 512 0)) id stOk
      [t.pm.densKib, BitVec.ofNat 32 t.pm.mode.toNat])) ∧
    (∀ (a : BitVec 28) (v : ViewAccess) (r : ViewRead),
      (v = .core ∧ r = { addr := a.toNat / 4 * 4, core := true }) ∨
        (barsOn s = true ∧ v = .host .bar4 ∧ ∃ off : BitVec 26, a = off.setWidth 28 ∧ 2 ^ 25 ≤ off.toNat / 4 * 4 ∧
          r = { addr := off.toNat / 4 * 4 - 2 ^ 25, core := false }) →
      (r.core = false → isOn s .portM = false ∨ s.pm.xblock = true →
        exec (.flashViewRead a v) s = .next (missView s)) ∧
      (r.core = true → s.pm.eng.st = .off → exec (.flashViewRead a v) s = .next (coreReadFails s)) ∧
      (isOn s .portM = true → s.pm.xblock = false →
        (pmBytes s ≤ r.addr → exec (.flashViewRead a v) s = .next (serveView s r)) ∧
        (r.addr < pmBytes s → s.pm.lines.contains (r.addr / 64) = true → exec (.flashViewRead a v) s = .next (serveView
          { s with pm := { s.pm with lines := touchLine s.pm.lines (r.addr / 64) } } r)) ∧
        (r.addr < pmBytes s → s.pm.lines.contains (r.addr / 64) = false → exec (.flashViewRead a v) s =
          .next (startFill { s with pm := { s.pm with reads := s.pm.reads ++ [r] } }))) ∧
      (r.core = true → s.pm.eng.st ≠ .off → isOn s .portM = false ∨ s.pm.xblock = true →
        exec (.flashViewRead a v) s = .next (startFill { s with pm := { s.pm with reads := s.pm.reads ++ [r] } }))) ∧
    (barsOn s = true → ∀ (off : BitVec 26) (w : BitVec 64) (x : BitVec 24) (i : BitVec 18) (len : Fin 4096),
      (off.toNat / 4 * 4 < 2 ^ 25 →
        (fillWord s (off.toNat / 4 * 4) = none → exec (.flashViewRead (off.setWidth 28) (.host .bar4)) s =
          .next { s with rdata := leBytes 4 (diagWord s (off.toNat / 4 * 4)) }) ∧
        (∀ n, fillWord s (off.toNat / 4 * 4) = some n →
          ∃ u, exec (.flashViewRead (off.setWidth 28) (.host .bar4)) s = .next u ∧
            (u.rdata = leBytes 4 n ∨ u.rdata = leBytes 4 (diagWord s (off.toNat / 4 * 4))))) ∧
      exec (.flashViewRead (x.setWidth 28) (.host .bar2)) s = .next { s with rdata := leBytes 4 (readBar2 x.toNat) } ∧
      exec (.flashViewRead (off.setWidth 28) (.host (.bar4Write w))) s = .next s ∧
      exec (.flashViewRead (i.setWidth 28) (.host (.bar0 len))) s = .next (readBar0 s i.toNat (len.val + 1))) ∧
    (∀ (l n : Nat) (ls : List Nat) (now : List ViewRead), s.pm.fill = some (l, n) →
      ls = touchLine (if n = 2 then touchLine s.pm.lines (l + 1) else s.pm.lines) l →
      now = s.pm.reads.filter (fun r => ls.contains (r.addr / 64) || pmBytes s ≤ r.addr) →
      exec .lineFillDone s = .next (pumpPm (now.foldl serveView (releaseSel { s with
        pm := { s.pm with fill := none, lines := ls, reads := s.pm.reads.filter fun r => !now.contains r } })))) ∧
    (∀ late : ViewRead → Bool, late = (fun r => !r.core && !(match s.pm.fill with
        | some (l, n) => l == r.addr / 64 || (n == 2 && l + 1 == r.addr / 64)
        | none => false)) →
      (∀ r, s.pm.reads.find? late = some r → exec .flashViewReadTimeout s =
        .next (missView { s with pm := { s.pm with reads := s.pm.reads.erase r } })) ∧
      (s.pm.reads.find? late = none → exec .flashViewReadTimeout s = .next s))

/-- Port S, while its domain is powered: a frame starts with the status byte, in chain mode the response word, loaded and
its first bit on PS_SDO, the low status bits cleared; it acts as it ends, with PS_SDO high-impedance again, and not
where it was abandoned, PS_SDO then holding the bit at which it stopped; a READ acts once its address is complete; a
whole frame of a command is its start and end; mail to the host raises one record, or is denied where the mailbox is
full. Unpowered, no frame acts. The model's choices: a row of port S outside a frame stands for a whole frame
(notes/assumptions/45.md), and PS_READ within one for its address complete; after how many edges a frame is abandoned,
and a bit passed through by then, are free, and command mode holds its bit too (notes/assumptions/235.md); a frame's
start inside a frame, and an end outside one, change nothing (notes/assumptions/1.md). -/
def Obligations.PortSFramesActAtTheirEnd : Prop :=
  ∀ s : State,
    (railGood s .vlich = true →
      (s.ps.inFrame = false → ∃ t, exec .psFrameStart s = .next t ∧ t = { s with ps := t.ps } ∧ t.ps.inFrame = true ∧
        t.ps.sOver = false ∧ t.ps.sShort = false ∧ t.ps.sTuTmo = false ∧ t.ps.sDenied = false ∧ t.ps.taken = none ∧
        t.ps.sdo = some (t.ps.resp.getLsbD (if s.glb.psChain then 63 else 7)) ∧
        t.ps.resp = BitVec.ofNat 64 (if s.glb.psChain then at_ 56 (psStatus s) + at_ 40 s.ps.lastAddr.toNat +
          at_ 32 (0xC0 + s.glb.chipid.toNat) + s.ps.lastData.toNat else psStatus s) ∧
        (∀ (a : BitVec 16) (w : Word),
          (s.glb.psChain = false →
            exec .psNop s = .next (psEnd t 8 0) ∧ exec .psWake s = .next (psEnd t 8 3) ∧
            exec (.psRead a) s = .next (psEnd t 64 (at_ 56 1 + at_ 40 a.toNat)) ∧
            exec (.psWrite a w) s = .next (psEnd t 56 (at_ 48 2 + at_ 32 a.toNat + w.toNat))) ∧
          (s.glb.psChain = true →
            exec .psNop s = .next (psEnd t 64 (at_ 32 0x5A)) ∧
            exec .psWake s = .next (psEnd t 64 (at_ 56 3 + at_ 32 0x5A)) ∧
            exec (.psRead a) s = .next (psEnd t 64 (at_ 56 1 + at_ 40 a.toNat + at_ 32 0x5A)) ∧
            exec (.psWrite a w) s = .next (psEnd t 64 (at_ 56 2 + at_ 40 a.toNat + at_ 32 0x5A + w.toNat))))) ∧
      (s.ps.inFrame = true →
        (∀ (n x : Nat) (u : State), u = { s with ps := { (if !s.glb.psChain &&
            (n < 8 || (s.ps.abandoned && s.ps.cut < 8)) then psUnsent s.ps
            else s.ps) with inFrame := false, abandoned := false, frames := s.ps.frames + 1, sdo := none } } →
          (s.ps.abandoned = true → exec (.psFrameEnd n x) s = .next { u with ps := { u.ps with
            shown := (psStream s n (x % 2 ^ n)).take (min n s.ps.cut) ++
              List.replicate (n - s.ps.cut) (s.ps.sdo.getD false) } }) ∧
          (∀ v, v = (if s.glb.psChain then psChainWord u n (BitVec.ofNat 64 (x % 2 ^ n))
              else psCommand u n (x % 2 ^ n)) →
            s.ps.abandoned = false → exec (.psFrameEnd n x) s =
              .next { v with ps := { v.ps with shown := psShown v n (x % 2 ^ n) } })) ∧
        (s.ps.abandoned = false → ∀ (f : BitVec 33 × State) (k : Nat), f = takeFree s 33 →
          k = (if s.ps.taken.isSome then 24 else 1) + bits f.1 31 0 →
          exec .psFrameAbandon s = .next { f.2 with
            ps := { f.2.ps with
              abandoned := true, cut := k, tuTmo := true, sTuTmo := true,
              sdo := some (if s.glb.psChain && 64 ≤ k then f.1.getLsbD 32 else (psStream s 0 0).getD k false) } }) ∧
        (∀ a : BitVec 16, (s.ps.abandoned = false → s.glb.psChain = false → s.ps.taken = none →
            ∃ v, v = psReadCmd s a ∧ exec (.psRead a) s = .next { v with ps := { v.ps with sdo := some false } }) ∧
          (s.ps.abandoned = true ∨ s.glb.psChain = true ∨ s.ps.taken ≠ none → exec (.psRead a) s = .next s)) ∧
        exec .psFrameStart s = .next s)) ∧
    (railGood s .vlich = false ∨ s.ps.inFrame = false → ∀ n x : Nat,
      exec (.psFrameEnd n x) s = .next s ∧ exec .psFrameAbandon s = .next s) ∧
    (railGood s .vlich = false → exec .psFrameStart s = .next s) ∧
    (∀ w : Word, psReady s = true →
      (s.ps.toHostFull = false → psWriteCmd s 0x3809 w = postEq { s with
        ps := { s.ps with toHost := w, toHostFull := true } } none (mkEq s 0x0012 0 w 0)) ∧
      (s.ps.toHostFull = true → psWriteCmd s 0x3809 w =
        { s with ps := { s.ps with denied := true, sDenied := true } })) ∧
    (∀ w : Word, barsOn s = true → exec (.psMbTomcWrite w) s =
      .next { s with ps := { s.ps with toMc := w, toMcFull := true } })

/-! ### Security, recovery and faults -/

/-- The attestation report, once no patch load is in progress, and the identity record go to host memory; FLOOR_COMMIT
raises the floors to those of the running manifest where the running versions reach them, else E_ARG; KEY_REVOKE
revokes a slot that is neither in use nor the last, else E_ARG, where its signature holds, else E_AUTH. That E_ARG
goes before E_AUTH is the model's choice (notes/assumptions/120.md). -/
def Obligations.FloorsRiseAndKeysAreRevoked : Prop :=
  ∀ (s t : State) (id : OpId) (o : Op) (d : List Word), t = begun s id → d = o.cur →
    (Given s id 0xB0 o → s.patch.st ≠ 1 → exec (.attest id) s = .next (finishOp
      (hostWrite (takeFree t 1).2 (wd64 d 10) (attestReport t d)) id stOk [])) ∧
    (s.patch.st = 1 → exec (.attest id) s = .next s) ∧
    (Given s id 0xB1 o → exec (.idRead id) s = .next (finishOp (hostWrite t (wd64 d 10) idRecord) id stOk [])) ∧
    (Given s id 0xB2 o → ∀ f p : Nat, f = numAt t.boot.runMan 0x18 1 → p = numAt t.boot.runMan 0x19 1 →
      (f ≤ bits t.glb.fwVer 31 24 → p ≤ bits t.patch.ver 31 24 → exec (.floorCommit id) s = .next (finishOp { t with
        boot := { t.boot with fwFloor := max t.boot.fwFloor f, patchFloor := max t.boot.patchFloor p } } id stOk [])) ∧
      (bits t.glb.fwVer 31 24 < f ∨ bits t.patch.ver 31 24 < p →
        exec (.floorCommit id) s = .next (finishOp t id eArg []))) ∧
    (Given s id 0xB3 o → ∀ (k : Fin 4) (ok : Bool), k = Fin.ofNat 4 (bits (wd d 2) 1 0) →
      ok = Config.mlDsaVerify (sliceB t.boot.runMan 0x100 1952) (revokeMessage k) (hostRead t (wd64 d 10) 3309) →
      (k.val = t.boot.keyslot.toNat ∨ lastSlot t k = true →
        exec (.keyRevoke id) s = .next (finishOp t id eArg [])) ∧
      (k.val ≠ t.boot.keyslot.toNat → lastSlot t k = false →
        (ok = false → exec (.keyRevoke id) s = .next (finishOp t id eAuth [])) ∧
        (ok = true → exec (.keyRevoke id) s = .next (finishOp { t with
          boot := { t.boot with revoked := t.boot.revoked.set k true } } id stOk []))))

/-- The firmware watchdog leads to a restart that is due and, within ten seconds of one or during one, to a self-reset; a
restart that is due is made; a fault report opens the storm window or joins it, as the new first cause where it ranks
before; the window's close posts one FAULT record, or holds it open for want of an entry; a pending record goes to its
EQ where it has room. The model's choices: CHIP_LEVEL_SELF_RESET acts at once in any state in which the chip runs
(notes/assumptions/123.md), records that wait for an EQ that is gone move to context 0 (notes/assumptions/125.md), off
its occasion a command changes nothing (notes/assumptions/1.md). -/
def Obligations.FaultsAreCollectedAndReported : Prop :=
  ∀ (s : State),
    (s.boot.stage = .running →
      (restartRecent s = false → ∃ u, u = report s 176 fcFwWdog ∧
        exec .fwWatchdogExpiry s = .next { u with boot := { u.boot with restartDue := some true } }) ∧
      (restartRecent s = true → exec .fwWatchdogExpiry s = .next (selfReset (report s 176 fcFwWdog) .watchdog)) ∧
      (∀ w : Bool, s.boot.restartDue = some w → exec (.firmwareRestart w) s = .next (restartNow s w))) ∧
    (s.boot.stage = .restarting →
      exec .fwWatchdogExpiry s = .next (selfReset (report s 176 fcFwWdog) .watchdog)) ∧
    (barsOn s = true → exec (.selfResetWrite 0xA5C3) s = .next (selfReset s .host) ∧
      ∀ w : Word, w ≠ 0xA5C3 → exec (.selfResetWrite w) s = .next s) ∧
    (∀ c : SelfCause, exec (.chipLevelSelfReset c) s = .next (selfReset s c)) ∧
    (awake s = true →
      exec .internalConsistencyFailure s = .next (selfReset (endAllInternal (report s 176 fcInternal)) .internal)) ∧
    (awake s = false → exec .internalConsistencyFailure s = .next s) ∧
    (∀ (src : BitVec 8) (r : Report), s.fag.inFlight.find? (fun r => r.src == src) = some r →
      (s.fag.window = none → exec (.faultReport src) s = .next (latchFirst { s with
        fag := { s.fag with
          inFlight := s.fag.inFlight.erase r,
          window := some { bitmap := 1#256 <<< r.src.toNat, events := 1, first := r, opened := s.now } } } r)) ∧
      (∀ w v : Window, s.fag.window = some w →
        v = { w with
          bitmap := w.bitmap ||| (1#256 <<< r.src.toNat), events := min (w.events + 1) (2 ^ 32 - 1) } →
        (ranks r w.first = false → exec (.faultReport src) s = .next { s with
          fag := { s.fag with inFlight := s.fag.inFlight.erase r, window := some v } }) ∧
        (ranks r w.first = true → exec (.faultReport src) s = .next (latchFirst { s with
          fag := { s.fag with inFlight := s.fag.inFlight.erase r, window := some { v with first := r } } } r)))) ∧
    (s.fag.window = none → exec .stormWindowClose s = .next s) ∧
    (∀ (w : Window) (c : Option CtxId) (l : Nat × State), s.fag.window = some w →
      c = sourceHolder s w.first.src.toNat → l = windowLen s w →
      (eqRoom (eqPendOf s (eqTarget s c)) true = true → ∃ u, u = postEq l.2 c (faultRec w l.1) ∧
        exec .stormWindowClose s = .next { u with fag := { u.fag with window := none, map := w.bitmap } }) ∧
      (eqRoom (eqPendOf s (eqTarget s c)) true = false → exec .stormWindowClose s = .next { s with
        fag := { s.fag with window := some { w with held := true, merged := true }, merged := true } })) ∧
    (∀ (c : CtxId) (r : Ring), eqOf s c = some r →
      (r.full = true → exec (.eqRecordWrite c) s = .next s) ∧
      (r.full = false →
        (∀ (x : EqRec) (rest : List EqRec), (eqPendOf s c).recs = x :: rest →
          exec (.eqRecordWrite c) s = .next (heldClose (eventGone (ringPut
            (putPend s { eqPendOf s c with recs := rest }) r.num (eqWords x) true) x))) ∧
        ((eqPendOf s c).recs = [] → (eqPendOf s c).lost ≠ 0 → ∀ u, u = putPend s { eqPendOf s c with lost := 0 } →
          exec (.eqRecordWrite c) s = .next (ringPut u r.num
            (eqWords (mkEq u 0x0014 0 (BitVec.ofNat 32 (eqPendOf s c).lost) 0)) true)))) ∧
    (∀ c : CtxId, eqOf s c = none → c ≠ 0 → exec (.eqRecordWrite c) s = .next (moveEq s c))

/-! ### Register map -/

/-- The LO word of a pair is read live and freezes the HI word for its reader, who then gets it once; a peak read answers
and restarts the peak; an aligned word written whole applies where a register lies, written in part it is discarded;
DIAG_VIEW and REG_DUMP serve context 0, else E_ARG. Where the BARs are not served, the host's read answers all ones and
its write does nothing; port S, not served, answers zeros and notes that it was denied (R405); a control core in reset
reads nothing. -/
def Obligations.RegistersAreReadAndWritten : Prop :=
  ∀ (s t : State) (id : OpId) (o : Op) (d : List Word), t = begun s id → d = o.cur →
    (∀ (r : Requester) (p : SnapPair), served s r = true →
      (∃ u, exec (.snapshotLoRead r p) s = .next u ∧ u.rdata = bvBytes 4 ((readReg s (pairOff p)).getD 0) ∧
        ∃ x, snapOf u r p = some x ∧ x.hi = (readReg s (pairOff p + 4)).getD 0 ∧
          ∃ v, exec (.snapshotHiRead r p) u = .next v ∧ v.rdata = bvBytes 4 x.hi ∧ snapOf v r p = none) ∧
      (snapOf s r p = none → exec (.snapshotHiRead r p) s =
        .next { s with rdata := bvBytes 4 ((readReg s (pairOff p + 4)).getD 0) })) ∧
    (∀ p : SnapPair,
      (served s .host = false →
        exec (.snapshotLoRead .host p) s = .next { s with rdata := [0xFF, 0xFF, 0xFF, 0xFF] } ∧
        exec (.snapshotHiRead .host p) s = .next { s with rdata := [0xFF, 0xFF, 0xFF, 0xFF] }) ∧
      (served s .portS = false → railGood s .vlich = true →
        exec (.snapshotLoRead .portS p) s =
          .next { s with rdata := [0, 0, 0, 0], ps := { s.ps with denied := true, sDenied := true } } ∧
        exec (.snapshotHiRead .portS p) s =
          .next { s with rdata := [0, 0, 0, 0], ps := { s.ps with denied := true, sDenied := true } }) ∧
      (served s .portS = false → railGood s .vlich = false →
        exec (.snapshotLoRead .portS p) s = .next s ∧ exec (.snapshotHiRead .portS p) s = .next s) ∧
      (served s .core = false →
        exec (.snapshotLoRead .core p) s = .next s ∧ exec (.snapshotHiRead .core p) s = .next s)) ∧
    (barsOn s = true → ∀ r : PeakReg, exec (.peakRead r) s =
      .next (restartPeak (answer (readWord s (peakOff r))) r)) ∧
    (barsOn s = true → ∀ (i : Nat) (off : BitVec 18) (b0 b1 b2 b3 : Byte), off.toNat = 4 * i →
      (readReg s (4 * i)).isSome = true → exec (.registerWrite off [b0, b1, b2, b3]) s =
        .next (writeReg s (4 * i) (b3 ++ b2 ++ b1 ++ b0))) ∧
    (barsOn s = true → ∀ (i : Nat) (off : BitVec 18) (b0 b1 b2 b3 : Byte), off.toNat = 4 * i →
      readReg s (4 * i) = none → exec (.registerWrite off [b0, b1, b2, b3]) s = .next (noteUnmapped s (4 * i))) ∧
    (barsOn s = false → ∀ (e : Eng) (m : Meet) (n : Fin 64) (l : BitVec 64) (w : Word) (k : Fin 4) (c : Fin 3)
        (b : Bool) (off : BitVec 18) (bs : List Byte) (r : PeakReg) (a : BitVec 28) (v : BarAccess),
      (∀ x ∈ [Instr.ctlEnable e m, .ctlDisable e m, .selfResetWrite w, .hifVerOfferWrite w, .adminEnSet b,
          .lanCfgWrite n w, .lanFireWrite l, .lanAckWrite l, .cmCtlArm none, .cmCtlDisarm none, .cmCtlFire none,
          .cmCtlHalt none, .avCfgEnClear, .psMbTomcWrite w, .pwrReqActive, .pwrReqStandby, .pwrReqDeepSleep,
          .reCommitWrite k, .thmLimWrite c w, .registerWrite off bs], exec x s = .next s) ∧
      exec (.peakRead r) s = .next { s with rdata := [0xFF, 0xFF, 0xFF, 0xFF] } ∧
      exec (.flashViewRead a (.host v)) s = .next (match v with
        | .bar4Write _ => s
        | .bar0 len => { s with rdata := List.replicate (len.val + 1) 0xFF }
        | _ => { s with rdata := [0xFF, 0xFF, 0xFF, 0xFF] })) ∧
    (barsOn s = true → ∀ (i : Nat) (off : BitVec 18) (b : Byte) (u : State), off.toNat = 4 * i →
      u = { s with glb := { s.glb with errPartial := true, errLast := BitVec.ofNat 16 i } } →
      (readReg u (4 * i)).isSome = true → exec (.registerWrite off [b]) s = .next u) ∧
    (Given s id 0xF0 o →
      (o.ctx = 0 → bits (wd d 2) 31 28 ≤ 5 → exec (.diagView id) s = .next (finishOp { t with
        glb := { t.glb with
          diagView := BitVec.ofNat 4 (bits (wd d 2) 31 28),
          diagPlaza := BitVec.ofNat 4 (bits (wd d 2) 3 0) } } id stOk [])) ∧
      (o.ctx ≠ 0 ∨ 5 < bits (wd d 2) 31 28 → exec (.diagView id) s = .next (finishOp t id eArg []))) ∧
    (Given s id 0xF1 o → ∀ n, n = bits (wd d 3) 16 0 →
      (o.ctx = 0 → n ≠ 0 → bits (wd d 2) 15 0 + n ≤ 49152 → exec (.regDump id) s = .next (finishOp
        (hostWrite (usedFree t) (wd64 d 4)
          (bytesOf ((List.range n).map fun i => dumpWord t (bits (wd d 2) 15 0 + i)))) id stOk [BitVec.ofNat 32 n])) ∧
      (o.ctx ≠ 0 ∨ n = 0 ∨ 49152 < bits (wd d 2) 15 0 + n →
        exec (.regDump id) s = .next (finishOp t id eArg [])))

/-! ### Every command and every step -/

/-- Every command completes in every state: none faults and none is refused; that one off its occasion changes nothing
instead is the model's choice (notes/assumptions/1.md). And none touches the queue: what waits behind it waits on. -/
def Obligations.ExecLeavesTheQueue : Prop :=
  ∀ (c : Instr) (s : State), ∃ t, exec c s = .next t ∧ t.pending = s.pending

/-- Whatever the block does, no fuse is unblown: neither version floor falls, and a revoked key slot stays revoked,
through every command, every reset and the loss of every supply. -/
def Obligations.EFusesOnlyRise : Prop :=
  ∀ s t : State, step s = .next t →
    s.boot.fwFloor ≤ t.boot.fwFloor ∧ s.boot.patchFloor ≤ t.boot.patchFloor ∧
    ∀ n : Fin 4, s.boot.revoked[n] = true → t.boot.revoked[n] = true

/-- Every step keeps host memory, the flash, the DRAM and the park store in their canonical forms. -/
def Obligations.MemoriesStayCanonical : Prop :=
  ∀ s t : State, step s = .next t → memoriesWf s = true → memoriesWf t = true
end

