-- ==== Sys2Proof/Laws/Mem.lean ====
section
/-! SUPPORT. Sparse memories: what a read sees after a write, and that every operation keeps the canonical
form. -/

namespace Sys2Proof.Machine

/-! ### Reads after writes -/

@[simp] theorem read_nil (d : Byte) (a : Nat) : Mem.read d [] a = d := rfl

/-- In a canonical memory an address below the first entry is unlisted. -/
theorem read_low (d : Byte) (m : Mem) (a : Nat) (h : Mem.wf d m = true)
    (lo : ∀ x b r, m = (x, b) :: r → a < x) : Mem.read d m a = d := by
  induction m with
  | nil => rfl
  | cons e r ih =>
    obtain ⟨x, b⟩ := e
    have hx := lo x b r rfl
    simp only [Mem.wf, Bool.and_eq_true] at h
    simp only [Mem.read, Nat.ne_of_lt hx, if_false]
    refine ih h.2 fun y b' r' e => ?_
    subst e
    simp only [decide_eq_true_eq] at h
    omega

/-- A read of the byte just written. -/
theorem read_write_same (d : Byte) (m : Mem) (a : Nat) (b : Byte) (h : Mem.wf d m = true) :
    Mem.read d (Mem.write d m a b) a = b := by
  induction m with
  | nil => by_cases hb : b = d <;> simp [Mem.write, Mem.read, hb]
  | cons e r ih =>
    obtain ⟨x, c⟩ := e
    have hr : Mem.wf d r = true := by simp only [Mem.wf, Bool.and_eq_true] at h; exact h.2
    simp only [Mem.write]
    split_ifs with h1 h2 h3 h4
    · rw [h2]; exact read_low d _ a h fun y _ _ e => by injection e with e _; injection e; omega
    · simp [Mem.read]
    · subst h3
      rw [h4]
      refine read_low d r a hr fun y c' r' e => ?_
      subst e
      simp only [Mem.wf, Bool.and_eq_true, decide_eq_true_eq] at h
      omega
    · simp [Mem.read]
    · simp [Mem.read, h3, ih hr]

/-- A read of any other byte. -/
theorem read_write_other (d : Byte) (m : Mem) (a x : Nat) (b : Byte) (h : Mem.wf d m = true) (hx : x ≠ a) :
    Mem.read d (Mem.write d m a b) x = Mem.read d m x := by
  induction m with
  | nil => by_cases hb : b = d <;> simp [Mem.write, Mem.read, hb, hx]
  | cons e r ih =>
    obtain ⟨y, c⟩ := e
    have hr : Mem.wf d r = true := by simp only [Mem.wf, Bool.and_eq_true] at h; exact h.2
    simp only [Mem.write]
    split_ifs with h1 h2 h3 h4
    · rfl
    · simp [Mem.read, hx]
    · subst h3; simp [Mem.read, hx]
    · subst h3; simp [Mem.read, hx]
    · by_cases hy : x = y
      · simp [Mem.read, hy]
      · simp [Mem.read, hy, ih hr]

/-! ### The canonical form -/

@[simp] theorem wf_nil (d : Byte) : Mem.wf d [] = true := rfl

/-- The first address of a written memory is the old first one or the written one. -/
theorem write_head (d : Byte) (m : Mem) (a : Nat) (b : Byte) (z : Nat) (hz : z < a)
    (lo : ∀ x c r, m = (x, c) :: r → z < x) (h : Mem.wf d m = true) :
    ∀ x c r, Mem.write d m a b = (x, c) :: r → z < x := by
  intro x c r e
  cases m with
  | nil =>
    simp only [Mem.write] at e
    split_ifs at e
    injection e with e _; injection e with e _; omega
  | cons p q =>
    obtain ⟨y, w⟩ := p
    have hy := lo y w q rfl
    simp only [Mem.write] at e
    split_ifs at e with h1 h2 h3 h4
    · injection e with e _; injection e with e _; omega
    · injection e with e _; injection e with e _; omega
    · subst e
      simp only [Mem.wf, Bool.and_eq_true, decide_eq_true_eq] at h
      omega
    · injection e with e _; injection e with e _; omega
    · injection e with e _; injection e with e _; omega

/-- A list is canonical when its tail is, its first byte is not the default and its addresses rise. -/
theorem wf_cons (d : Byte) (a : Nat) (b : Byte) (r : Mem) :
    Mem.wf d ((a, b) :: r) = true ↔
      b ≠ d ∧ (∀ x c q, r = (x, c) :: q → a < x) ∧ Mem.wf d r = true := by
  cases r with
  | nil => simp [Mem.wf]
  | cons p q =>
    obtain ⟨y, w⟩ := p
    simp only [Mem.wf, Bool.and_eq_true, decide_eq_true_eq, bne_iff_ne, ne_eq]
    constructor
    · rintro ⟨⟨h1, h2⟩, h3⟩
      exact ⟨h1, fun x c q' e => by injection e with e _; injection e with e _; omega, h3⟩
    · rintro ⟨h1, h2, h3⟩
      exact ⟨⟨h1, h2 y w q rfl⟩, h3⟩

/-- Writing one byte keeps the canonical form. -/
theorem write_wf (d : Byte) (m : Mem) (a : Nat) (b : Byte) (h : Mem.wf d m = true) :
    Mem.wf d (Mem.write d m a b) = true := by
  induction m with
  | nil => by_cases hb : b = d <;> simp [Mem.write, Mem.wf, hb]
  | cons e r ih =>
    obtain ⟨x, c⟩ := e
    have h' := (wf_cons d x c r).1 h
    simp only [Mem.write]
    split_ifs with h1 h2 h3 h4
    · exact h
    · exact (wf_cons d a b _).2
        ⟨h2, fun y _ _ e => by injection e with e _; injection e with e _; omega, h⟩
    · exact h'.2.2
    · exact (wf_cons d a b r).2 ⟨h4, by subst h3; exact h'.2.1, h'.2.2⟩
    · refine (wf_cons d x c _).2 ⟨h'.1, ?_, ih h'.2.2⟩
      exact write_head d r a b x (by omega) h'.2.1 h'.2.2

/-- Writing some bytes keeps the canonical form. -/
theorem writeBytes_wf (d : Byte) (bs : List Byte) (m : Mem) (a : Nat) (h : Mem.wf d m = true) :
    Mem.wf d (Mem.writeBytes d m a bs) = true := by
  induction bs generalizing m a with
  | nil => exact h
  | cons b r ih => exact ih _ _ (write_wf d m a b h)

/-- Writing host memory keeps the canonical form. -/
theorem hostWriteM_wf (bs : List Byte) (m : Mem) (a : Nat) (h : Mem.wf 0 m = true) :
    Mem.wf 0 (hostWriteM m a bs) = true := by
  induction bs generalizing m a with
  | nil => exact h
  | cons b r ih => exact ih _ _ (write_wf 0 m _ b h)

/-- Bytes outside a write read as before. -/
theorem read_writeBytes_other (d : Byte) (bs : List Byte) (m : Mem) (a x : Nat) (h : Mem.wf d m = true)
    (hx : x < a ∨ a + bs.length ≤ x) : Mem.read d (Mem.writeBytes d m a bs) x = Mem.read d m x := by
  induction bs generalizing m a with
  | nil => rfl
  | cons b r ih =>
    simp only [List.length_cons] at hx
    simp only [Mem.writeBytes]
    rw [ih _ _ (write_wf d m a b h) (by omega), read_write_other d m a x b h (by omega)]

/-- A byte inside a write reads as written. -/
theorem read_writeBytes_in (d : Byte) (bs : List Byte) (m : Mem) (a i : Nat) (h : Mem.wf d m = true)
    (hi : i < bs.length) : Mem.read d (Mem.writeBytes d m a bs) (a + i) = bs[i] := by
  induction bs generalizing m a i with
  | nil => simp at hi
  | cons b r ih =>
    have hw := write_wf d m a b h
    simp only [Mem.writeBytes]
    cases i with
    | zero =>
      show Mem.read d _ a = b
      rw [read_writeBytes_other d r _ (a + 1) a hw (by omega), read_write_same d m a b h]
    | succ j =>
      have e : a + (j + 1) = a + 1 + j := by omega
      rw [e, ih _ _ j hw (by simpa using hi)]
      rfl

/-- Bytes of host memory outside a write read as before. -/
theorem read_hostWriteM_other (bs : List Byte) (m : Mem) (a x : Nat) (h : Mem.wf 0 m = true)
    (hx : ∀ i, i < bs.length → x ≠ (a + i) % 2 ^ 64) :
    Mem.read 0 (hostWriteM m a bs) x = Mem.read 0 m x := by
  induction bs generalizing m a with
  | nil => rfl
  | cons b r ih =>
    simp only [hostWriteM]
    rw [ih _ _ (write_wf 0 m _ b h) (fun i hi => by
      have := hx (i + 1) (by simpa using hi)
      rwa [show a + 1 + i = a + (i + 1) by omega])]
    exact read_write_other 0 m _ x b h (by simpa using hx 0 (by simp))

end Sys2Proof.Machine
end

