-- ==== Sys2Proof/Laws/State.lean ====
section
/-! SUPPORT. What each field of State is after each of the shared updates: one lemma per field per update,
true by unfolding, so that no proof unfolds a record update. -/

namespace Sys2Proof.Machine

variable (s : State)

/-! ### Vectors -/

@[simp] theorem upd_same {α : Type} {n : Nat} (v : Vector α n) (i : Fin n) (f : α → α) :
    (upd v i f)[i.val] = f v[i.val] := by simp [upd]

theorem upd_other {α : Type} {n : Nat} (v : Vector α n) (i j : Fin n) (f : α → α) (h : j ≠ i) :
    (upd v i f)[j.val] = v[j.val] := by
  have h' : i.val ≠ j.val := fun e => h (Fin.ext e.symm)
  simp [upd, h']

theorem upd_get {α : Type} {n : Nat} (v : Vector α n) (i j : Fin n) (f : α → α) :
    (upd v i f)[j.val] = if j = i then f v[j.val] else v[j.val] := by
  by_cases h : j = i
  · subst h; simp
  · simp [h, upd_other v i j f h]

@[simp] theorem updAll_get {α β : Type} {n : Nat} (v : Vector α n) (f : Fin n → α → β) (i : Fin n) :
    (updAll v f)[i.val] = f i v[i.val] := by simp [updAll]

/-! ### modPlz -/

@[simp] theorem modPlz_pending (p : Fin 16) (f : Plaza → Plaza) :
    (modPlz s p f).pending = s.pending := rfl
@[simp] theorem modPlz_freeCount (p : Fin 16) (f : Plaza → Plaza) :
    (modPlz s p f).freeCount = s.freeCount := rfl
@[simp] theorem modPlz_now (p : Fin 16) (f : Plaza → Plaza) : (modPlz s p f).now = s.now := rfl
@[simp] theorem modPlz_hostMem (p : Fin 16) (f : Plaza → Plaza) :
    (modPlz s p f).hostMem = s.hostMem := rfl
@[simp] theorem modPlz_flash (p : Fin 16) (f : Plaza → Plaza) :
    (modPlz s p f).flash = s.flash := rfl
@[simp] theorem modPlz_rdata (p : Fin 16) (f : Plaza → Plaza) :
    (modPlz s p f).rdata = s.rdata := rfl
@[simp] theorem modPlz_glb (p : Fin 16) (f : Plaza → Plaza) : (modPlz s p f).glb = s.glb := rfl
@[simp] theorem modPlz_pwr (p : Fin 16) (f : Plaza → Plaza) : (modPlz s p f).pwr = s.pwr := rfl
@[simp] theorem modPlz_boot (p : Fin 16) (f : Plaza → Plaza) : (modPlz s p f).boot = s.boot := rfl
@[simp] theorem modPlz_patch (p : Fin 16) (f : Plaza → Plaza) :
    (modPlz s p f).patch = s.patch := rfl
@[simp] theorem modPlz_hif (p : Fin 16) (f : Plaza → Plaza) : (modPlz s p f).hif = s.hif := rfl
@[simp] theorem modPlz_ctxs (p : Fin 16) (f : Plaza → Plaza) : (modPlz s p f).ctxs = s.ctxs := rfl
@[simp] theorem modPlz_rings (p : Fin 16) (f : Plaza → Plaza) :
    (modPlz s p f).rings = s.rings := rfl
@[simp] theorem modPlz_ops (p : Fin 16) (f : Plaza → Plaza) : (modPlz s p f).ops = s.ops := rfl
@[simp] theorem modPlz_nextOp (p : Fin 16) (f : Plaza → Plaza) :
    (modPlz s p f).nextOp = s.nextOp := rfl
@[simp] theorem modPlz_nextSeq (p : Fin 16) (f : Plaza → Plaza) :
    (modPlz s p f).nextSeq = s.nextSeq := rfl
@[simp] theorem modPlz_own (p : Fin 16) (f : Plaza → Plaza) : (modPlz s p f).own = s.own := rfl
@[simp] theorem modPlz_msix (p : Fin 16) (f : Plaza → Plaza) : (modPlz s p f).msix = s.msix := rfl
@[simp] theorem modPlz_msixSent (p : Fin 16) (f : Plaza → Plaza) :
    (modPlz s p f).msixSent = s.msixSent := rfl
@[simp] theorem modPlz_eqPend (p : Fin 16) (f : Plaza → Plaza) :
    (modPlz s p f).eqPend = s.eqPend := rfl
@[simp] theorem modPlz_fag (p : Fin 16) (f : Plaza → Plaza) : (modPlz s p f).fag = s.fag := rfl
@[simp] theorem modPlz_park (p : Fin 16) (f : Plaza → Plaza) : (modPlz s p f).park = s.park := rfl
@[simp] theorem modPlz_tmo (p : Fin 16) (f : Plaza → Plaza) : (modPlz s p f).tmo = s.tmo := rfl
@[simp] theorem modPlz_plz (p : Fin 16) (f : Plaza → Plaza) :
    (modPlz s p f).plz = upd s.plz p f := rfl
@[simp] theorem modPlz_steps (p : Fin 16) (f : Plaza → Plaza) :
    (modPlz s p f).steps = s.steps := rfl
@[simp] theorem modPlz_mqPend (p : Fin 16) (f : Plaza → Plaza) :
    (modPlz s p f).mqPend = s.mqPend := rfl
@[simp] theorem modPlz_dram (p : Fin 16) (f : Plaza → Plaza) : (modPlz s p f).dram = s.dram := rfl
@[simp] theorem modPlz_dg (p : Fin 16) (f : Plaza → Plaza) : (modPlz s p f).dg = s.dg := rfl
@[simp] theorem modPlz_tmu (p : Fin 16) (f : Plaza → Plaza) : (modPlz s p f).tmu = s.tmu := rfl
@[simp] theorem modPlz_gate (p : Fin 16) (f : Plaza → Plaza) : (modPlz s p f).gate = s.gate := rfl
@[simp] theorem modPlz_awg (p : Fin 16) (f : Plaza → Plaza) : (modPlz s p f).awg = s.awg := rfl
@[simp] theorem modPlz_re (p : Fin 16) (f : Plaza → Plaza) : (modPlz s p f).re = s.re := rfl
@[simp] theorem modPlz_dps (p : Fin 16) (f : Plaza → Plaza) : (modPlz s p f).dps = s.dps := rfl
@[simp] theorem modPlz_lanes (p : Fin 16) (f : Plaza → Plaza) :
    (modPlz s p f).lanes = s.lanes := rfl
@[simp] theorem modPlz_lanLimit (p : Fin 16) (f : Plaza → Plaza) :
    (modPlz s p f).lanLimit = s.lanLimit := rfl
@[simp] theorem modPlz_fired (p : Fin 16) (f : Plaza → Plaza) :
    (modPlz s p f).fired = s.fired := rfl
@[simp] theorem modPlz_triggers (p : Fin 16) (f : Plaza → Plaza) :
    (modPlz s p f).triggers = s.triggers := rfl
@[simp] theorem modPlz_cm (p : Fin 16) (f : Plaza → Plaza) : (modPlz s p f).cm = s.cm := rfl
@[simp] theorem modPlz_av (p : Fin 16) (f : Plaza → Plaza) : (modPlz s p f).av = s.av := rfl
@[simp] theorem modPlz_cal (p : Fin 16) (f : Plaza → Plaza) : (modPlz s p f).cal = s.cal := rfl
@[simp] theorem modPlz_thm (p : Fin 16) (f : Plaza → Plaza) : (modPlz s p f).thm = s.thm := rfl
@[simp] theorem modPlz_pm (p : Fin 16) (f : Plaza → Plaza) : (modPlz s p f).pm = s.pm := rfl
@[simp] theorem modPlz_ps (p : Fin 16) (f : Plaza → Plaza) : (modPlz s p f).ps = s.ps := rfl
@[simp] theorem modPlz_nextZero (p : Fin 16) (f : Plaza → Plaza) :
    (modPlz s p f).nextZero = s.nextZero := rfl

/-! ### modDps -/

@[simp] theorem modDps_pending (n : Fin 32) (f : Dps → Dps) :
    (modDps s n f).pending = s.pending := rfl
@[simp] theorem modDps_freeCount (n : Fin 32) (f : Dps → Dps) :
    (modDps s n f).freeCount = s.freeCount := rfl
@[simp] theorem modDps_now (n : Fin 32) (f : Dps → Dps) : (modDps s n f).now = s.now := rfl
@[simp] theorem modDps_hostMem (n : Fin 32) (f : Dps → Dps) :
    (modDps s n f).hostMem = s.hostMem := rfl
@[simp] theorem modDps_flash (n : Fin 32) (f : Dps → Dps) : (modDps s n f).flash = s.flash := rfl
@[simp] theorem modDps_rdata (n : Fin 32) (f : Dps → Dps) : (modDps s n f).rdata = s.rdata := rfl
@[simp] theorem modDps_glb (n : Fin 32) (f : Dps → Dps) : (modDps s n f).glb = s.glb := rfl
@[simp] theorem modDps_pwr (n : Fin 32) (f : Dps → Dps) : (modDps s n f).pwr = s.pwr := rfl
@[simp] theorem modDps_boot (n : Fin 32) (f : Dps → Dps) : (modDps s n f).boot = s.boot := rfl
@[simp] theorem modDps_patch (n : Fin 32) (f : Dps → Dps) : (modDps s n f).patch = s.patch := rfl
@[simp] theorem modDps_hif (n : Fin 32) (f : Dps → Dps) : (modDps s n f).hif = s.hif := rfl
@[simp] theorem modDps_ctxs (n : Fin 32) (f : Dps → Dps) : (modDps s n f).ctxs = s.ctxs := rfl
@[simp] theorem modDps_rings (n : Fin 32) (f : Dps → Dps) : (modDps s n f).rings = s.rings := rfl
@[simp] theorem modDps_ops (n : Fin 32) (f : Dps → Dps) : (modDps s n f).ops = s.ops := rfl
@[simp] theorem modDps_nextOp (n : Fin 32) (f : Dps → Dps) : (modDps s n f).nextOp = s.nextOp := rfl
@[simp] theorem modDps_nextSeq (n : Fin 32) (f : Dps → Dps) :
    (modDps s n f).nextSeq = s.nextSeq := rfl
@[simp] theorem modDps_own (n : Fin 32) (f : Dps → Dps) : (modDps s n f).own = s.own := rfl
@[simp] theorem modDps_msix (n : Fin 32) (f : Dps → Dps) : (modDps s n f).msix = s.msix := rfl
@[simp] theorem modDps_msixSent (n : Fin 32) (f : Dps → Dps) :
    (modDps s n f).msixSent = s.msixSent := rfl
@[simp] theorem modDps_eqPend (n : Fin 32) (f : Dps → Dps) : (modDps s n f).eqPend = s.eqPend := rfl
@[simp] theorem modDps_fag (n : Fin 32) (f : Dps → Dps) : (modDps s n f).fag = s.fag := rfl
@[simp] theorem modDps_park (n : Fin 32) (f : Dps → Dps) : (modDps s n f).park = s.park := rfl
@[simp] theorem modDps_tmo (n : Fin 32) (f : Dps → Dps) : (modDps s n f).tmo = s.tmo := rfl
@[simp] theorem modDps_plz (n : Fin 32) (f : Dps → Dps) : (modDps s n f).plz = s.plz := rfl
@[simp] theorem modDps_steps (n : Fin 32) (f : Dps → Dps) : (modDps s n f).steps = s.steps := rfl
@[simp] theorem modDps_mqPend (n : Fin 32) (f : Dps → Dps) : (modDps s n f).mqPend = s.mqPend := rfl
@[simp] theorem modDps_dram (n : Fin 32) (f : Dps → Dps) : (modDps s n f).dram = s.dram := rfl
@[simp] theorem modDps_dg (n : Fin 32) (f : Dps → Dps) : (modDps s n f).dg = s.dg := rfl
@[simp] theorem modDps_tmu (n : Fin 32) (f : Dps → Dps) : (modDps s n f).tmu = s.tmu := rfl
@[simp] theorem modDps_gate (n : Fin 32) (f : Dps → Dps) : (modDps s n f).gate = s.gate := rfl
@[simp] theorem modDps_awg (n : Fin 32) (f : Dps → Dps) : (modDps s n f).awg = s.awg := rfl
@[simp] theorem modDps_re (n : Fin 32) (f : Dps → Dps) : (modDps s n f).re = s.re := rfl
@[simp] theorem modDps_dps (n : Fin 32) (f : Dps → Dps) :
    (modDps s n f).dps = upd s.dps n f := rfl
@[simp] theorem modDps_lanes (n : Fin 32) (f : Dps → Dps) : (modDps s n f).lanes = s.lanes := rfl
@[simp] theorem modDps_lanLimit (n : Fin 32) (f : Dps → Dps) :
    (modDps s n f).lanLimit = s.lanLimit := rfl
@[simp] theorem modDps_fired (n : Fin 32) (f : Dps → Dps) : (modDps s n f).fired = s.fired := rfl
@[simp] theorem modDps_triggers (n : Fin 32) (f : Dps → Dps) :
    (modDps s n f).triggers = s.triggers := rfl
@[simp] theorem modDps_cm (n : Fin 32) (f : Dps → Dps) : (modDps s n f).cm = s.cm := rfl
@[simp] theorem modDps_av (n : Fin 32) (f : Dps → Dps) : (modDps s n f).av = s.av := rfl
@[simp] theorem modDps_cal (n : Fin 32) (f : Dps → Dps) : (modDps s n f).cal = s.cal := rfl
@[simp] theorem modDps_thm (n : Fin 32) (f : Dps → Dps) : (modDps s n f).thm = s.thm := rfl
@[simp] theorem modDps_pm (n : Fin 32) (f : Dps → Dps) : (modDps s n f).pm = s.pm := rfl
@[simp] theorem modDps_ps (n : Fin 32) (f : Dps → Dps) : (modDps s n f).ps = s.ps := rfl
@[simp] theorem modDps_nextZero (n : Fin 32) (f : Dps → Dps) :
    (modDps s n f).nextZero = s.nextZero := rfl

/-! ### modAwg -/

@[simp] theorem modAwg_pending (a : Fin 16) (f : Awg → Awg) :
    (modAwg s a f).pending = s.pending := rfl
@[simp] theorem modAwg_freeCount (a : Fin 16) (f : Awg → Awg) :
    (modAwg s a f).freeCount = s.freeCount := rfl
@[simp] theorem modAwg_now (a : Fin 16) (f : Awg → Awg) : (modAwg s a f).now = s.now := rfl
@[simp] theorem modAwg_hostMem (a : Fin 16) (f : Awg → Awg) :
    (modAwg s a f).hostMem = s.hostMem := rfl
@[simp] theorem modAwg_flash (a : Fin 16) (f : Awg → Awg) : (modAwg s a f).flash = s.flash := rfl
@[simp] theorem modAwg_rdata (a : Fin 16) (f : Awg → Awg) : (modAwg s a f).rdata = s.rdata := rfl
@[simp] theorem modAwg_glb (a : Fin 16) (f : Awg → Awg) : (modAwg s a f).glb = s.glb := rfl
@[simp] theorem modAwg_pwr (a : Fin 16) (f : Awg → Awg) : (modAwg s a f).pwr = s.pwr := rfl
@[simp] theorem modAwg_boot (a : Fin 16) (f : Awg → Awg) : (modAwg s a f).boot = s.boot := rfl
@[simp] theorem modAwg_patch (a : Fin 16) (f : Awg → Awg) : (modAwg s a f).patch = s.patch := rfl
@[simp] theorem modAwg_hif (a : Fin 16) (f : Awg → Awg) : (modAwg s a f).hif = s.hif := rfl
@[simp] theorem modAwg_ctxs (a : Fin 16) (f : Awg → Awg) : (modAwg s a f).ctxs = s.ctxs := rfl
@[simp] theorem modAwg_rings (a : Fin 16) (f : Awg → Awg) : (modAwg s a f).rings = s.rings := rfl
@[simp] theorem modAwg_ops (a : Fin 16) (f : Awg → Awg) : (modAwg s a f).ops = s.ops := rfl
@[simp] theorem modAwg_nextOp (a : Fin 16) (f : Awg → Awg) : (modAwg s a f).nextOp = s.nextOp := rfl
@[simp] theorem modAwg_nextSeq (a : Fin 16) (f : Awg → Awg) :
    (modAwg s a f).nextSeq = s.nextSeq := rfl
@[simp] theorem modAwg_own (a : Fin 16) (f : Awg → Awg) : (modAwg s a f).own = s.own := rfl
@[simp] theorem modAwg_msix (a : Fin 16) (f : Awg → Awg) : (modAwg s a f).msix = s.msix := rfl
@[simp] theorem modAwg_msixSent (a : Fin 16) (f : Awg → Awg) :
    (modAwg s a f).msixSent = s.msixSent := rfl
@[simp] theorem modAwg_eqPend (a : Fin 16) (f : Awg → Awg) : (modAwg s a f).eqPend = s.eqPend := rfl
@[simp] theorem modAwg_fag (a : Fin 16) (f : Awg → Awg) : (modAwg s a f).fag = s.fag := rfl
@[simp] theorem modAwg_park (a : Fin 16) (f : Awg → Awg) : (modAwg s a f).park = s.park := rfl
@[simp] theorem modAwg_tmo (a : Fin 16) (f : Awg → Awg) : (modAwg s a f).tmo = s.tmo := rfl
@[simp] theorem modAwg_plz (a : Fin 16) (f : Awg → Awg) : (modAwg s a f).plz = s.plz := rfl
@[simp] theorem modAwg_steps (a : Fin 16) (f : Awg → Awg) : (modAwg s a f).steps = s.steps := rfl
@[simp] theorem modAwg_mqPend (a : Fin 16) (f : Awg → Awg) : (modAwg s a f).mqPend = s.mqPend := rfl
@[simp] theorem modAwg_dram (a : Fin 16) (f : Awg → Awg) : (modAwg s a f).dram = s.dram := rfl
@[simp] theorem modAwg_dg (a : Fin 16) (f : Awg → Awg) : (modAwg s a f).dg = s.dg := rfl
@[simp] theorem modAwg_tmu (a : Fin 16) (f : Awg → Awg) : (modAwg s a f).tmu = s.tmu := rfl
@[simp] theorem modAwg_gate (a : Fin 16) (f : Awg → Awg) : (modAwg s a f).gate = s.gate := rfl
@[simp] theorem modAwg_awg (a : Fin 16) (f : Awg → Awg) :
    (modAwg s a f).awg = upd s.awg a f := rfl
@[simp] theorem modAwg_re (a : Fin 16) (f : Awg → Awg) : (modAwg s a f).re = s.re := rfl
@[simp] theorem modAwg_dps (a : Fin 16) (f : Awg → Awg) : (modAwg s a f).dps = s.dps := rfl
@[simp] theorem modAwg_lanes (a : Fin 16) (f : Awg → Awg) : (modAwg s a f).lanes = s.lanes := rfl
@[simp] theorem modAwg_lanLimit (a : Fin 16) (f : Awg → Awg) :
    (modAwg s a f).lanLimit = s.lanLimit := rfl
@[simp] theorem modAwg_fired (a : Fin 16) (f : Awg → Awg) : (modAwg s a f).fired = s.fired := rfl
@[simp] theorem modAwg_triggers (a : Fin 16) (f : Awg → Awg) :
    (modAwg s a f).triggers = s.triggers := rfl
@[simp] theorem modAwg_cm (a : Fin 16) (f : Awg → Awg) : (modAwg s a f).cm = s.cm := rfl
@[simp] theorem modAwg_av (a : Fin 16) (f : Awg → Awg) : (modAwg s a f).av = s.av := rfl
@[simp] theorem modAwg_cal (a : Fin 16) (f : Awg → Awg) : (modAwg s a f).cal = s.cal := rfl
@[simp] theorem modAwg_thm (a : Fin 16) (f : Awg → Awg) : (modAwg s a f).thm = s.thm := rfl
@[simp] theorem modAwg_pm (a : Fin 16) (f : Awg → Awg) : (modAwg s a f).pm = s.pm := rfl
@[simp] theorem modAwg_ps (a : Fin 16) (f : Awg → Awg) : (modAwg s a f).ps = s.ps := rfl
@[simp] theorem modAwg_nextZero (a : Fin 16) (f : Awg → Awg) :
    (modAwg s a f).nextZero = s.nextZero := rfl

/-! ### modDg -/

@[simp] theorem modDg_pending (a : Fin 16) (f : Dg → Dg) : (modDg s a f).pending = s.pending := rfl
@[simp] theorem modDg_freeCount (a : Fin 16) (f : Dg → Dg) :
    (modDg s a f).freeCount = s.freeCount := rfl
@[simp] theorem modDg_now (a : Fin 16) (f : Dg → Dg) : (modDg s a f).now = s.now := rfl
@[simp] theorem modDg_hostMem (a : Fin 16) (f : Dg → Dg) : (modDg s a f).hostMem = s.hostMem := rfl
@[simp] theorem modDg_flash (a : Fin 16) (f : Dg → Dg) : (modDg s a f).flash = s.flash := rfl
@[simp] theorem modDg_rdata (a : Fin 16) (f : Dg → Dg) : (modDg s a f).rdata = s.rdata := rfl
@[simp] theorem modDg_glb (a : Fin 16) (f : Dg → Dg) : (modDg s a f).glb = s.glb := rfl
@[simp] theorem modDg_pwr (a : Fin 16) (f : Dg → Dg) : (modDg s a f).pwr = s.pwr := rfl
@[simp] theorem modDg_boot (a : Fin 16) (f : Dg → Dg) : (modDg s a f).boot = s.boot := rfl
@[simp] theorem modDg_patch (a : Fin 16) (f : Dg → Dg) : (modDg s a f).patch = s.patch := rfl
@[simp] theorem modDg_hif (a : Fin 16) (f : Dg → Dg) : (modDg s a f).hif = s.hif := rfl
@[simp] theorem modDg_ctxs (a : Fin 16) (f : Dg → Dg) : (modDg s a f).ctxs = s.ctxs := rfl
@[simp] theorem modDg_rings (a : Fin 16) (f : Dg → Dg) : (modDg s a f).rings = s.rings := rfl
@[simp] theorem modDg_ops (a : Fin 16) (f : Dg → Dg) : (modDg s a f).ops = s.ops := rfl
@[simp] theorem modDg_nextOp (a : Fin 16) (f : Dg → Dg) : (modDg s a f).nextOp = s.nextOp := rfl
@[simp] theorem modDg_nextSeq (a : Fin 16) (f : Dg → Dg) : (modDg s a f).nextSeq = s.nextSeq := rfl
@[simp] theorem modDg_own (a : Fin 16) (f : Dg → Dg) : (modDg s a f).own = s.own := rfl
@[simp] theorem modDg_msix (a : Fin 16) (f : Dg → Dg) : (modDg s a f).msix = s.msix := rfl
@[simp] theorem modDg_msixSent (a : Fin 16) (f : Dg → Dg) :
    (modDg s a f).msixSent = s.msixSent := rfl
@[simp] theorem modDg_eqPend (a : Fin 16) (f : Dg → Dg) : (modDg s a f).eqPend = s.eqPend := rfl
@[simp] theorem modDg_fag (a : Fin 16) (f : Dg → Dg) : (modDg s a f).fag = s.fag := rfl
@[simp] theorem modDg_park (a : Fin 16) (f : Dg → Dg) : (modDg s a f).park = s.park := rfl
@[simp] theorem modDg_tmo (a : Fin 16) (f : Dg → Dg) : (modDg s a f).tmo = s.tmo := rfl
@[simp] theorem modDg_plz (a : Fin 16) (f : Dg → Dg) : (modDg s a f).plz = s.plz := rfl
@[simp] theorem modDg_steps (a : Fin 16) (f : Dg → Dg) : (modDg s a f).steps = s.steps := rfl
@[simp] theorem modDg_mqPend (a : Fin 16) (f : Dg → Dg) : (modDg s a f).mqPend = s.mqPend := rfl
@[simp] theorem modDg_dram (a : Fin 16) (f : Dg → Dg) : (modDg s a f).dram = s.dram := rfl
@[simp] theorem modDg_dg (a : Fin 16) (f : Dg → Dg) :
    (modDg s a f).dg = upd s.dg a f := rfl
@[simp] theorem modDg_tmu (a : Fin 16) (f : Dg → Dg) : (modDg s a f).tmu = s.tmu := rfl
@[simp] theorem modDg_gate (a : Fin 16) (f : Dg → Dg) : (modDg s a f).gate = s.gate := rfl
@[simp] theorem modDg_awg (a : Fin 16) (f : Dg → Dg) : (modDg s a f).awg = s.awg := rfl
@[simp] theorem modDg_re (a : Fin 16) (f : Dg → Dg) : (modDg s a f).re = s.re := rfl
@[simp] theorem modDg_dps (a : Fin 16) (f : Dg → Dg) : (modDg s a f).dps = s.dps := rfl
@[simp] theorem modDg_lanes (a : Fin 16) (f : Dg → Dg) : (modDg s a f).lanes = s.lanes := rfl
@[simp] theorem modDg_lanLimit (a : Fin 16) (f : Dg → Dg) :
    (modDg s a f).lanLimit = s.lanLimit := rfl
@[simp] theorem modDg_fired (a : Fin 16) (f : Dg → Dg) : (modDg s a f).fired = s.fired := rfl
@[simp] theorem modDg_triggers (a : Fin 16) (f : Dg → Dg) :
    (modDg s a f).triggers = s.triggers := rfl
@[simp] theorem modDg_cm (a : Fin 16) (f : Dg → Dg) : (modDg s a f).cm = s.cm := rfl
@[simp] theorem modDg_av (a : Fin 16) (f : Dg → Dg) : (modDg s a f).av = s.av := rfl
@[simp] theorem modDg_cal (a : Fin 16) (f : Dg → Dg) : (modDg s a f).cal = s.cal := rfl
@[simp] theorem modDg_thm (a : Fin 16) (f : Dg → Dg) : (modDg s a f).thm = s.thm := rfl
@[simp] theorem modDg_pm (a : Fin 16) (f : Dg → Dg) : (modDg s a f).pm = s.pm := rfl
@[simp] theorem modDg_ps (a : Fin 16) (f : Dg → Dg) : (modDg s a f).ps = s.ps := rfl
@[simp] theorem modDg_nextZero (a : Fin 16) (f : Dg → Dg) :
    (modDg s a f).nextZero = s.nextZero := rfl

/-! ### modTmu -/

@[simp] theorem modTmu_pending (n : Fin 64) (f : Tmu → Tmu) :
    (modTmu s n f).pending = s.pending := rfl
@[simp] theorem modTmu_freeCount (n : Fin 64) (f : Tmu → Tmu) :
    (modTmu s n f).freeCount = s.freeCount := rfl
@[simp] theorem modTmu_now (n : Fin 64) (f : Tmu → Tmu) : (modTmu s n f).now = s.now := rfl
@[simp] theorem modTmu_hostMem (n : Fin 64) (f : Tmu → Tmu) :
    (modTmu s n f).hostMem = s.hostMem := rfl
@[simp] theorem modTmu_flash (n : Fin 64) (f : Tmu → Tmu) : (modTmu s n f).flash = s.flash := rfl
@[simp] theorem modTmu_rdata (n : Fin 64) (f : Tmu → Tmu) : (modTmu s n f).rdata = s.rdata := rfl
@[simp] theorem modTmu_glb (n : Fin 64) (f : Tmu → Tmu) : (modTmu s n f).glb = s.glb := rfl
@[simp] theorem modTmu_pwr (n : Fin 64) (f : Tmu → Tmu) : (modTmu s n f).pwr = s.pwr := rfl
@[simp] theorem modTmu_boot (n : Fin 64) (f : Tmu → Tmu) : (modTmu s n f).boot = s.boot := rfl
@[simp] theorem modTmu_patch (n : Fin 64) (f : Tmu → Tmu) : (modTmu s n f).patch = s.patch := rfl
@[simp] theorem modTmu_hif (n : Fin 64) (f : Tmu → Tmu) : (modTmu s n f).hif = s.hif := rfl
@[simp] theorem modTmu_ctxs (n : Fin 64) (f : Tmu → Tmu) : (modTmu s n f).ctxs = s.ctxs := rfl
@[simp] theorem modTmu_rings (n : Fin 64) (f : Tmu → Tmu) : (modTmu s n f).rings = s.rings := rfl
@[simp] theorem modTmu_ops (n : Fin 64) (f : Tmu → Tmu) : (modTmu s n f).ops = s.ops := rfl
@[simp] theorem modTmu_nextOp (n : Fin 64) (f : Tmu → Tmu) : (modTmu s n f).nextOp = s.nextOp := rfl
@[simp] theorem modTmu_nextSeq (n : Fin 64) (f : Tmu → Tmu) :
    (modTmu s n f).nextSeq = s.nextSeq := rfl
@[simp] theorem modTmu_own (n : Fin 64) (f : Tmu → Tmu) : (modTmu s n f).own = s.own := rfl
@[simp] theorem modTmu_msix (n : Fin 64) (f : Tmu → Tmu) : (modTmu s n f).msix = s.msix := rfl
@[simp] theorem modTmu_msixSent (n : Fin 64) (f : Tmu → Tmu) :
    (modTmu s n f).msixSent = s.msixSent := rfl
@[simp] theorem modTmu_eqPend (n : Fin 64) (f : Tmu → Tmu) : (modTmu s n f).eqPend = s.eqPend := rfl
@[simp] theorem modTmu_fag (n : Fin 64) (f : Tmu → Tmu) : (modTmu s n f).fag = s.fag := rfl
@[simp] theorem modTmu_park (n : Fin 64) (f : Tmu → Tmu) : (modTmu s n f).park = s.park := rfl
@[simp] theorem modTmu_tmo (n : Fin 64) (f : Tmu → Tmu) : (modTmu s n f).tmo = s.tmo := rfl
@[simp] theorem modTmu_plz (n : Fin 64) (f : Tmu → Tmu) : (modTmu s n f).plz = s.plz := rfl
@[simp] theorem modTmu_steps (n : Fin 64) (f : Tmu → Tmu) : (modTmu s n f).steps = s.steps := rfl
@[simp] theorem modTmu_mqPend (n : Fin 64) (f : Tmu → Tmu) : (modTmu s n f).mqPend = s.mqPend := rfl
@[simp] theorem modTmu_dram (n : Fin 64) (f : Tmu → Tmu) : (modTmu s n f).dram = s.dram := rfl
@[simp] theorem modTmu_dg (n : Fin 64) (f : Tmu → Tmu) : (modTmu s n f).dg = s.dg := rfl
@[simp] theorem modTmu_tmu (n : Fin 64) (f : Tmu → Tmu) :
    (modTmu s n f).tmu = upd s.tmu n f := rfl
@[simp] theorem modTmu_gate (n : Fin 64) (f : Tmu → Tmu) : (modTmu s n f).gate = s.gate := rfl
@[simp] theorem modTmu_awg (n : Fin 64) (f : Tmu → Tmu) : (modTmu s n f).awg = s.awg := rfl
@[simp] theorem modTmu_re (n : Fin 64) (f : Tmu → Tmu) : (modTmu s n f).re = s.re := rfl
@[simp] theorem modTmu_dps (n : Fin 64) (f : Tmu → Tmu) : (modTmu s n f).dps = s.dps := rfl
@[simp] theorem modTmu_lanes (n : Fin 64) (f : Tmu → Tmu) : (modTmu s n f).lanes = s.lanes := rfl
@[simp] theorem modTmu_lanLimit (n : Fin 64) (f : Tmu → Tmu) :
    (modTmu s n f).lanLimit = s.lanLimit := rfl
@[simp] theorem modTmu_fired (n : Fin 64) (f : Tmu → Tmu) : (modTmu s n f).fired = s.fired := rfl
@[simp] theorem modTmu_triggers (n : Fin 64) (f : Tmu → Tmu) :
    (modTmu s n f).triggers = s.triggers := rfl
@[simp] theorem modTmu_cm (n : Fin 64) (f : Tmu → Tmu) : (modTmu s n f).cm = s.cm := rfl
@[simp] theorem modTmu_av (n : Fin 64) (f : Tmu → Tmu) : (modTmu s n f).av = s.av := rfl
@[simp] theorem modTmu_cal (n : Fin 64) (f : Tmu → Tmu) : (modTmu s n f).cal = s.cal := rfl
@[simp] theorem modTmu_thm (n : Fin 64) (f : Tmu → Tmu) : (modTmu s n f).thm = s.thm := rfl
@[simp] theorem modTmu_pm (n : Fin 64) (f : Tmu → Tmu) : (modTmu s n f).pm = s.pm := rfl
@[simp] theorem modTmu_ps (n : Fin 64) (f : Tmu → Tmu) : (modTmu s n f).ps = s.ps := rfl
@[simp] theorem modTmu_nextZero (n : Fin 64) (f : Tmu → Tmu) :
    (modTmu s n f).nextZero = s.nextZero := rfl

/-! ### modRe -/

@[simp] theorem modRe_pending (k : Fin 4) (f : Re → Re) : (modRe s k f).pending = s.pending := rfl
@[simp] theorem modRe_freeCount (k : Fin 4) (f : Re → Re) :
    (modRe s k f).freeCount = s.freeCount := rfl
@[simp] theorem modRe_now (k : Fin 4) (f : Re → Re) : (modRe s k f).now = s.now := rfl
@[simp] theorem modRe_hostMem (k : Fin 4) (f : Re → Re) : (modRe s k f).hostMem = s.hostMem := rfl
@[simp] theorem modRe_flash (k : Fin 4) (f : Re → Re) : (modRe s k f).flash = s.flash := rfl
@[simp] theorem modRe_rdata (k : Fin 4) (f : Re → Re) : (modRe s k f).rdata = s.rdata := rfl
@[simp] theorem modRe_glb (k : Fin 4) (f : Re → Re) : (modRe s k f).glb = s.glb := rfl
@[simp] theorem modRe_pwr (k : Fin 4) (f : Re → Re) : (modRe s k f).pwr = s.pwr := rfl
@[simp] theorem modRe_boot (k : Fin 4) (f : Re → Re) : (modRe s k f).boot = s.boot := rfl
@[simp] theorem modRe_patch (k : Fin 4) (f : Re → Re) : (modRe s k f).patch = s.patch := rfl
@[simp] theorem modRe_hif (k : Fin 4) (f : Re → Re) : (modRe s k f).hif = s.hif := rfl
@[simp] theorem modRe_ctxs (k : Fin 4) (f : Re → Re) : (modRe s k f).ctxs = s.ctxs := rfl
@[simp] theorem modRe_rings (k : Fin 4) (f : Re → Re) : (modRe s k f).rings = s.rings := rfl
@[simp] theorem modRe_ops (k : Fin 4) (f : Re → Re) : (modRe s k f).ops = s.ops := rfl
@[simp] theorem modRe_nextOp (k : Fin 4) (f : Re → Re) : (modRe s k f).nextOp = s.nextOp := rfl
@[simp] theorem modRe_nextSeq (k : Fin 4) (f : Re → Re) : (modRe s k f).nextSeq = s.nextSeq := rfl
@[simp] theorem modRe_own (k : Fin 4) (f : Re → Re) : (modRe s k f).own = s.own := rfl
@[simp] theorem modRe_msix (k : Fin 4) (f : Re → Re) : (modRe s k f).msix = s.msix := rfl
@[simp] theorem modRe_msixSent (k : Fin 4) (f : Re → Re) :
    (modRe s k f).msixSent = s.msixSent := rfl
@[simp] theorem modRe_eqPend (k : Fin 4) (f : Re → Re) : (modRe s k f).eqPend = s.eqPend := rfl
@[simp] theorem modRe_fag (k : Fin 4) (f : Re → Re) : (modRe s k f).fag = s.fag := rfl
@[simp] theorem modRe_park (k : Fin 4) (f : Re → Re) : (modRe s k f).park = s.park := rfl
@[simp] theorem modRe_tmo (k : Fin 4) (f : Re → Re) : (modRe s k f).tmo = s.tmo := rfl
@[simp] theorem modRe_plz (k : Fin 4) (f : Re → Re) : (modRe s k f).plz = s.plz := rfl
@[simp] theorem modRe_steps (k : Fin 4) (f : Re → Re) : (modRe s k f).steps = s.steps := rfl
@[simp] theorem modRe_mqPend (k : Fin 4) (f : Re → Re) : (modRe s k f).mqPend = s.mqPend := rfl
@[simp] theorem modRe_dram (k : Fin 4) (f : Re → Re) : (modRe s k f).dram = s.dram := rfl
@[simp] theorem modRe_dg (k : Fin 4) (f : Re → Re) : (modRe s k f).dg = s.dg := rfl
@[simp] theorem modRe_tmu (k : Fin 4) (f : Re → Re) : (modRe s k f).tmu = s.tmu := rfl
@[simp] theorem modRe_gate (k : Fin 4) (f : Re → Re) : (modRe s k f).gate = s.gate := rfl
@[simp] theorem modRe_awg (k : Fin 4) (f : Re → Re) : (modRe s k f).awg = s.awg := rfl
@[simp] theorem modRe_re (k : Fin 4) (f : Re → Re) :
    (modRe s k f).re = upd s.re k f := rfl
@[simp] theorem modRe_dps (k : Fin 4) (f : Re → Re) : (modRe s k f).dps = s.dps := rfl
@[simp] theorem modRe_lanes (k : Fin 4) (f : Re → Re) : (modRe s k f).lanes = s.lanes := rfl
@[simp] theorem modRe_lanLimit (k : Fin 4) (f : Re → Re) :
    (modRe s k f).lanLimit = s.lanLimit := rfl
@[simp] theorem modRe_fired (k : Fin 4) (f : Re → Re) : (modRe s k f).fired = s.fired := rfl
@[simp] theorem modRe_triggers (k : Fin 4) (f : Re → Re) :
    (modRe s k f).triggers = s.triggers := rfl
@[simp] theorem modRe_cm (k : Fin 4) (f : Re → Re) : (modRe s k f).cm = s.cm := rfl
@[simp] theorem modRe_av (k : Fin 4) (f : Re → Re) : (modRe s k f).av = s.av := rfl
@[simp] theorem modRe_cal (k : Fin 4) (f : Re → Re) : (modRe s k f).cal = s.cal := rfl
@[simp] theorem modRe_thm (k : Fin 4) (f : Re → Re) : (modRe s k f).thm = s.thm := rfl
@[simp] theorem modRe_pm (k : Fin 4) (f : Re → Re) : (modRe s k f).pm = s.pm := rfl
@[simp] theorem modRe_ps (k : Fin 4) (f : Re → Re) : (modRe s k f).ps = s.ps := rfl
@[simp] theorem modRe_nextZero (k : Fin 4) (f : Re → Re) :
    (modRe s k f).nextZero = s.nextZero := rfl

/-! ### modLane -/

@[simp] theorem modLane_pending (n : Fin 64) (f : Lane → Lane) :
    (modLane s n f).pending = s.pending := rfl
@[simp] theorem modLane_freeCount (n : Fin 64) (f : Lane → Lane) :
    (modLane s n f).freeCount = s.freeCount := rfl
@[simp] theorem modLane_now (n : Fin 64) (f : Lane → Lane) : (modLane s n f).now = s.now := rfl
@[simp] theorem modLane_hostMem (n : Fin 64) (f : Lane → Lane) :
    (modLane s n f).hostMem = s.hostMem := rfl
@[simp] theorem modLane_flash (n : Fin 64) (f : Lane → Lane) :
    (modLane s n f).flash = s.flash := rfl
@[simp] theorem modLane_rdata (n : Fin 64) (f : Lane → Lane) :
    (modLane s n f).rdata = s.rdata := rfl
@[simp] theorem modLane_glb (n : Fin 64) (f : Lane → Lane) : (modLane s n f).glb = s.glb := rfl
@[simp] theorem modLane_pwr (n : Fin 64) (f : Lane → Lane) : (modLane s n f).pwr = s.pwr := rfl
@[simp] theorem modLane_boot (n : Fin 64) (f : Lane → Lane) : (modLane s n f).boot = s.boot := rfl
@[simp] theorem modLane_patch (n : Fin 64) (f : Lane → Lane) :
    (modLane s n f).patch = s.patch := rfl
@[simp] theorem modLane_hif (n : Fin 64) (f : Lane → Lane) : (modLane s n f).hif = s.hif := rfl
@[simp] theorem modLane_ctxs (n : Fin 64) (f : Lane → Lane) : (modLane s n f).ctxs = s.ctxs := rfl
@[simp] theorem modLane_rings (n : Fin 64) (f : Lane → Lane) :
    (modLane s n f).rings = s.rings := rfl
@[simp] theorem modLane_ops (n : Fin 64) (f : Lane → Lane) : (modLane s n f).ops = s.ops := rfl
@[simp] theorem modLane_nextOp (n : Fin 64) (f : Lane → Lane) :
    (modLane s n f).nextOp = s.nextOp := rfl
@[simp] theorem modLane_nextSeq (n : Fin 64) (f : Lane → Lane) :
    (modLane s n f).nextSeq = s.nextSeq := rfl
@[simp] theorem modLane_own (n : Fin 64) (f : Lane → Lane) : (modLane s n f).own = s.own := rfl
@[simp] theorem modLane_msix (n : Fin 64) (f : Lane → Lane) : (modLane s n f).msix = s.msix := rfl
@[simp] theorem modLane_msixSent (n : Fin 64) (f : Lane → Lane) :
    (modLane s n f).msixSent = s.msixSent := rfl
@[simp] theorem modLane_eqPend (n : Fin 64) (f : Lane → Lane) :
    (modLane s n f).eqPend = s.eqPend := rfl
@[simp] theorem modLane_fag (n : Fin 64) (f : Lane → Lane) : (modLane s n f).fag = s.fag := rfl
@[simp] theorem modLane_park (n : Fin 64) (f : Lane → Lane) : (modLane s n f).park = s.park := rfl
@[simp] theorem modLane_tmo (n : Fin 64) (f : Lane → Lane) : (modLane s n f).tmo = s.tmo := rfl
@[simp] theorem modLane_plz (n : Fin 64) (f : Lane → Lane) : (modLane s n f).plz = s.plz := rfl
@[simp] theorem modLane_steps (n : Fin 64) (f : Lane → Lane) :
    (modLane s n f).steps = s.steps := rfl
@[simp] theorem modLane_mqPend (n : Fin 64) (f : Lane → Lane) :
    (modLane s n f).mqPend = s.mqPend := rfl
@[simp] theorem modLane_dram (n : Fin 64) (f : Lane → Lane) : (modLane s n f).dram = s.dram := rfl
@[simp] theorem modLane_dg (n : Fin 64) (f : Lane → Lane) : (modLane s n f).dg = s.dg := rfl
@[simp] theorem modLane_tmu (n : Fin 64) (f : Lane → Lane) : (modLane s n f).tmu = s.tmu := rfl
@[simp] theorem modLane_gate (n : Fin 64) (f : Lane → Lane) : (modLane s n f).gate = s.gate := rfl
@[simp] theorem modLane_awg (n : Fin 64) (f : Lane → Lane) : (modLane s n f).awg = s.awg := rfl
@[simp] theorem modLane_re (n : Fin 64) (f : Lane → Lane) : (modLane s n f).re = s.re := rfl
@[simp] theorem modLane_dps (n : Fin 64) (f : Lane → Lane) : (modLane s n f).dps = s.dps := rfl
@[simp] theorem modLane_lanes (n : Fin 64) (f : Lane → Lane) :
    (modLane s n f).lanes = upd s.lanes n f := rfl
@[simp] theorem modLane_lanLimit (n : Fin 64) (f : Lane → Lane) :
    (modLane s n f).lanLimit = s.lanLimit := rfl
@[simp] theorem modLane_fired (n : Fin 64) (f : Lane → Lane) :
    (modLane s n f).fired = s.fired := rfl
@[simp] theorem modLane_triggers (n : Fin 64) (f : Lane → Lane) :
    (modLane s n f).triggers = s.triggers := rfl
@[simp] theorem modLane_cm (n : Fin 64) (f : Lane → Lane) : (modLane s n f).cm = s.cm := rfl
@[simp] theorem modLane_av (n : Fin 64) (f : Lane → Lane) : (modLane s n f).av = s.av := rfl
@[simp] theorem modLane_cal (n : Fin 64) (f : Lane → Lane) : (modLane s n f).cal = s.cal := rfl
@[simp] theorem modLane_thm (n : Fin 64) (f : Lane → Lane) : (modLane s n f).thm = s.thm := rfl
@[simp] theorem modLane_pm (n : Fin 64) (f : Lane → Lane) : (modLane s n f).pm = s.pm := rfl
@[simp] theorem modLane_ps (n : Fin 64) (f : Lane → Lane) : (modLane s n f).ps = s.ps := rfl
@[simp] theorem modLane_nextZero (n : Fin 64) (f : Lane → Lane) :
    (modLane s n f).nextZero = s.nextZero := rfl

/-! ### modOp -/

@[simp] theorem modOp_pending (id : OpId) (f : Op → Op) : (modOp s id f).pending = s.pending := rfl
@[simp] theorem modOp_freeCount (id : OpId) (f : Op → Op) :
    (modOp s id f).freeCount = s.freeCount := rfl
@[simp] theorem modOp_now (id : OpId) (f : Op → Op) : (modOp s id f).now = s.now := rfl
@[simp] theorem modOp_hostMem (id : OpId) (f : Op → Op) : (modOp s id f).hostMem = s.hostMem := rfl
@[simp] theorem modOp_flash (id : OpId) (f : Op → Op) : (modOp s id f).flash = s.flash := rfl
@[simp] theorem modOp_rdata (id : OpId) (f : Op → Op) : (modOp s id f).rdata = s.rdata := rfl
@[simp] theorem modOp_glb (id : OpId) (f : Op → Op) : (modOp s id f).glb = s.glb := rfl
@[simp] theorem modOp_pwr (id : OpId) (f : Op → Op) : (modOp s id f).pwr = s.pwr := rfl
@[simp] theorem modOp_boot (id : OpId) (f : Op → Op) : (modOp s id f).boot = s.boot := rfl
@[simp] theorem modOp_patch (id : OpId) (f : Op → Op) : (modOp s id f).patch = s.patch := rfl
@[simp] theorem modOp_hif (id : OpId) (f : Op → Op) : (modOp s id f).hif = s.hif := rfl
@[simp] theorem modOp_ctxs (id : OpId) (f : Op → Op) : (modOp s id f).ctxs = s.ctxs := rfl
@[simp] theorem modOp_rings (id : OpId) (f : Op → Op) : (modOp s id f).rings = s.rings := rfl
@[simp] theorem modOp_ops (id : OpId) (f : Op → Op) :
    (modOp s id f).ops = s.ops.map fun o => if o.id = id then f o else o := rfl
@[simp] theorem modOp_nextOp (id : OpId) (f : Op → Op) : (modOp s id f).nextOp = s.nextOp := rfl
@[simp] theorem modOp_nextSeq (id : OpId) (f : Op → Op) : (modOp s id f).nextSeq = s.nextSeq := rfl
@[simp] theorem modOp_own (id : OpId) (f : Op → Op) : (modOp s id f).own = s.own := rfl
@[simp] theorem modOp_msix (id : OpId) (f : Op → Op) : (modOp s id f).msix = s.msix := rfl
@[simp] theorem modOp_msixSent (id : OpId) (f : Op → Op) :
    (modOp s id f).msixSent = s.msixSent := rfl
@[simp] theorem modOp_eqPend (id : OpId) (f : Op → Op) : (modOp s id f).eqPend = s.eqPend := rfl
@[simp] theorem modOp_fag (id : OpId) (f : Op → Op) : (modOp s id f).fag = s.fag := rfl
@[simp] theorem modOp_park (id : OpId) (f : Op → Op) : (modOp s id f).park = s.park := rfl
@[simp] theorem modOp_tmo (id : OpId) (f : Op → Op) : (modOp s id f).tmo = s.tmo := rfl
@[simp] theorem modOp_plz (id : OpId) (f : Op → Op) : (modOp s id f).plz = s.plz := rfl
@[simp] theorem modOp_steps (id : OpId) (f : Op → Op) : (modOp s id f).steps = s.steps := rfl
@[simp] theorem modOp_mqPend (id : OpId) (f : Op → Op) : (modOp s id f).mqPend = s.mqPend := rfl
@[simp] theorem modOp_dram (id : OpId) (f : Op → Op) : (modOp s id f).dram = s.dram := rfl
@[simp] theorem modOp_dg (id : OpId) (f : Op → Op) : (modOp s id f).dg = s.dg := rfl
@[simp] theorem modOp_tmu (id : OpId) (f : Op → Op) : (modOp s id f).tmu = s.tmu := rfl
@[simp] theorem modOp_gate (id : OpId) (f : Op → Op) : (modOp s id f).gate = s.gate := rfl
@[simp] theorem modOp_awg (id : OpId) (f : Op → Op) : (modOp s id f).awg = s.awg := rfl
@[simp] theorem modOp_re (id : OpId) (f : Op → Op) : (modOp s id f).re = s.re := rfl
@[simp] theorem modOp_dps (id : OpId) (f : Op → Op) : (modOp s id f).dps = s.dps := rfl
@[simp] theorem modOp_lanes (id : OpId) (f : Op → Op) : (modOp s id f).lanes = s.lanes := rfl
@[simp] theorem modOp_lanLimit (id : OpId) (f : Op → Op) :
    (modOp s id f).lanLimit = s.lanLimit := rfl
@[simp] theorem modOp_fired (id : OpId) (f : Op → Op) : (modOp s id f).fired = s.fired := rfl
@[simp] theorem modOp_triggers (id : OpId) (f : Op → Op) :
    (modOp s id f).triggers = s.triggers := rfl
@[simp] theorem modOp_cm (id : OpId) (f : Op → Op) : (modOp s id f).cm = s.cm := rfl
@[simp] theorem modOp_av (id : OpId) (f : Op → Op) : (modOp s id f).av = s.av := rfl
@[simp] theorem modOp_cal (id : OpId) (f : Op → Op) : (modOp s id f).cal = s.cal := rfl
@[simp] theorem modOp_thm (id : OpId) (f : Op → Op) : (modOp s id f).thm = s.thm := rfl
@[simp] theorem modOp_pm (id : OpId) (f : Op → Op) : (modOp s id f).pm = s.pm := rfl
@[simp] theorem modOp_ps (id : OpId) (f : Op → Op) : (modOp s id f).ps = s.ps := rfl
@[simp] theorem modOp_nextZero (id : OpId) (f : Op → Op) :
    (modOp s id f).nextZero = s.nextZero := rfl

/-! ### modRing -/

@[simp] theorem modRing_pending (n : RingId) (f : Ring → Ring) :
    (modRing s n f).pending = s.pending := rfl
@[simp] theorem modRing_freeCount (n : RingId) (f : Ring → Ring) :
    (modRing s n f).freeCount = s.freeCount := rfl
@[simp] theorem modRing_now (n : RingId) (f : Ring → Ring) : (modRing s n f).now = s.now := rfl
@[simp] theorem modRing_hostMem (n : RingId) (f : Ring → Ring) :
    (modRing s n f).hostMem = s.hostMem := rfl
@[simp] theorem modRing_flash (n : RingId) (f : Ring → Ring) :
    (modRing s n f).flash = s.flash := rfl
@[simp] theorem modRing_rdata (n : RingId) (f : Ring → Ring) :
    (modRing s n f).rdata = s.rdata := rfl
@[simp] theorem modRing_glb (n : RingId) (f : Ring → Ring) : (modRing s n f).glb = s.glb := rfl
@[simp] theorem modRing_pwr (n : RingId) (f : Ring → Ring) : (modRing s n f).pwr = s.pwr := rfl
@[simp] theorem modRing_boot (n : RingId) (f : Ring → Ring) : (modRing s n f).boot = s.boot := rfl
@[simp] theorem modRing_patch (n : RingId) (f : Ring → Ring) :
    (modRing s n f).patch = s.patch := rfl
@[simp] theorem modRing_hif (n : RingId) (f : Ring → Ring) : (modRing s n f).hif = s.hif := rfl
@[simp] theorem modRing_ctxs (n : RingId) (f : Ring → Ring) : (modRing s n f).ctxs = s.ctxs := rfl
@[simp] theorem modRing_rings (n : RingId) (f : Ring → Ring) :
    (modRing s n f).rings = s.rings.map fun r => if r.num = n then f r else r := rfl
@[simp] theorem modRing_ops (n : RingId) (f : Ring → Ring) : (modRing s n f).ops = s.ops := rfl
@[simp] theorem modRing_nextOp (n : RingId) (f : Ring → Ring) :
    (modRing s n f).nextOp = s.nextOp := rfl
@[simp] theorem modRing_nextSeq (n : RingId) (f : Ring → Ring) :
    (modRing s n f).nextSeq = s.nextSeq := rfl
@[simp] theorem modRing_own (n : RingId) (f : Ring → Ring) : (modRing s n f).own = s.own := rfl
@[simp] theorem modRing_msix (n : RingId) (f : Ring → Ring) : (modRing s n f).msix = s.msix := rfl
@[simp] theorem modRing_msixSent (n : RingId) (f : Ring → Ring) :
    (modRing s n f).msixSent = s.msixSent := rfl
@[simp] theorem modRing_eqPend (n : RingId) (f : Ring → Ring) :
    (modRing s n f).eqPend = s.eqPend := rfl
@[simp] theorem modRing_fag (n : RingId) (f : Ring → Ring) : (modRing s n f).fag = s.fag := rfl
@[simp] theorem modRing_park (n : RingId) (f : Ring → Ring) : (modRing s n f).park = s.park := rfl
@[simp] theorem modRing_tmo (n : RingId) (f : Ring → Ring) : (modRing s n f).tmo = s.tmo := rfl
@[simp] theorem modRing_plz (n : RingId) (f : Ring → Ring) : (modRing s n f).plz = s.plz := rfl
@[simp] theorem modRing_steps (n : RingId) (f : Ring → Ring) :
    (modRing s n f).steps = s.steps := rfl
@[simp] theorem modRing_mqPend (n : RingId) (f : Ring → Ring) :
    (modRing s n f).mqPend = s.mqPend := rfl
@[simp] theorem modRing_dram (n : RingId) (f : Ring → Ring) : (modRing s n f).dram = s.dram := rfl
@[simp] theorem modRing_dg (n : RingId) (f : Ring → Ring) : (modRing s n f).dg = s.dg := rfl
@[simp] theorem modRing_tmu (n : RingId) (f : Ring → Ring) : (modRing s n f).tmu = s.tmu := rfl
@[simp] theorem modRing_gate (n : RingId) (f : Ring → Ring) : (modRing s n f).gate = s.gate := rfl
@[simp] theorem modRing_awg (n : RingId) (f : Ring → Ring) : (modRing s n f).awg = s.awg := rfl
@[simp] theorem modRing_re (n : RingId) (f : Ring → Ring) : (modRing s n f).re = s.re := rfl
@[simp] theorem modRing_dps (n : RingId) (f : Ring → Ring) : (modRing s n f).dps = s.dps := rfl
@[simp] theorem modRing_lanes (n : RingId) (f : Ring → Ring) :
    (modRing s n f).lanes = s.lanes := rfl
@[simp] theorem modRing_lanLimit (n : RingId) (f : Ring → Ring) :
    (modRing s n f).lanLimit = s.lanLimit := rfl
@[simp] theorem modRing_fired (n : RingId) (f : Ring → Ring) :
    (modRing s n f).fired = s.fired := rfl
@[simp] theorem modRing_triggers (n : RingId) (f : Ring → Ring) :
    (modRing s n f).triggers = s.triggers := rfl
@[simp] theorem modRing_cm (n : RingId) (f : Ring → Ring) : (modRing s n f).cm = s.cm := rfl
@[simp] theorem modRing_av (n : RingId) (f : Ring → Ring) : (modRing s n f).av = s.av := rfl
@[simp] theorem modRing_cal (n : RingId) (f : Ring → Ring) : (modRing s n f).cal = s.cal := rfl
@[simp] theorem modRing_thm (n : RingId) (f : Ring → Ring) : (modRing s n f).thm = s.thm := rfl
@[simp] theorem modRing_pm (n : RingId) (f : Ring → Ring) : (modRing s n f).pm = s.pm := rfl
@[simp] theorem modRing_ps (n : RingId) (f : Ring → Ring) : (modRing s n f).ps = s.ps := rfl
@[simp] theorem modRing_nextZero (n : RingId) (f : Ring → Ring) :
    (modRing s n f).nextZero = s.nextZero := rfl

/-! ### modCtx -/

@[simp] theorem modCtx_pending (c : CtxId) (f : Ctx → Ctx) :
    (modCtx s c f).pending = s.pending := rfl
@[simp] theorem modCtx_freeCount (c : CtxId) (f : Ctx → Ctx) :
    (modCtx s c f).freeCount = s.freeCount := rfl
@[simp] theorem modCtx_now (c : CtxId) (f : Ctx → Ctx) : (modCtx s c f).now = s.now := rfl
@[simp] theorem modCtx_hostMem (c : CtxId) (f : Ctx → Ctx) :
    (modCtx s c f).hostMem = s.hostMem := rfl
@[simp] theorem modCtx_flash (c : CtxId) (f : Ctx → Ctx) : (modCtx s c f).flash = s.flash := rfl
@[simp] theorem modCtx_rdata (c : CtxId) (f : Ctx → Ctx) : (modCtx s c f).rdata = s.rdata := rfl
@[simp] theorem modCtx_glb (c : CtxId) (f : Ctx → Ctx) : (modCtx s c f).glb = s.glb := rfl
@[simp] theorem modCtx_pwr (c : CtxId) (f : Ctx → Ctx) : (modCtx s c f).pwr = s.pwr := rfl
@[simp] theorem modCtx_boot (c : CtxId) (f : Ctx → Ctx) : (modCtx s c f).boot = s.boot := rfl
@[simp] theorem modCtx_patch (c : CtxId) (f : Ctx → Ctx) : (modCtx s c f).patch = s.patch := rfl
@[simp] theorem modCtx_hif (c : CtxId) (f : Ctx → Ctx) : (modCtx s c f).hif = s.hif := rfl
@[simp] theorem modCtx_ctxs (c : CtxId) (f : Ctx → Ctx) :
    (modCtx s c f).ctxs = s.ctxs.map fun x => if x.num = c then f x else x := rfl
@[simp] theorem modCtx_rings (c : CtxId) (f : Ctx → Ctx) : (modCtx s c f).rings = s.rings := rfl
@[simp] theorem modCtx_ops (c : CtxId) (f : Ctx → Ctx) : (modCtx s c f).ops = s.ops := rfl
@[simp] theorem modCtx_nextOp (c : CtxId) (f : Ctx → Ctx) : (modCtx s c f).nextOp = s.nextOp := rfl
@[simp] theorem modCtx_nextSeq (c : CtxId) (f : Ctx → Ctx) :
    (modCtx s c f).nextSeq = s.nextSeq := rfl
@[simp] theorem modCtx_own (c : CtxId) (f : Ctx → Ctx) : (modCtx s c f).own = s.own := rfl
@[simp] theorem modCtx_msix (c : CtxId) (f : Ctx → Ctx) : (modCtx s c f).msix = s.msix := rfl
@[simp] theorem modCtx_msixSent (c : CtxId) (f : Ctx → Ctx) :
    (modCtx s c f).msixSent = s.msixSent := rfl
@[simp] theorem modCtx_eqPend (c : CtxId) (f : Ctx → Ctx) : (modCtx s c f).eqPend = s.eqPend := rfl
@[simp] theorem modCtx_fag (c : CtxId) (f : Ctx → Ctx) : (modCtx s c f).fag = s.fag := rfl
@[simp] theorem modCtx_park (c : CtxId) (f : Ctx → Ctx) : (modCtx s c f).park = s.park := rfl
@[simp] theorem modCtx_tmo (c : CtxId) (f : Ctx → Ctx) : (modCtx s c f).tmo = s.tmo := rfl
@[simp] theorem modCtx_plz (c : CtxId) (f : Ctx → Ctx) : (modCtx s c f).plz = s.plz := rfl
@[simp] theorem modCtx_steps (c : CtxId) (f : Ctx → Ctx) : (modCtx s c f).steps = s.steps := rfl
@[simp] theorem modCtx_mqPend (c : CtxId) (f : Ctx → Ctx) : (modCtx s c f).mqPend = s.mqPend := rfl
@[simp] theorem modCtx_dram (c : CtxId) (f : Ctx → Ctx) : (modCtx s c f).dram = s.dram := rfl
@[simp] theorem modCtx_dg (c : CtxId) (f : Ctx → Ctx) : (modCtx s c f).dg = s.dg := rfl
@[simp] theorem modCtx_tmu (c : CtxId) (f : Ctx → Ctx) : (modCtx s c f).tmu = s.tmu := rfl
@[simp] theorem modCtx_gate (c : CtxId) (f : Ctx → Ctx) : (modCtx s c f).gate = s.gate := rfl
@[simp] theorem modCtx_awg (c : CtxId) (f : Ctx → Ctx) : (modCtx s c f).awg = s.awg := rfl
@[simp] theorem modCtx_re (c : CtxId) (f : Ctx → Ctx) : (modCtx s c f).re = s.re := rfl
@[simp] theorem modCtx_dps (c : CtxId) (f : Ctx → Ctx) : (modCtx s c f).dps = s.dps := rfl
@[simp] theorem modCtx_lanes (c : CtxId) (f : Ctx → Ctx) : (modCtx s c f).lanes = s.lanes := rfl
@[simp] theorem modCtx_lanLimit (c : CtxId) (f : Ctx → Ctx) :
    (modCtx s c f).lanLimit = s.lanLimit := rfl
@[simp] theorem modCtx_fired (c : CtxId) (f : Ctx → Ctx) : (modCtx s c f).fired = s.fired := rfl
@[simp] theorem modCtx_triggers (c : CtxId) (f : Ctx → Ctx) :
    (modCtx s c f).triggers = s.triggers := rfl
@[simp] theorem modCtx_cm (c : CtxId) (f : Ctx → Ctx) : (modCtx s c f).cm = s.cm := rfl
@[simp] theorem modCtx_av (c : CtxId) (f : Ctx → Ctx) : (modCtx s c f).av = s.av := rfl
@[simp] theorem modCtx_cal (c : CtxId) (f : Ctx → Ctx) : (modCtx s c f).cal = s.cal := rfl
@[simp] theorem modCtx_thm (c : CtxId) (f : Ctx → Ctx) : (modCtx s c f).thm = s.thm := rfl
@[simp] theorem modCtx_pm (c : CtxId) (f : Ctx → Ctx) : (modCtx s c f).pm = s.pm := rfl
@[simp] theorem modCtx_ps (c : CtxId) (f : Ctx → Ctx) : (modCtx s c f).ps = s.ps := rfl
@[simp] theorem modCtx_nextZero (c : CtxId) (f : Ctx → Ctx) :
    (modCtx s c f).nextZero = s.nextZero := rfl

/-! ### hostWrite -/

@[simp] theorem hostWrite_pending (a : Nat) (bs : List Byte) :
    (hostWrite s a bs).pending = s.pending := rfl
@[simp] theorem hostWrite_freeCount (a : Nat) (bs : List Byte) :
    (hostWrite s a bs).freeCount = s.freeCount := rfl
@[simp] theorem hostWrite_now (a : Nat) (bs : List Byte) : (hostWrite s a bs).now = s.now := rfl
@[simp] theorem hostWrite_hostMem (a : Nat) (bs : List Byte) :
    (hostWrite s a bs).hostMem = hostWriteM s.hostMem a bs := rfl
@[simp] theorem hostWrite_flash (a : Nat) (bs : List Byte) :
    (hostWrite s a bs).flash = s.flash := rfl
@[simp] theorem hostWrite_rdata (a : Nat) (bs : List Byte) :
    (hostWrite s a bs).rdata = s.rdata := rfl
@[simp] theorem hostWrite_glb (a : Nat) (bs : List Byte) : (hostWrite s a bs).glb = s.glb := rfl
@[simp] theorem hostWrite_pwr (a : Nat) (bs : List Byte) : (hostWrite s a bs).pwr = s.pwr := rfl
@[simp] theorem hostWrite_boot (a : Nat) (bs : List Byte) : (hostWrite s a bs).boot = s.boot := rfl
@[simp] theorem hostWrite_patch (a : Nat) (bs : List Byte) :
    (hostWrite s a bs).patch = s.patch := rfl
@[simp] theorem hostWrite_hif (a : Nat) (bs : List Byte) : (hostWrite s a bs).hif = s.hif := rfl
@[simp] theorem hostWrite_ctxs (a : Nat) (bs : List Byte) : (hostWrite s a bs).ctxs = s.ctxs := rfl
@[simp] theorem hostWrite_rings (a : Nat) (bs : List Byte) :
    (hostWrite s a bs).rings = s.rings := rfl
@[simp] theorem hostWrite_ops (a : Nat) (bs : List Byte) : (hostWrite s a bs).ops = s.ops := rfl
@[simp] theorem hostWrite_nextOp (a : Nat) (bs : List Byte) :
    (hostWrite s a bs).nextOp = s.nextOp := rfl
@[simp] theorem hostWrite_nextSeq (a : Nat) (bs : List Byte) :
    (hostWrite s a bs).nextSeq = s.nextSeq := rfl
@[simp] theorem hostWrite_own (a : Nat) (bs : List Byte) : (hostWrite s a bs).own = s.own := rfl
@[simp] theorem hostWrite_msix (a : Nat) (bs : List Byte) : (hostWrite s a bs).msix = s.msix := rfl
@[simp] theorem hostWrite_msixSent (a : Nat) (bs : List Byte) :
    (hostWrite s a bs).msixSent = s.msixSent := rfl
@[simp] theorem hostWrite_eqPend (a : Nat) (bs : List Byte) :
    (hostWrite s a bs).eqPend = s.eqPend := rfl
@[simp] theorem hostWrite_fag (a : Nat) (bs : List Byte) : (hostWrite s a bs).fag = s.fag := rfl
@[simp] theorem hostWrite_park (a : Nat) (bs : List Byte) : (hostWrite s a bs).park = s.park := rfl
@[simp] theorem hostWrite_tmo (a : Nat) (bs : List Byte) : (hostWrite s a bs).tmo = s.tmo := rfl
@[simp] theorem hostWrite_plz (a : Nat) (bs : List Byte) : (hostWrite s a bs).plz = s.plz := rfl
@[simp] theorem hostWrite_steps (a : Nat) (bs : List Byte) :
    (hostWrite s a bs).steps = s.steps := rfl
@[simp] theorem hostWrite_mqPend (a : Nat) (bs : List Byte) :
    (hostWrite s a bs).mqPend = s.mqPend := rfl
@[simp] theorem hostWrite_dram (a : Nat) (bs : List Byte) : (hostWrite s a bs).dram = s.dram := rfl
@[simp] theorem hostWrite_dg (a : Nat) (bs : List Byte) : (hostWrite s a bs).dg = s.dg := rfl
@[simp] theorem hostWrite_tmu (a : Nat) (bs : List Byte) : (hostWrite s a bs).tmu = s.tmu := rfl
@[simp] theorem hostWrite_gate (a : Nat) (bs : List Byte) : (hostWrite s a bs).gate = s.gate := rfl
@[simp] theorem hostWrite_awg (a : Nat) (bs : List Byte) : (hostWrite s a bs).awg = s.awg := rfl
@[simp] theorem hostWrite_re (a : Nat) (bs : List Byte) : (hostWrite s a bs).re = s.re := rfl
@[simp] theorem hostWrite_dps (a : Nat) (bs : List Byte) : (hostWrite s a bs).dps = s.dps := rfl
@[simp] theorem hostWrite_lanes (a : Nat) (bs : List Byte) :
    (hostWrite s a bs).lanes = s.lanes := rfl
@[simp] theorem hostWrite_lanLimit (a : Nat) (bs : List Byte) :
    (hostWrite s a bs).lanLimit = s.lanLimit := rfl
@[simp] theorem hostWrite_fired (a : Nat) (bs : List Byte) :
    (hostWrite s a bs).fired = s.fired := rfl
@[simp] theorem hostWrite_triggers (a : Nat) (bs : List Byte) :
    (hostWrite s a bs).triggers = s.triggers := rfl
@[simp] theorem hostWrite_cm (a : Nat) (bs : List Byte) : (hostWrite s a bs).cm = s.cm := rfl
@[simp] theorem hostWrite_av (a : Nat) (bs : List Byte) : (hostWrite s a bs).av = s.av := rfl
@[simp] theorem hostWrite_cal (a : Nat) (bs : List Byte) : (hostWrite s a bs).cal = s.cal := rfl
@[simp] theorem hostWrite_thm (a : Nat) (bs : List Byte) : (hostWrite s a bs).thm = s.thm := rfl
@[simp] theorem hostWrite_pm (a : Nat) (bs : List Byte) : (hostWrite s a bs).pm = s.pm := rfl
@[simp] theorem hostWrite_ps (a : Nat) (bs : List Byte) : (hostWrite s a bs).ps = s.ps := rfl
@[simp] theorem hostWrite_nextZero (a : Nat) (bs : List Byte) :
    (hostWrite s a bs).nextZero = s.nextZero := rfl

/-! ### dramWrite -/

@[simp] theorem dramWrite_pending (a : Nat) (bs : List Byte) :
    (dramWrite s a bs).pending = s.pending := rfl
@[simp] theorem dramWrite_freeCount (a : Nat) (bs : List Byte) :
    (dramWrite s a bs).freeCount = s.freeCount := rfl
@[simp] theorem dramWrite_now (a : Nat) (bs : List Byte) : (dramWrite s a bs).now = s.now := rfl
@[simp] theorem dramWrite_hostMem (a : Nat) (bs : List Byte) :
    (dramWrite s a bs).hostMem = s.hostMem := rfl
@[simp] theorem dramWrite_flash (a : Nat) (bs : List Byte) :
    (dramWrite s a bs).flash = s.flash := rfl
@[simp] theorem dramWrite_rdata (a : Nat) (bs : List Byte) :
    (dramWrite s a bs).rdata = s.rdata := rfl
@[simp] theorem dramWrite_glb (a : Nat) (bs : List Byte) : (dramWrite s a bs).glb = s.glb := rfl
@[simp] theorem dramWrite_pwr (a : Nat) (bs : List Byte) : (dramWrite s a bs).pwr = s.pwr := rfl
@[simp] theorem dramWrite_boot (a : Nat) (bs : List Byte) : (dramWrite s a bs).boot = s.boot := rfl
@[simp] theorem dramWrite_patch (a : Nat) (bs : List Byte) :
    (dramWrite s a bs).patch = s.patch := rfl
@[simp] theorem dramWrite_hif (a : Nat) (bs : List Byte) : (dramWrite s a bs).hif = s.hif := rfl
@[simp] theorem dramWrite_ctxs (a : Nat) (bs : List Byte) : (dramWrite s a bs).ctxs = s.ctxs := rfl
@[simp] theorem dramWrite_rings (a : Nat) (bs : List Byte) :
    (dramWrite s a bs).rings = s.rings := rfl
@[simp] theorem dramWrite_ops (a : Nat) (bs : List Byte) : (dramWrite s a bs).ops = s.ops := rfl
@[simp] theorem dramWrite_nextOp (a : Nat) (bs : List Byte) :
    (dramWrite s a bs).nextOp = s.nextOp := rfl
@[simp] theorem dramWrite_nextSeq (a : Nat) (bs : List Byte) :
    (dramWrite s a bs).nextSeq = s.nextSeq := rfl
@[simp] theorem dramWrite_own (a : Nat) (bs : List Byte) : (dramWrite s a bs).own = s.own := rfl
@[simp] theorem dramWrite_msix (a : Nat) (bs : List Byte) : (dramWrite s a bs).msix = s.msix := rfl
@[simp] theorem dramWrite_msixSent (a : Nat) (bs : List Byte) :
    (dramWrite s a bs).msixSent = s.msixSent := rfl
@[simp] theorem dramWrite_eqPend (a : Nat) (bs : List Byte) :
    (dramWrite s a bs).eqPend = s.eqPend := rfl
@[simp] theorem dramWrite_fag (a : Nat) (bs : List Byte) : (dramWrite s a bs).fag = s.fag := rfl
@[simp] theorem dramWrite_park (a : Nat) (bs : List Byte) : (dramWrite s a bs).park = s.park := rfl
@[simp] theorem dramWrite_tmo (a : Nat) (bs : List Byte) : (dramWrite s a bs).tmo = s.tmo := rfl
@[simp] theorem dramWrite_plz (a : Nat) (bs : List Byte) : (dramWrite s a bs).plz = s.plz := rfl
@[simp] theorem dramWrite_steps (a : Nat) (bs : List Byte) :
    (dramWrite s a bs).steps = s.steps := rfl
@[simp] theorem dramWrite_mqPend (a : Nat) (bs : List Byte) :
    (dramWrite s a bs).mqPend = s.mqPend := rfl
@[simp] theorem dramWrite_dram (a : Nat) (bs : List Byte) :
    (dramWrite s a bs).dram = { s.dram with mem := Mem.writeBytes 0 s.dram.mem a bs } := rfl
@[simp] theorem dramWrite_dg (a : Nat) (bs : List Byte) : (dramWrite s a bs).dg = s.dg := rfl
@[simp] theorem dramWrite_tmu (a : Nat) (bs : List Byte) : (dramWrite s a bs).tmu = s.tmu := rfl
@[simp] theorem dramWrite_gate (a : Nat) (bs : List Byte) : (dramWrite s a bs).gate = s.gate := rfl
@[simp] theorem dramWrite_awg (a : Nat) (bs : List Byte) : (dramWrite s a bs).awg = s.awg := rfl
@[simp] theorem dramWrite_re (a : Nat) (bs : List Byte) : (dramWrite s a bs).re = s.re := rfl
@[simp] theorem dramWrite_dps (a : Nat) (bs : List Byte) : (dramWrite s a bs).dps = s.dps := rfl
@[simp] theorem dramWrite_lanes (a : Nat) (bs : List Byte) :
    (dramWrite s a bs).lanes = s.lanes := rfl
@[simp] theorem dramWrite_lanLimit (a : Nat) (bs : List Byte) :
    (dramWrite s a bs).lanLimit = s.lanLimit := rfl
@[simp] theorem dramWrite_fired (a : Nat) (bs : List Byte) :
    (dramWrite s a bs).fired = s.fired := rfl
@[simp] theorem dramWrite_triggers (a : Nat) (bs : List Byte) :
    (dramWrite s a bs).triggers = s.triggers := rfl
@[simp] theorem dramWrite_cm (a : Nat) (bs : List Byte) : (dramWrite s a bs).cm = s.cm := rfl
@[simp] theorem dramWrite_av (a : Nat) (bs : List Byte) : (dramWrite s a bs).av = s.av := rfl
@[simp] theorem dramWrite_cal (a : Nat) (bs : List Byte) : (dramWrite s a bs).cal = s.cal := rfl
@[simp] theorem dramWrite_thm (a : Nat) (bs : List Byte) : (dramWrite s a bs).thm = s.thm := rfl
@[simp] theorem dramWrite_pm (a : Nat) (bs : List Byte) : (dramWrite s a bs).pm = s.pm := rfl
@[simp] theorem dramWrite_ps (a : Nat) (bs : List Byte) : (dramWrite s a bs).ps = s.ps := rfl
@[simp] theorem dramWrite_nextZero (a : Nat) (bs : List Byte) :
    (dramWrite s a bs).nextZero = s.nextZero := rfl

/-! ### report -/

@[simp] theorem report_pending (n : Nat) (c : BitVec 8) : (report s n c).pending = s.pending := rfl
@[simp] theorem report_freeCount (n : Nat) (c : BitVec 8) :
    (report s n c).freeCount = s.freeCount := rfl
@[simp] theorem report_now (n : Nat) (c : BitVec 8) : (report s n c).now = s.now := rfl
@[simp] theorem report_hostMem (n : Nat) (c : BitVec 8) : (report s n c).hostMem = s.hostMem := rfl
@[simp] theorem report_flash (n : Nat) (c : BitVec 8) : (report s n c).flash = s.flash := rfl
@[simp] theorem report_rdata (n : Nat) (c : BitVec 8) : (report s n c).rdata = s.rdata := rfl
@[simp] theorem report_glb (n : Nat) (c : BitVec 8) : (report s n c).glb = s.glb := rfl
@[simp] theorem report_pwr (n : Nat) (c : BitVec 8) : (report s n c).pwr = s.pwr := rfl
@[simp] theorem report_boot (n : Nat) (c : BitVec 8) : (report s n c).boot = s.boot := rfl
@[simp] theorem report_patch (n : Nat) (c : BitVec 8) : (report s n c).patch = s.patch := rfl
@[simp] theorem report_hif (n : Nat) (c : BitVec 8) : (report s n c).hif = s.hif := rfl
@[simp] theorem report_ctxs (n : Nat) (c : BitVec 8) : (report s n c).ctxs = s.ctxs := rfl
@[simp] theorem report_rings (n : Nat) (c : BitVec 8) : (report s n c).rings = s.rings := rfl
@[simp] theorem report_ops (n : Nat) (c : BitVec 8) : (report s n c).ops = s.ops := rfl
@[simp] theorem report_nextOp (n : Nat) (c : BitVec 8) : (report s n c).nextOp = s.nextOp := rfl
@[simp] theorem report_nextSeq (n : Nat) (c : BitVec 8) : (report s n c).nextSeq = s.nextSeq := rfl
@[simp] theorem report_own (n : Nat) (c : BitVec 8) : (report s n c).own = s.own := rfl
@[simp] theorem report_msix (n : Nat) (c : BitVec 8) : (report s n c).msix = s.msix := rfl
@[simp] theorem report_msixSent (n : Nat) (c : BitVec 8) :
    (report s n c).msixSent = s.msixSent := rfl
@[simp] theorem report_eqPend (n : Nat) (c : BitVec 8) : (report s n c).eqPend = s.eqPend := rfl
@[simp] theorem report_park (n : Nat) (c : BitVec 8) : (report s n c).park = s.park := rfl
@[simp] theorem report_tmo (n : Nat) (c : BitVec 8) : (report s n c).tmo = s.tmo := rfl
@[simp] theorem report_plz (n : Nat) (c : BitVec 8) : (report s n c).plz = s.plz := rfl
@[simp] theorem report_steps (n : Nat) (c : BitVec 8) : (report s n c).steps = s.steps := rfl
@[simp] theorem report_mqPend (n : Nat) (c : BitVec 8) : (report s n c).mqPend = s.mqPend := rfl
@[simp] theorem report_dram (n : Nat) (c : BitVec 8) : (report s n c).dram = s.dram := rfl
@[simp] theorem report_dg (n : Nat) (c : BitVec 8) : (report s n c).dg = s.dg := rfl
@[simp] theorem report_tmu (n : Nat) (c : BitVec 8) : (report s n c).tmu = s.tmu := rfl
@[simp] theorem report_gate (n : Nat) (c : BitVec 8) : (report s n c).gate = s.gate := rfl
@[simp] theorem report_awg (n : Nat) (c : BitVec 8) : (report s n c).awg = s.awg := rfl
@[simp] theorem report_re (n : Nat) (c : BitVec 8) : (report s n c).re = s.re := rfl
@[simp] theorem report_dps (n : Nat) (c : BitVec 8) : (report s n c).dps = s.dps := rfl
@[simp] theorem report_lanes (n : Nat) (c : BitVec 8) : (report s n c).lanes = s.lanes := rfl
@[simp] theorem report_lanLimit (n : Nat) (c : BitVec 8) :
    (report s n c).lanLimit = s.lanLimit := rfl
@[simp] theorem report_fired (n : Nat) (c : BitVec 8) : (report s n c).fired = s.fired := rfl
@[simp] theorem report_triggers (n : Nat) (c : BitVec 8) :
    (report s n c).triggers = s.triggers := rfl
@[simp] theorem report_cm (n : Nat) (c : BitVec 8) : (report s n c).cm = s.cm := rfl
@[simp] theorem report_av (n : Nat) (c : BitVec 8) : (report s n c).av = s.av := rfl
@[simp] theorem report_cal (n : Nat) (c : BitVec 8) : (report s n c).cal = s.cal := rfl
@[simp] theorem report_thm (n : Nat) (c : BitVec 8) : (report s n c).thm = s.thm := rfl
@[simp] theorem report_pm (n : Nat) (c : BitVec 8) : (report s n c).pm = s.pm := rfl
@[simp] theorem report_ps (n : Nat) (c : BitVec 8) : (report s n c).ps = s.ps := rfl
@[simp] theorem report_nextZero (n : Nat) (c : BitVec 8) :
    (report s n c).nextZero = s.nextZero := rfl

/-! ### fire -/

@[simp] theorem fire_pending (n x : Nat) : (fire s n x).pending = s.pending := rfl
@[simp] theorem fire_freeCount (n x : Nat) : (fire s n x).freeCount = s.freeCount := rfl
@[simp] theorem fire_now (n x : Nat) : (fire s n x).now = s.now := rfl
@[simp] theorem fire_hostMem (n x : Nat) : (fire s n x).hostMem = s.hostMem := rfl
@[simp] theorem fire_flash (n x : Nat) : (fire s n x).flash = s.flash := rfl
@[simp] theorem fire_rdata (n x : Nat) : (fire s n x).rdata = s.rdata := rfl
@[simp] theorem fire_glb (n x : Nat) : (fire s n x).glb = s.glb := rfl
@[simp] theorem fire_pwr (n x : Nat) : (fire s n x).pwr = s.pwr := rfl
@[simp] theorem fire_boot (n x : Nat) : (fire s n x).boot = s.boot := rfl
@[simp] theorem fire_patch (n x : Nat) : (fire s n x).patch = s.patch := rfl
@[simp] theorem fire_hif (n x : Nat) : (fire s n x).hif = s.hif := rfl
@[simp] theorem fire_ctxs (n x : Nat) : (fire s n x).ctxs = s.ctxs := rfl
@[simp] theorem fire_rings (n x : Nat) : (fire s n x).rings = s.rings := rfl
@[simp] theorem fire_ops (n x : Nat) : (fire s n x).ops = s.ops := rfl
@[simp] theorem fire_nextOp (n x : Nat) : (fire s n x).nextOp = s.nextOp := rfl
@[simp] theorem fire_nextSeq (n x : Nat) : (fire s n x).nextSeq = s.nextSeq := rfl
@[simp] theorem fire_own (n x : Nat) : (fire s n x).own = s.own := rfl
@[simp] theorem fire_msix (n x : Nat) : (fire s n x).msix = s.msix := rfl
@[simp] theorem fire_msixSent (n x : Nat) : (fire s n x).msixSent = s.msixSent := rfl
@[simp] theorem fire_eqPend (n x : Nat) : (fire s n x).eqPend = s.eqPend := rfl
@[simp] theorem fire_fag (n x : Nat) : (fire s n x).fag = s.fag := rfl
@[simp] theorem fire_park (n x : Nat) : (fire s n x).park = s.park := rfl
@[simp] theorem fire_tmo (n x : Nat) : (fire s n x).tmo = s.tmo := rfl
@[simp] theorem fire_plz (n x : Nat) : (fire s n x).plz = s.plz := rfl
@[simp] theorem fire_steps (n x : Nat) : (fire s n x).steps = s.steps := rfl
@[simp] theorem fire_mqPend (n x : Nat) : (fire s n x).mqPend = s.mqPend := rfl
@[simp] theorem fire_dram (n x : Nat) : (fire s n x).dram = s.dram := rfl
@[simp] theorem fire_dg (n x : Nat) : (fire s n x).dg = s.dg := rfl
@[simp] theorem fire_tmu (n x : Nat) : (fire s n x).tmu = s.tmu := rfl
@[simp] theorem fire_gate (n x : Nat) : (fire s n x).gate = s.gate := rfl
@[simp] theorem fire_awg (n x : Nat) : (fire s n x).awg = s.awg := rfl
@[simp] theorem fire_re (n x : Nat) : (fire s n x).re = s.re := rfl
@[simp] theorem fire_dps (n x : Nat) : (fire s n x).dps = s.dps := rfl
@[simp] theorem fire_lanes (n x : Nat) : (fire s n x).lanes = s.lanes := rfl
@[simp] theorem fire_lanLimit (n x : Nat) : (fire s n x).lanLimit = s.lanLimit := rfl
@[simp] theorem fire_fired (n x : Nat) :
    (fire s n x).fired = s.fired ++ [(BitVec.ofNat 8 n, BitVec.ofNat 8 x)] := rfl
@[simp] theorem fire_triggers (n x : Nat) : (fire s n x).triggers = s.triggers := rfl
@[simp] theorem fire_cm (n x : Nat) : (fire s n x).cm = s.cm := rfl
@[simp] theorem fire_av (n x : Nat) : (fire s n x).av = s.av := rfl
@[simp] theorem fire_cal (n x : Nat) : (fire s n x).cal = s.cal := rfl
@[simp] theorem fire_thm (n x : Nat) : (fire s n x).thm = s.thm := rfl
@[simp] theorem fire_pm (n x : Nat) : (fire s n x).pm = s.pm := rfl
@[simp] theorem fire_ps (n x : Nat) : (fire s n x).ps = s.ps := rfl
@[simp] theorem fire_nextZero (n x : Nat) : (fire s n x).nextZero = s.nextZero := rfl

/-! ### setHolder -/

@[simp] theorem setHolder_pending (r : Res) (c : Option CtxId) :
    (setHolder s r c).pending = s.pending := rfl
@[simp] theorem setHolder_freeCount (r : Res) (c : Option CtxId) :
    (setHolder s r c).freeCount = s.freeCount := rfl
@[simp] theorem setHolder_now (r : Res) (c : Option CtxId) : (setHolder s r c).now = s.now := rfl
@[simp] theorem setHolder_hostMem (r : Res) (c : Option CtxId) :
    (setHolder s r c).hostMem = s.hostMem := rfl
@[simp] theorem setHolder_flash (r : Res) (c : Option CtxId) :
    (setHolder s r c).flash = s.flash := rfl
@[simp] theorem setHolder_rdata (r : Res) (c : Option CtxId) :
    (setHolder s r c).rdata = s.rdata := rfl
@[simp] theorem setHolder_glb (r : Res) (c : Option CtxId) : (setHolder s r c).glb = s.glb := rfl
@[simp] theorem setHolder_pwr (r : Res) (c : Option CtxId) : (setHolder s r c).pwr = s.pwr := rfl
@[simp] theorem setHolder_boot (r : Res) (c : Option CtxId) : (setHolder s r c).boot = s.boot := rfl
@[simp] theorem setHolder_patch (r : Res) (c : Option CtxId) :
    (setHolder s r c).patch = s.patch := rfl
@[simp] theorem setHolder_hif (r : Res) (c : Option CtxId) : (setHolder s r c).hif = s.hif := rfl
@[simp] theorem setHolder_ctxs (r : Res) (c : Option CtxId) : (setHolder s r c).ctxs = s.ctxs := rfl
@[simp] theorem setHolder_rings (r : Res) (c : Option CtxId) :
    (setHolder s r c).rings = s.rings := rfl
@[simp] theorem setHolder_ops (r : Res) (c : Option CtxId) : (setHolder s r c).ops = s.ops := rfl
@[simp] theorem setHolder_nextOp (r : Res) (c : Option CtxId) :
    (setHolder s r c).nextOp = s.nextOp := rfl
@[simp] theorem setHolder_nextSeq (r : Res) (c : Option CtxId) :
    (setHolder s r c).nextSeq = s.nextSeq := rfl
@[simp] theorem setHolder_msix (r : Res) (c : Option CtxId) : (setHolder s r c).msix = s.msix := rfl
@[simp] theorem setHolder_msixSent (r : Res) (c : Option CtxId) :
    (setHolder s r c).msixSent = s.msixSent := rfl
@[simp] theorem setHolder_eqPend (r : Res) (c : Option CtxId) :
    (setHolder s r c).eqPend = s.eqPend := rfl
@[simp] theorem setHolder_fag (r : Res) (c : Option CtxId) : (setHolder s r c).fag = s.fag := rfl
@[simp] theorem setHolder_park (r : Res) (c : Option CtxId) : (setHolder s r c).park = s.park := rfl
@[simp] theorem setHolder_tmo (r : Res) (c : Option CtxId) : (setHolder s r c).tmo = s.tmo := rfl
@[simp] theorem setHolder_plz (r : Res) (c : Option CtxId) : (setHolder s r c).plz = s.plz := rfl
@[simp] theorem setHolder_steps (r : Res) (c : Option CtxId) :
    (setHolder s r c).steps = s.steps := rfl
@[simp] theorem setHolder_mqPend (r : Res) (c : Option CtxId) :
    (setHolder s r c).mqPend = s.mqPend := rfl
@[simp] theorem setHolder_dram (r : Res) (c : Option CtxId) : (setHolder s r c).dram = s.dram := rfl
@[simp] theorem setHolder_dg (r : Res) (c : Option CtxId) : (setHolder s r c).dg = s.dg := rfl
@[simp] theorem setHolder_tmu (r : Res) (c : Option CtxId) : (setHolder s r c).tmu = s.tmu := rfl
@[simp] theorem setHolder_gate (r : Res) (c : Option CtxId) : (setHolder s r c).gate = s.gate := rfl
@[simp] theorem setHolder_awg (r : Res) (c : Option CtxId) : (setHolder s r c).awg = s.awg := rfl
@[simp] theorem setHolder_re (r : Res) (c : Option CtxId) : (setHolder s r c).re = s.re := rfl
@[simp] theorem setHolder_dps (r : Res) (c : Option CtxId) : (setHolder s r c).dps = s.dps := rfl
@[simp] theorem setHolder_lanes (r : Res) (c : Option CtxId) :
    (setHolder s r c).lanes = s.lanes := rfl
@[simp] theorem setHolder_lanLimit (r : Res) (c : Option CtxId) :
    (setHolder s r c).lanLimit = s.lanLimit := rfl
@[simp] theorem setHolder_fired (r : Res) (c : Option CtxId) :
    (setHolder s r c).fired = s.fired := rfl
@[simp] theorem setHolder_triggers (r : Res) (c : Option CtxId) :
    (setHolder s r c).triggers = s.triggers := rfl
@[simp] theorem setHolder_cm (r : Res) (c : Option CtxId) : (setHolder s r c).cm = s.cm := rfl
@[simp] theorem setHolder_av (r : Res) (c : Option CtxId) : (setHolder s r c).av = s.av := rfl
@[simp] theorem setHolder_cal (r : Res) (c : Option CtxId) : (setHolder s r c).cal = s.cal := rfl
@[simp] theorem setHolder_thm (r : Res) (c : Option CtxId) : (setHolder s r c).thm = s.thm := rfl
@[simp] theorem setHolder_pm (r : Res) (c : Option CtxId) : (setHolder s r c).pm = s.pm := rfl
@[simp] theorem setHolder_ps (r : Res) (c : Option CtxId) : (setHolder s r c).ps = s.ps := rfl
@[simp] theorem setHolder_nextZero (r : Res) (c : Option CtxId) :
    (setHolder s r c).nextZero = s.nextZero := rfl

/-! ### setEqPend -/

@[simp] theorem setEqPend_pending (e : EqPend) : (setEqPend s e).pending = s.pending := rfl
@[simp] theorem setEqPend_freeCount (e : EqPend) : (setEqPend s e).freeCount = s.freeCount := rfl
@[simp] theorem setEqPend_now (e : EqPend) : (setEqPend s e).now = s.now := rfl
@[simp] theorem setEqPend_hostMem (e : EqPend) : (setEqPend s e).hostMem = s.hostMem := rfl
@[simp] theorem setEqPend_flash (e : EqPend) : (setEqPend s e).flash = s.flash := rfl
@[simp] theorem setEqPend_rdata (e : EqPend) : (setEqPend s e).rdata = s.rdata := rfl
@[simp] theorem setEqPend_glb (e : EqPend) : (setEqPend s e).glb = s.glb := rfl
@[simp] theorem setEqPend_pwr (e : EqPend) : (setEqPend s e).pwr = s.pwr := rfl
@[simp] theorem setEqPend_boot (e : EqPend) : (setEqPend s e).boot = s.boot := rfl
@[simp] theorem setEqPend_patch (e : EqPend) : (setEqPend s e).patch = s.patch := rfl
@[simp] theorem setEqPend_hif (e : EqPend) : (setEqPend s e).hif = s.hif := rfl
@[simp] theorem setEqPend_ctxs (e : EqPend) : (setEqPend s e).ctxs = s.ctxs := rfl
@[simp] theorem setEqPend_rings (e : EqPend) : (setEqPend s e).rings = s.rings := rfl
@[simp] theorem setEqPend_ops (e : EqPend) : (setEqPend s e).ops = s.ops := rfl
@[simp] theorem setEqPend_nextOp (e : EqPend) : (setEqPend s e).nextOp = s.nextOp := rfl
@[simp] theorem setEqPend_nextSeq (e : EqPend) : (setEqPend s e).nextSeq = s.nextSeq := rfl
@[simp] theorem setEqPend_own (e : EqPend) : (setEqPend s e).own = s.own := rfl
@[simp] theorem setEqPend_msix (e : EqPend) : (setEqPend s e).msix = s.msix := rfl
@[simp] theorem setEqPend_msixSent (e : EqPend) : (setEqPend s e).msixSent = s.msixSent := rfl
@[simp] theorem setEqPend_fag (e : EqPend) : (setEqPend s e).fag = s.fag := rfl
@[simp] theorem setEqPend_park (e : EqPend) : (setEqPend s e).park = s.park := rfl
@[simp] theorem setEqPend_tmo (e : EqPend) : (setEqPend s e).tmo = s.tmo := rfl
@[simp] theorem setEqPend_plz (e : EqPend) : (setEqPend s e).plz = s.plz := rfl
@[simp] theorem setEqPend_steps (e : EqPend) : (setEqPend s e).steps = s.steps := rfl
@[simp] theorem setEqPend_mqPend (e : EqPend) : (setEqPend s e).mqPend = s.mqPend := rfl
@[simp] theorem setEqPend_dram (e : EqPend) : (setEqPend s e).dram = s.dram := rfl
@[simp] theorem setEqPend_dg (e : EqPend) : (setEqPend s e).dg = s.dg := rfl
@[simp] theorem setEqPend_tmu (e : EqPend) : (setEqPend s e).tmu = s.tmu := rfl
@[simp] theorem setEqPend_gate (e : EqPend) : (setEqPend s e).gate = s.gate := rfl
@[simp] theorem setEqPend_awg (e : EqPend) : (setEqPend s e).awg = s.awg := rfl
@[simp] theorem setEqPend_re (e : EqPend) : (setEqPend s e).re = s.re := rfl
@[simp] theorem setEqPend_dps (e : EqPend) : (setEqPend s e).dps = s.dps := rfl
@[simp] theorem setEqPend_lanes (e : EqPend) : (setEqPend s e).lanes = s.lanes := rfl
@[simp] theorem setEqPend_lanLimit (e : EqPend) : (setEqPend s e).lanLimit = s.lanLimit := rfl
@[simp] theorem setEqPend_fired (e : EqPend) : (setEqPend s e).fired = s.fired := rfl
@[simp] theorem setEqPend_triggers (e : EqPend) : (setEqPend s e).triggers = s.triggers := rfl
@[simp] theorem setEqPend_cm (e : EqPend) : (setEqPend s e).cm = s.cm := rfl
@[simp] theorem setEqPend_av (e : EqPend) : (setEqPend s e).av = s.av := rfl
@[simp] theorem setEqPend_cal (e : EqPend) : (setEqPend s e).cal = s.cal := rfl
@[simp] theorem setEqPend_thm (e : EqPend) : (setEqPend s e).thm = s.thm := rfl
@[simp] theorem setEqPend_pm (e : EqPend) : (setEqPend s e).pm = s.pm := rfl
@[simp] theorem setEqPend_ps (e : EqPend) : (setEqPend s e).ps = s.ps := rfl
@[simp] theorem setEqPend_nextZero (e : EqPend) : (setEqPend s e).nextZero = s.nextZero := rfl

end Sys2Proof.Machine
end

