-- ==== Sys2Proof/Laws/Kept.lean ====
section
/-! SUPPORT. What almost no command touches: the queue and the eFuses, and the five byte memories. Each
operation's lemma says that it keeps them. -/

namespace Sys2Proof.Machine

/-- The queue, and the floors and revocations of the eFuses. -/
structure Roots where
  pending : List Instr
  fwFloor : Nat
  patchFloor : Nat
  revoked : Vector Bool 4

/-- Host memory, boot flash, DRAM, and the park store with its loaded copy. -/
structure Mems where
  hostMem : Mem
  flash : Mem
  dramMem : Mem
  image : Mem
  active : Mem

def kept (s : State) : Roots × Mems :=
  (⟨s.pending, s.boot.fwFloor, s.boot.patchFloor, s.boot.revoked⟩,
   ⟨s.hostMem, s.flash, s.dram.mem, s.park.image, s.park.active⟩)

@[simp] theorem kept_mk (a1 a2 a3 a4 a5 a6 a7 a8 a9 a10 a11 a12 a13 a14 a15 a16 a17 a18 a19 a20 a21 a22 a23
    a24 a25 a26 a27 a28 a29 a30 a31 a32 a33 a34 a35 a36 a37 a38 a39 a40 a41 a42 a43 a44) :
  kept (State.mk a1 a2 a3 a4 a5 a6 a7 a8 a9 a10 a11 a12 a13 a14 a15 a16 a17 a18 a19 a20 a21 a22 a23 a24 a25
      a26 a27 a28 a29 a30 a31 a32 a33 a34 a35 a36 a37 a38 a39 a40 a41 a42 a43 a44) = (⟨a1, a9.fwFloor,
        a9.patchFloor, a9.revoked⟩, ⟨a4, a5, a27.mem, a22.image, a22.active⟩) := (rfl)

@[simp] theorem kept_fold (s : State) : ((⟨s.pending, s.boot.fwFloor, s.boot.patchFloor, s.boot.revoked⟩,
    ⟨s.hostMem, s.flash, s.dram.mem, s.park.image, s.park.active⟩) : Roots × Mems) = kept s := (rfl)

@[simp] theorem kept_ite (c : Prop) [Decidable c] (a b : State) :
    kept (if c then a else b) = if c then kept a else kept b := apply_ite kept c a b

@[simp] theorem kept_foldl {α : Type} (g : State → α → State)
    (h : ∀ s x, kept (g s x) = kept s) (l : List α) (s : State) :
    kept (l.foldl g s) = kept s := by
  induction l generalizing s with
  | nil => rfl
  | cons a r ih => rw [List.foldl_cons, ih, h]

theorem kept_foldl_fst {α β : Type} (g : State × β → α → State × β) (h : ∀ a x, kept (g a x).1 = kept a.1)
    (l : List α) (a : State × β) : kept (l.foldl g a).1 = kept a.1 := by
  induction l generalizing a with
  | nil => rfl
  | cons x r ih => rw [List.foldl_cons, ih, h]

theorem kept_foldl_snd {α β : Type} (g : β × State → α → β × State) (h : ∀ a x, kept (g a x).2 = kept a.2)
    (l : List α) (a : β × State) : kept (l.foldl g a).2 = kept a.2 := by
  induction l generalizing a with
  | nil => rfl
  | cons x r ih => rw [List.foldl_cons, ih, h]

@[simp] theorem kept_elim {α : Type} (a : State) (f : α → State)
    (h : ∀ b, kept (f b) = kept a) (o : Option α) :
    kept (o.elim a f) = kept a := by
  cases o
  · rfl
  · exact h _
@[simp] theorem modPlz_kept (s p f) : kept (modPlz s p f) = kept s := (rfl)
@[simp] theorem modDps_kept (s p f) : kept (modDps s p f) = kept s := (rfl)
@[simp] theorem modAwg_kept (s p f) : kept (modAwg s p f) = kept s := (rfl)
@[simp] theorem modDg_kept (s p f) : kept (modDg s p f) = kept s := (rfl)
@[simp] theorem modTmu_kept (s p f) : kept (modTmu s p f) = kept s := (rfl)
@[simp] theorem modRe_kept (s p f) : kept (modRe s p f) = kept s := (rfl)
@[simp] theorem modLane_kept (s p f) : kept (modLane s p f) = kept s := (rfl)
@[simp] theorem modOp_kept (s p f) : kept (modOp s p f) = kept s := (rfl)
@[simp] theorem modRing_kept (s p f) : kept (modRing s p f) = kept s := (rfl)
@[simp] theorem report_kept (s p f) : kept (report s p f) = kept s := (rfl)
@[simp] theorem fire_kept (s p f) : kept (fire s p f) = kept s := (rfl)
@[simp] theorem setHolder_kept (s p f) : kept (setHolder s p f) = kept s := (rfl)
@[simp] theorem setEqPend_kept (s p) : kept (setEqPend s p) = kept s := (rfl)
@[simp] theorem modPin_kept (s p f) : kept (modPin s p f) = kept s := (rfl)
@[simp] theorem modTim_kept (s p f) : kept (modTim s p f) = kept s := (rfl)
@[simp] theorem modSeq_kept (s p f) : kept (modSeq s p f) = kept s := (rfl)
@[simp] theorem modRun_kept (s p f) : kept (modRun s p f) = kept s := (rfl)
@[simp] theorem modUc_kept (s p f) : kept (modUc s p f) = kept s := (rfl)
@[simp] theorem modCap_kept (s p f) : kept (modCap s p f) = kept s := (rfl)
@[simp] theorem modChanIn_kept (s p k f) : kept (modChanIn s p k f) = kept s := (rfl)
@[simp] theorem modChan_kept (s p f) : kept (modChan s p f) = kept s := (rfl)
@[simp] theorem modCtx_kept (s c f) : kept (modCtx s c f) = kept s := (rfl)
@[simp] theorem modEng_kept (s : State) (e : Eng) (f : EngCore → EngCore) : kept (modEng s e f) = kept s := by
  cases e <;> rfl

@[simp] theorem countAbort_kept (s : State) (id : OpId) (st : BitVec 8) :
    kept (countAbort s id st) = kept s := by
  unfold countAbort
  split
  · split <;> rfl
  · rfl
@[simp] theorem completeOp_kept (s : State) (id : OpId) (st : BitVec 8) (r : List Word) :
    kept (completeOp s id st r) = kept s := by
  simp [completeOp]

theorem kept_runDesc (s : State) (id : OpId) (opc : Nat) (f : State → Op → List Word → State)
    (h : ∀ s o d, kept (f s o d) = kept s) : kept (runDesc s id opc f) = kept s := by
  unfold runDesc
  split
  · rfl
  · split
    · split <;> simp [h]
    · rfl

theorem kept_onRunning (s : State) (id : OpId) (opc : Nat) (f : Op → List Word → State)
    (h : ∀ o d, kept (f o d) = kept s) : kept (onRunning s id opc f) = kept s := by
  unfold onRunning; split <;> simp [h]

/-- Each memory is in canonical form. -/
def Mems.wf (m : Mems) : Bool :=
  Mem.wf 0 m.hostMem && Mem.wf 0xFF m.flash && Mem.wf 0 m.dramMem && Mem.wf 0 m.image && Mem.wf 0 m.active

@[simp] theorem hostWrite_mems (s : State) (a : Nat) (bs : List Byte) (h : (kept s).2.wf = true) :
    (kept (hostWrite s a bs)).2.wf = true := by
  simp only [Mems.wf, kept, hostWrite, Bool.and_eq_true] at h ⊢
  exact ⟨⟨⟨⟨hostWriteM_wf _ _ _ h.1.1.1.1, h.1.1.1.2⟩, h.1.1.2⟩, h.1.2⟩, h.2⟩

@[simp] theorem dramWrite_mems (s : State) (a : Nat) (bs : List Byte) (h : (kept s).2.wf = true) :
    (kept (dramWrite s a bs)).2.wf = true := by
  simp only [Mems.wf, kept, dramWrite, Bool.and_eq_true] at h ⊢
  exact ⟨⟨⟨⟨h.1.1.1.1, h.1.1.1.2⟩, writeBytes_wf _ _ _ _ h.1.1.2⟩, h.1.2⟩, h.2⟩

@[simp] theorem dramWrite_roots (s : State) (a : Nat) (bs : List Byte) :
    (kept (dramWrite s a bs)).1 = (kept s).1 := (rfl)

@[simp] theorem roots_foldl {α : Type} (g : State → α → State) (h : ∀ s x, (kept (g s x)).1 =
    (kept s).1) (l : List α)
    (s : State) : (kept (l.foldl g s)).1 = (kept s).1 := by
  induction l generalizing s with
  | nil => rfl
  | cons a r ih => rw [List.foldl_cons, ih, h]
@[simp] theorem mems_foldl {α : Type} (g : State → α → State)
    (h : ∀ s x, (kept s).2.wf = true → (kept (g s x)).2.wf = true) (l : List α) (s : State)
    (hs : (kept s).2.wf = true) : (kept (l.foldl g s)).2.wf = true := by
  induction l generalizing s with
  | nil => exact hs
  | cons a r ih => exact ih _ (h _ _ hs)

theorem roots_runDesc (s : State) (id : OpId) (opc : Nat) (f : State → Op → List Word → State)
    (h : ∀ s o d, (kept (f s o d)).1 = (kept s).1) : (kept (runDesc s id opc f)).1 = (kept s).1 := by
  unfold runDesc; split
  · rfl
  · split
    · split
      · rw [completeOp_kept]
      · rw [h, modOp_kept]
    · rfl

theorem mems_runDesc (s : State) (id : OpId) (opc : Nat) (f : State → Op → List Word → State)
    (h : ∀ s o d, (kept s).2.wf = true → (kept (f s o d)).2.wf = true) (hs : (kept s).2.wf = true) :
    (kept (runDesc s id opc f)).2.wf = true := by
  unfold runDesc; split
  · exact hs
  · split
    · split
      · rw [completeOp_kept]
        exact hs
      · exact h _ _ _ (by simpa using hs)
    · exact hs

theorem roots_onRunning (s : State) (id : OpId) (opc : Nat) (f : Op → List Word → State)
    (h : ∀ o d, (kept (f o d)).1 = (kept s).1) : (kept (onRunning s id opc f)).1 = (kept s).1 := by
  unfold onRunning; split
  · rfl
  · split <;> simp [h]

theorem mems_onRunning (s : State) (id : OpId) (opc : Nat) (f : Op → List Word → State)
    (h : ∀ o d, (kept (f o d)).2.wf = true) (hs : (kept s).2.wf = true) :
    (kept (onRunning s id opc f)).2.wf = true := by
  unfold onRunning; split
  · exact hs
  · split
    · exact h _ _
    · exact hs

@[simp] theorem kept_ite1 (c : Prop) [Decidable c] (a b : State) :
    (if c then kept a else kept b).1 = if c then (kept a).1 else (kept b).1 := apply_ite Prod.fst c _ _

@[simp] theorem kept_ite2 (c : Prop) [Decidable c] (a b : State) :
    (if c then kept a else kept b).2 = if c then (kept a).2 else (kept b).2 := apply_ite Prod.snd c _ _

@[simp] theorem kept_ite3 (c : Prop) [Decidable c] (a b : State) :
    (if c then (kept a).2 else (kept b).2).wf = if c then (kept a).2.wf else
      (kept b).2.wf := apply_ite Mems.wf c _ _

theorem mems_of_kept {a b : State} (e : kept a = kept b) (h : (kept b).2.wf = true) : (kept a).2.wf = true :=
  (congrArg (fun x : Roots × Mems => x.2.wf) e).trans h

theorem roots_of_kept {a b : State} {r : Roots} (e : kept a = kept b) (h : (kept b).1 = r) : (kept a).1 = r :=
  (congrArg Prod.fst e).trans h

/-- The queue stays, the floors do not fall, and a revoked slot stays revoked. -/
def Roots.rise (a b : Roots) : Prop :=
  b.pending = a.pending ∧ a.fwFloor ≤ b.fwFloor ∧ a.patchFloor ≤ b.patchFloor ∧
    ∀ k : Fin 4, a.revoked[k] = true → b.revoked[k] = true

theorem Roots.rise_refl (a : Roots) : a.rise a := ⟨rfl, Nat.le_refl _, Nat.le_refl _, fun _ h => h⟩

theorem rise_runDesc (s : State) (id : OpId) (opc : Nat) (f : State → Op → List Word → State)
    (h : ∀ s o d, (kept s).1.rise (kept (f s o d)).1) : (kept s).1.rise (kept (runDesc s id opc f)).1 := by
  unfold runDesc
  split
  · exact Roots.rise_refl _
  · split
    · split
      · rw [completeOp_kept]
        exact Roots.rise_refl _
      · exact h (modOp s id _) _ _
    · exact Roots.rise_refl _

end Sys2Proof.Machine
end

