-- ==== Sys2Proof/Laws/KeptOps.lean ====
section
/-! SUPPORT. What the shared operations keep (see Laws/Kept.lean): `f_kept` where f keeps the queue, the
eFuses and the memories as they are, `f_roots` and `f_mems` where it writes host memory or DRAM. -/

namespace Sys2Proof.Machine

/-! ### Machine/Ops.lean -/

@[simp] theorem takeFree_kept (s : State) (w : Nat) : kept (takeFree s w).2 = kept s := by
  simp [takeFree]

@[simp] theorem finishOp_kept (s : State) (id : OpId) (st : BitVec 8) (r : List Word) :
    kept (finishOp s id st r) = kept s := by
  unfold finishOp
  split
  · rfl
  · split
    · dsimp only
      split <;> simp
    · simp

@[simp] theorem completeAll_kept (s : State) (ids : List OpId) (st : BitVec 8) :
    kept (completeAll s ids st) = kept s := by
  simp [completeAll]

@[simp] theorem finishAll_kept (s : State) (ids : List OpId) (st : BitVec 8) :
    kept (finishAll s ids st) = kept s := by
  simp [finishAll]

@[simp] theorem msixSend_kept (s : State) (v : Nat) : kept (msixSend s v) = kept s := by
  unfold msixSend
  split <;> simp

@[simp] theorem countInterrupt_kept (s : State) (n : RingId) : kept (countInterrupt s n) = kept s := by
  unfold countInterrupt
  split <;> simp

@[simp] theorem hostWrite_roots (s : State) (a : Nat) (bs : List Byte) :
    (kept (hostWrite s a bs)).1 = (kept s).1 := (rfl)

@[simp] theorem ringPutAs_roots (s : State) (n : RingId) (c : CtxId) (ws : List Word) (irq : Bool) :
    (kept (ringPutAs s n c ws irq)).1 = (kept s).1 := by
  unfold ringPutAs
  split
  · rfl
  · dsimp only
    split <;> simp

theorem ringPutAs_mems (s : State) (n : RingId) (c : CtxId) (ws : List Word) (irq : Bool)
    (h : (kept s).2.wf = true) : (kept (ringPutAs s n c ws irq)).2.wf = true := by
  unfold ringPutAs
  split
  · exact h
  · dsimp only
    split <;> simp [hostWrite_mems, h]

@[simp] theorem ringPut_roots (s : State) (n : RingId) (ws : List Word) (irq : Bool) :
    (kept (ringPut s n ws irq)).1 = (kept s).1 := by
  unfold ringPut
  split <;> simp

theorem ringPut_mems (s : State) (n : RingId) (ws : List Word) (irq : Bool)
    (h : (kept s).2.wf = true) : (kept (ringPut s n ws irq)).2.wf = true := by
  unfold ringPut
  split
  · exact h
  · exact ringPutAs_mems _ _ _ _ _ h

@[simp] theorem postEq_kept (s : State) (c : Option CtxId) (r : EqRec) : kept (postEq s c r) = kept s := by
  simp [postEq]

@[simp] theorem postReport_kept (s : State) (r : Report) : kept (postReport s r) = kept s := by
  simp [postReport]

/-! ### Machine/CalOps.lean -/

@[simp] theorem setCal_kept (s : State) (c : CalSet) : kept (setCal s c) = kept s := by
  simp [setCal]

/-! ### Machine/PinOps.lean -/

@[simp] theorem mapChans_kept (s : State) (p : Fin 16) (f : Fin 1024 → Chan → Chan) :
    kept (mapChans s p f) = kept s := by
  simp [mapChans]

@[simp] theorem parkPlaza_kept (s : State) (p : Fin 16) : kept (parkPlaza s p) = kept s := by
  simp [parkPlaza]

@[simp] theorem faultChans_kept (s : State) (p : Fin 16) : kept (faultChans s p) = kept s := by
  simp [faultChans]

@[simp] theorem storeLevel_kept (s : State) (p : Fin 16) (ls : Fin 8) : kept (storeLevel s p ls) = kept s
    := by
  simp [storeLevel]

@[simp] theorem applyLevels_kept (s : State) (p : Fin 16) (ls : Fin 8) : kept (applyLevels s p ls) = kept s
    := by
  simp [applyLevels]

@[simp] theorem startSettle_kept (s : State) (p : Fin 16) : kept (startSettle s p) = kept s := by
  simp [startSettle]

@[simp] theorem commitCodes_kept (s : State) (p : Fin 16) : kept (commitCodes s p) = kept s := by
  simp [commitCodes]

@[simp] theorem onChans_kept (s : State) (p : Fin 16) : kept (onChans s p) = kept s := by
  simp [onChans]

@[simp] theorem loadDacs_kept (s : State) (p : Fin 16) (restore : Bool) :
    kept (loadDacs s p restore) = kept s := by
  simp [loadDacs]

@[simp] theorem endSelftest_kept (s : State) (id : OpId) : kept (endSelftest s id) = kept s := by
  simp [endSelftest]

@[simp] theorem parkLoad_roots (s : State) : (kept (parkLoad s)).1 = (kept s).1 := by
  unfold parkLoad
  dsimp only
  split
  · rfl
  · rw [postEq_kept, report_kept]; rfl

@[simp] theorem parkLoad_mems (s : State) (h : (kept s).2.wf = true) : (kept (parkLoad s)).2.wf = true := by
  unfold parkLoad
  simp only [Mems.wf, kept, Bool.and_eq_true] at h
  dsimp only
  split
  · simp only [Mems.wf, kept, Bool.and_eq_true]
    exact ⟨⟨⟨⟨h.1.1.1.1, h.1.1.1.2⟩, h.1.1.2⟩, h.1.2⟩, h.1.2⟩
  · rw [postEq_kept, report_kept]
    simp only [Mems.wf, kept, Bool.and_eq_true]
    exact ⟨⟨⟨⟨h.1.1.1.1, h.1.1.1.2⟩, h.1.1.2⟩, h.1.2⟩, by decide⟩

/-! ### Machine/AwgOps.lean -/

@[simp] theorem armAwg_kept (s : State) (a : Fin 16) (id : OpId) (d : List Word) :
    kept (armAwg s a id d) = kept s := by
  simp [armAwg]

@[simp] theorem awgNext_kept (l : List OpId) (s : State) (p : Fin 16) : kept (awgNext l s p) = kept s := by
  induction l generalizing s with
  | nil => rfl
  | cons id r ih =>
    unfold awgNext
    (repeat' split) <;> simp [ih]

@[simp] theorem dropJump_kept (s : State) (j : Option AJump) : kept (dropJump s j) = kept s := by
  simp [dropJump]

@[simp] theorem dacCode_kept (s : State) (a : Fin 16) (r : Nat) (n : BitVec 16) :
    kept (dacCode s a r n).2 = kept s := by
  unfold dacCode
  (repeat' split) <;> simp

@[simp] theorem dacCodes_kept (a : Fin 16) (l : List (BitVec 16)) (s : State) :
    kept (dacCodes a l s).2 = kept s := by
  induction l generalizing s with
  | nil => rfl
  | cons n r ih => simp [dacCodes, ih]

@[simp] theorem waveOf_kept (s : State) (a : Fin 16) : kept (waveOf s a).2 = kept s := by
  unfold waveOf
  dsimp only
  (repeat' split) <;> simp

@[simp] theorem holdCode_kept (s : State) (a : Fin 16) (n : BitVec 16) (parked : Bool) :
    kept (holdCode s a n parked) = kept s := by
  unfold holdCode
  dsimp only
  split <;> simp

@[simp] theorem setRange_kept (s : State) (a : Fin 16) (range : Nat) (ofs : Int) :
    kept (setRange s a range ofs) = kept s := by
  simp [setRange]

@[simp] theorem awgStop_kept (s : State) (a : Fin 16) (status : BitVec 8) (clocks : Nat) (code : BitVec 16) :
    kept (awgStop s a status clocks code) = kept s := by
  simp [awgStop]

@[simp] theorem awgAbort_kept (s : State) (a : Fin 16) (status : BitVec 8) :
    kept (awgAbort s a status) = kept s := by
  unfold awgAbort
  dsimp only
  split <;> simp

@[simp] theorem playBegin_kept (s : State) (a : Fin 16) (e left frac : Nat) (first reset : Bool) (g : Fin
    256 × Nat × Nat) : kept (playBegin s a e left frac first reset g) = kept s := by
  simp [playBegin]

@[simp] theorem requestAJump_kept (s : State) (a : Fin 16) (j : AJump) : kept (requestAJump s a j) = kept s
    := by
  simp [requestAJump]

@[simp] theorem parkAwg_kept (s : State) (a : Fin 16) : kept (parkAwg s a) = kept s := by
  simp [parkAwg]

@[simp] theorem offAwg_kept (s : State) (a : Fin 16) : kept (offAwg s a) = kept s := by
  simp [offAwg]

@[simp] theorem awgStarting_kept (s : State) (a : Fin 16) : kept (awgStarting s a) = kept s := by
  simp [awgStarting]

@[simp] theorem onAwg_kept (s : State) (a : Fin 16) : kept (onAwg s a) = kept s := by
  simp [onAwg]

/-! ### Machine/DpsOps.lean -/

@[simp] theorem parkDps_kept (s : State) (n : Fin 32) : kept (parkDps s n) = kept s := by
  simp [parkDps]

@[simp] theorem reparkDps_kept (s : State) : kept (reparkDps s) = kept s := by
  simp [reparkDps]

@[simp] theorem dpsStarting_kept (s : State) (n : Fin 32) : kept (dpsStarting s n) = kept s := by
  simp [dpsStarting]

@[simp] theorem dpsOn_kept (s : State) (n : Fin 32) : kept (dpsOn s n) = kept s := by
  simp [dpsOn]

@[simp] theorem dpsStopping_kept (s : State) (n : Fin 32) : kept (dpsStopping s n) = kept s := by
  simp [dpsStopping]

@[simp] theorem dpsOff_kept (s : State) (n : Fin 32) : kept (dpsOff s n) = kept s := by
  simp [dpsOff]

@[simp] theorem dpsFault_kept (s : State) (n : Fin 32) : kept (dpsFault s n) = kept s := by
  simp [dpsFault]

@[simp] theorem dpsDischarged_kept (s : State) (n : Fin 32) : kept (dpsDischarged s n) = kept s := by
  unfold dpsDischarged
  dsimp only
  split <;> simp

@[simp] theorem blankDps_kept (s : State) (n : Fin 32) : kept (blankDps s n) = kept s := by
  simp [blankDps]

/-! ### Machine/TimOps.lean -/

@[simp] theorem setHeader_kept (s : State) (h : Option CalSet) : kept (setHeader s h) = kept s := by
  unfold setHeader
  split <;> simp

@[simp] theorem applyStaged_kept (s : State) (p : Fin 16) (x : Staged) : kept (applyStaged s p x) = kept s
    := by
  cases x <;> simp [applyStaged]

@[simp] theorem endStaged_kept (s : State) (id : OpId) : kept (endStaged s id) = kept s := by
  unfold endStaged
  (repeat' split) <;> simp

@[simp] theorem clearStale_kept (s : State) (p : Fin 16) : kept (clearStale s p) = kept s := by
  simp [clearStale]

@[simp] theorem applyBand_kept (s : State) (p : Fin 16) : kept (applyBand s p) = kept s := by
  simp [applyBand]

@[simp] theorem quietOne_kept (s : State) (p : Fin 16) : kept (quietOne s p) = kept s := by
  simp [quietOne]

@[simp] theorem quietSet_kept (s : State) (p : Fin 16) : kept (quietSet s p) = kept s := by
  simp [quietSet]

@[simp] theorem bandMoved_kept (s : State) (p : Fin 16) : kept (bandMoved s p) = kept s := by
  simp [bandMoved]

@[simp] theorem dropStaged_kept (s : State) (id : OpId) : kept (dropStaged s id) = kept s := by
  simp [dropStaged]

/-! ### Machine/CapOps.lean -/

@[simp] theorem fqLose_kept (s : State) (p : Fin 16) (cycle : BitVec 48) (stale gap : Bool) :
    kept (fqLose s p cycle stale gap) = kept s := by
  simp [fqLose]

@[simp] theorem fqPut_kept (s : State) (p : Fin 16) (r : FqRec) : kept (fqPut s p r) = kept s := by
  simp [fqPut]

@[simp] theorem fqFlush_kept (s : State) (p : Fin 16) (limit : Nat) : kept (fqFlush s p limit) = kept s := by
  unfold fqFlush
  dsimp only
  split <;> simp

@[simp] theorem fqEmit_kept (s : State) (p : Fin 16) (r : FqRec) : kept (fqEmit s p r).1 = kept s := by
  unfold fqEmit
  dsimp only
  (repeat' split) <;> simp

@[simp] theorem fqHoldGap_kept (s : State) (p : Fin 16) (first : BitVec 48) (n : Nat) (stale : Bool) :
    kept (fqHoldGap s p first n stale) = kept s := by
  simp [fqHoldGap]

@[simp] theorem fqMarker_kept (s : State) (p : Fin 16) (cycle : BitVec 48) (user : BitVec 16) (tag : Word)
    (hdr : Bool) (mid : BitVec 16) (stale : Bool) :
    kept (fqMarker s p cycle user tag hdr mid stale) = kept s := by
  simp [fqMarker]

@[simp] theorem fqEnd_kept (s : State) (p : Fin 16) (cycle : BitVec 48) (status : BitVec 8) :
    kept (fqEnd s p cycle status) = kept s := by
  simp [fqEnd]

@[simp] theorem failLost_kept (s : State) (p : Fin 16) (j z : Nat) : kept (failLost s p j z) = kept s := by
  simp [failLost]

@[simp] theorem dropFq_kept (s : State) (n : RingId) : kept (dropFq s n) = kept s := by
  simp [dropFq]

@[simp] theorem settleOp_kept (s : State) (id : OpId) : kept (settleOp s id) = kept s := by
  unfold settleOp
  (repeat' split) <;> simp

@[simp] theorem endAfter_kept (s : State) (id : OpId) (st : BitVec 8) (r : List Word) :
    kept (endAfter s id st r) = kept s := by
  simp [endAfter]

@[simp] theorem freeRec_kept (s : State) (slot : Nat) : kept (freeRec s slot) = kept s := by
  simp [freeRec]

@[simp] theorem dropTmuRec_kept (s : State) (o : Op) : kept (dropTmuRec s o) = kept s := by
  unfold dropTmuRec
  (repeat' split) <;> simp

@[simp] theorem giveUp_kept (s : State) (id : OpId) : kept (giveUp s id) = kept s := by
  unfold giveUp
  dsimp only
  split <;> simp

@[simp] theorem mqPost_kept (s : State) (ring : RingId) (id : OpId) (r : MqRec) :
    kept (mqPost s ring id r) = kept s := by
  simp [mqPost]

@[simp] theorem bindMqs_kept (s : State) (id : OpId) (ps : List (Fin 16)) : kept (bindMqs s id ps) = kept s
    := by
  simp [bindMqs]

@[simp] theorem dropMq_kept (s : State) (n : RingId) : kept (dropMq s n) = kept s := by
  simp [dropMq]

@[simp] theorem clearBindings_kept (s : State) (p : Fin 16) : kept (clearBindings s p) = kept s := by
  simp [clearBindings]

@[simp] theorem dropSteps_kept (s : State) (bad : TStep → Bool) : kept (dropSteps s bad) = kept s := by
  simp [dropSteps]

@[simp] theorem deliver_kept (s : State) (site : Nat) (test kind : Nat) (seq : Nat) (v : Option Int) :
    kept (deliver s site test kind seq v).1 = kept s := by
  unfold deliver
  (repeat' split) <;> simp

@[simp] theorem countRun_kept (s : State) (p : Fin 16) (z : Nat) (siteEn : BitVec 256) (status : BitVec 8) :
    kept (countRun s p z siteEn status) = kept s := by
  simp [countRun]

/-! ### Machine/JudgeOps.lean -/

@[simp] theorem account_kept (s : State) (q : Fin 16) (siteEn : BitVec 256) (cyc : BitVec 48) (outs :
    Vector JOut 64) : kept (account s q siteEn cyc outs) = kept s := by
  simp [account]

@[simp] theorem massFail_kept (s : State) (q : Fin 16) (siteEn : BitVec 256) (cyc : BitVec 48) :
    kept (massFail s q siteEn cyc) = kept s := by
  simp [massFail]

@[simp] theorem clearFlags_kept (s : State) (p : Fin 16) : kept (clearFlags s p) = kept s := by
  simp [clearFlags]

@[simp] theorem trigAcqs_kept (s : State) (p : Fin 16) (sel : Acq → Bool) :
    kept (trigAcqs s p sel) = kept s := by
  simp [trigAcqs]

@[simp] theorem emitCapture_kept (s : State) (q : Fin 16) (siteEn : BitVec 256) (cyc : BitVec 48) (user :
    BitVec 16) (tag : Word) (stale : Bool) (vals : BitVec 128) :
      kept (emitCapture s q siteEn cyc user tag stale vals) = kept s := by
  simp [emitCapture]

@[simp] theorem emitFails_kept (s : State) (q : Fin 16) (siteEn : BitVec 256) (v : LateVec) (stale : Bool)
    (outs : Vector JOut 64) : kept (emitFails s q siteEn v stale outs) = kept s := by
  simp [emitFails]

@[simp] theorem trigger_kept (s : State) (q : Fin 16) (siteEn : BitVec 256) (outs : Vector JOut 64) :
    kept (trigger s q siteEn outs).1 = kept s := by
  unfold trigger
  dsimp only
  (repeat' split) <;> simp

@[simp] theorem emitPre_kept (s : State) (q : Fin 16) (siteEn : BitVec 256) :
    kept (emitPre s q siteEn) = kept s := by
  simp [emitPre]

@[simp] theorem emitTrig_kept (s : State) (q : Fin 16) (v : LateVec) (stale : Bool) (j : Fin 16) :
    kept (emitTrig s q v stale j) = kept s := by
  simp [emitTrig]

@[simp] theorem emitMarks_kept (s : State) (v : LateVec) (x : LatePlz) :
    kept (emitMarks s v x) = kept s := by
  unfold emitMarks
  dsimp only
  rw [kept_foldl _ (fun _ _ => fqMarker_kept _ _ _ _ _ _ _ _)]
  split <;> simp

@[simp] theorem judgePlaza_kept (s : State) (p : Fin 16) (v : LateVec) (x : LatePlz) :
    kept (judgePlaza s p v x).1 = kept s := by
  unfold judgePlaza
  extract_lets q en chans outs s1 w suppr s2 tr s3 s4 s5 s6 c take vals s7 s8 h s9 s10
  have e2 : kept s2 = kept s := (account_kept _ _ _ _ _).trans (modPlz_kept _ _ _)
  have e3 : kept s3 = kept s := by
    simp only [s3, tr]
    split <;> simp [e2]
  have e4 : kept s4 = kept s := by simp only [s4]; split <;> simp [e3]
  have e5 : kept s5 = kept s := (emitMarks_kept _ _ _).trans e4
  have e6 : kept s6 = kept s := by simp only [s6]; split <;> simp [e5]
  have e7 : kept s7 = kept s := by simp only [s7]; split <;> simp [e6]
  have e8 : kept s8 = kept s := by simp only [s8]; split <;> simp [e7]
  have e9 : kept s9 = kept s := by simp only [s9]; split <;> simp [e8]
  exact (massFail_kept _ _ _ _).trans e9

@[simp] theorem putPlayed_kept (s : State) (p : Fin 16) (v : LateVec) (fails : BitVec 256) :
    kept (putPlayed s p v fails) = kept s := by
  unfold putPlayed
  dsimp only
  split <;> simp

@[simp] theorem judgeLate_kept (s : State) (p : Fin 16) (x : Late) : kept (judgeLate s p x) = kept s := by
  cases x with
  | gap first n stales => exact kept_foldl _ (fun _ _ => fqHoldGap_kept _ _ _ _ _) _ _
  | vec v =>
    simp only [judgeLate, putPlayed_kept]
    rw [kept_foldl_fst]
    · split <;> simp
    · intro a b
      exact judgePlaza_kept _ _ _ _

@[simp] theorem judgeN_kept (s : State) (p : Fin 16) (n : Nat) : kept (judgeN s p n) = kept s := by
  unfold judgeN
  exact (kept_foldl _ (fun _ _ => judgeLate_kept _ _ _) _ _).trans (modRun_kept _ _ _)

@[simp] theorem judgeDue_kept (s : State) (p : Fin 16) : kept (judgeDue s p) = kept s := by
  simp [judgeDue]

@[simp] theorem judgeAll_kept (s : State) (p : Fin 16) : kept (judgeAll s p) = kept s := by
  simp [judgeAll]

@[simp] theorem judgeTo_kept (s : State) (p : Fin 16) (id : Nat) : kept (judgeTo s p id) = kept s := by
  simp [judgeTo]

@[simp] theorem holdGaps_kept (s : State) (p : Fin 16) : kept (holdGaps s p) = kept s := by
  unfold holdGaps
  dsimp only
  split <;> simp

/-! ### Machine/SeqOps.lean -/

@[simp] theorem endFill_kept (s : State) (p : Fin 16) (n : Fin 64) (f : Slot → Slot) :
    kept (endFill s p n f) = kept s := by
  simp [endFill]

@[simp] theorem dropFill_kept (s : State) (id : OpId) : kept (dropFill s id) = kept s := by
  simp [dropFill]

@[simp] theorem pushEntry_kept (s : State) (p : Fin 16) (vaddr reps : Nat) (rpt : Bool) :
    kept (pushEntry s p vaddr reps rpt) = kept s := by
  simp [pushEntry]

@[simp] theorem setPc_kept (s : State) (p : Fin 16) (pc : BitVec 16) : kept (setPc s p pc) = kept s := by
  simp [setPc]

@[simp] theorem issueLoop_kept (n : Nat) (s : State) (p : Fin 16) : kept (issueLoop n s p) = kept s := by
  induction n generalizing s with
  | zero => rfl
  | succ n ih =>
    unfold issueLoop
    (repeat' split) <;> simp [ih]

@[simp] theorem issueAll_kept (s : State) (p : Fin 16) : kept (issueAll s p) = kept s := by
  simp [issueAll]

theorem kept_runInstr (s : State) (p : Fin 16) (opn : Nat) (f : State → BitVec 64 → State)
    (h : ∀ s i, kept (f s i) = kept s) : kept (runInstr s p opn f) = kept s := by
  unfold runInstr
  dsimp only
  split <;> simp [h]

@[simp] theorem popLevels_kept (s : State) (p : Fin 16) (target : BitVec 16) :
    kept (popLevels s p target) = kept s := by
  simp [popLevels]

@[simp] theorem popAll_kept (s : State) (p : Fin 16) : kept (popAll s p) = kept s := by
  simp [popAll]

@[simp] theorem beginWaitm_kept (s : State) (p : Fin 16) (cond vaddr limit : Nat) (micro : Bool) :
    kept (beginWaitm s p cond vaddr limit micro) = kept s := by
  simp [beginWaitm]

@[simp] theorem beginSync_kept (s : State) (p : Fin 16) (src line vaddr : Nat) (micro : Bool) :
    kept (beginSync s p src line vaddr micro) = kept s := by
  simp [beginSync]

@[simp] theorem beginTest_kept (s : State) (p : Fin 16) (cond : Nat) (target : BitVec 16) (micro : Bool) :
    kept (beginTest s p cond target micro) = kept s := by
  simp [beginTest]

@[simp] theorem requestJump_kept (s : State) (p : Fin 16) (target : BitVec 16) (op : Option OpId) :
    kept (requestJump s p target op) = kept s := by
  unfold requestJump
  dsimp only
  split <;> simp

@[simp] theorem markSeen_kept (s : State) (p : Fin 16) (mid : BitVec 16) : kept (markSeen s p mid) = kept s
    := by
  simp [markSeen]

@[simp] theorem armRun_kept (s : State) (p : Fin 16) (id : OpId) (d : List Word) :
    kept (armRun s p id d) = kept s := by
  simp [armRun]

@[simp] theorem armNext_kept (l : List OpId) (s : State) (p : Fin 16) : kept (armNext l s p) = kept s := by
  induction l generalizing s with
  | nil => rfl
  | cons id r ih =>
    unfold armNext
    (repeat' split) <;> simp [ih]

@[simp] theorem takeAct_kept (s : State) (p : Fin 16) (c : BitVec 48) (u : BitVec 16) (t : Word) (a : Act) :
    kept (takeAct s p c u t a) = kept s := by
  cases a <;> simp only [takeAct, fire_kept, clearFlags_kept] <;> rw [kept_foldl] <;> intros <;> simp

@[simp] theorem jumpDone_kept (s : State) (p : Fin 16) (cycle : BitVec 64) :
    kept (jumpDone s p cycle) = kept s := by
  unfold jumpDone
  split <;> simp

@[simp] theorem closeRun_kept (s : State) (p : Fin 16) (status : BitVec 8) :
    kept (closeRun s p status) = kept s := by
  simp [closeRun]

@[simp] theorem endRun_kept (s : State) (p : Fin 16) (status : BitVec 8) (quiet : Bool) :
    kept (endRun s p status quiet) = kept s := by
  unfold endRun
  dsimp only
  (repeat' split) <;> simp

@[simp] theorem discardJump_kept (s : State) (p : Fin 16) : kept (discardJump s p) = kept s := by
  unfold discardJump
  split <;> simp

@[simp] theorem endProgram_kept (s : State) (p : Fin 16) (status : BitVec 8) :
    kept (endProgram s p status) = kept s := by
  simp [endProgram]

/-! ### Machine/MeasOps.lean -/

@[simp] theorem modRec_kept (s : State) (slot : Nat) (f : Rec → Rec) : kept (modRec s slot f) = kept s := by
  simp [modRec]

@[simp] theorem setForce_kept (s : State) (c : Fin 1024) (force : Int) : kept (setForce s c force) = kept s
    := by
  simp [setForce]

@[simp] theorem pmuForce_kept (s : State) (d : List Word) : kept (pmuForce s d) = kept s := by
  simp [pmuForce]

@[simp] theorem maskTakes_kept (s : State) (a : Acq) : kept (maskTakes s a) = kept s := by
  simp [maskTakes]

@[simp] theorem startConv_kept (s : State) (id : OpId) : kept (startConv s id) = kept s := by
  unfold startConv
  split <;> simp

@[simp] theorem pumpList_kept (l : List OpId) (w : List Nat) (s : State) : kept (pumpList l w s) = kept s
    := by
  induction l generalizing s w with
  | nil => rfl
  | cons id r ih =>
    unfold pumpList
    dsimp only
    (repeat' split) <;> simp [ih]

@[simp] theorem pumpConv_kept (s : State) : kept (pumpConv s) = kept s := by
  simp [pumpConv]

@[simp] theorem queueConv_kept (s : State) (id : OpId) : kept (queueConv s id) = kept s := by
  simp [queueConv]

@[simp] theorem maskEnd_kept (s : State) (a : Acq) (handle : Word) (xs : List Sample) :
    kept (maskEnd s a handle xs) = kept s := by
  unfold maskEnd
  split <;> simp

@[simp] theorem dgStarting_kept (s : State) (p : Fin 16) : kept (dgStarting s p) = kept s := by
  simp [dgStarting]

@[simp] theorem dropAcq_kept (s : State) (id : OpId) : kept (dropAcq s id) = kept s := by
  simp [dropAcq]

@[simp] theorem killAcq_kept (s : State) (a : Acq) (status : BitVec 8) : kept (killAcq s a status) = kept s
    := by
  simp [killAcq]

@[simp] theorem killAcqs_kept (s : State) (sel : Acq → Bool) : kept (killAcqs s sel) = kept s := by
  simp [killAcqs]

@[simp] theorem modMeas_kept (s : State) (n : Fin 64) (f : TmuMeas → TmuMeas) :
    kept (modMeas s n f) = kept s := by
  simp [modMeas]

@[simp] theorem tmuRef_kept (s : State) (n : Fin 64) : kept (tmuRef s n) = kept s := by
  unfold tmuRef
  split <;> simp

@[simp] theorem tmuArmNow_kept (s : State) (n : Fin 64) : kept (tmuArmNow s n) = kept s := by
  unfold tmuArmNow
  split <;> simp

@[simp] theorem tmuBegin_kept (s : State) (n : Fin 64) (id : OpId) (slot : Nat) (d : List Word) :
    kept (tmuBegin s n id slot d) = kept s := by
  simp [tmuBegin]

@[simp] theorem tmuNext_kept (l : List OpId) (s : State) (p : Fin 64) : kept (tmuNext l s p) = kept s := by
  induction l generalizing s with
  | nil => rfl
  | cons id r ih =>
    unfold tmuNext
    (repeat' split) <;> simp [ih]

@[simp] theorem tmuLeave_kept (s : State) (n : Fin 64) : kept (tmuLeave s n) = kept s := by
  simp [tmuLeave]

@[simp] theorem tmuKill_kept (s : State) (n : Fin 64) (status : BitVec 8) :
    kept (tmuKill s n status) = kept s := by
  unfold tmuKill
  split <;> simp

@[simp] theorem endConvs_kept (s : State) (sel : Op → Bool) : kept (endConvs s sel) = kept s := by
  unfold endConvs
  extract_lets gone s1
  refine (finishAll_kept _ _ _).trans (Eq.trans rfl (kept_foldl _ (fun s x => ?_) _ _))
  split
  · split <;> simp
  · rfl

@[simp] theorem tmuQuit_kept (s : State) (n : Fin 64) (status : BitVec 8) :
    kept (tmuQuit s n status) = kept s := by
  unfold tmuQuit
  refine (tmuKill_kept _ _ _).trans ((modTmu_kept _ _ _).trans (kept_foldl _ (fun s x => ?_) _ _))
  split
  · split <;> simp
  · rfl

@[simp] theorem intervalVal_kept (s : State) (d : List Word) (xs : List Stamp) :
    kept (intervalVal s d xs).2 = kept s := by
  unfold intervalVal
  dsimp only
  (repeat' split) <;> simp

@[simp] theorem freqVal_kept (s : State) (d : List Word) (xs : List Stamp) :
    kept (freqVal s d xs).2 = kept s := by
  unfold freqVal
  dsimp only
  split <;> simp

@[simp] theorem tmuEnd_kept (s : State) (n : Fin 64) (part : Bool) : kept (tmuEnd s n part) = kept s := by
  unfold tmuEnd
  dsimp only
  (repeat' split) <;> simp

@[simp] theorem tmuZero_kept (s : State) (p : Fin 16) : kept (tmuZero s p) = kept s := by
  unfold tmuZero
  refine kept_foldl _ (fun _ _ => ?_) _ _
  split <;> simp

/-! ### Machine/MonOps.lean -/

@[simp] theorem applyMon_kept (s : State) (id : OpId) (d : List Word) : kept (applyMon s id d) = kept s := by
  simp [applyMon]

@[simp] theorem calOpens_kept (s : State) (k : CalKey) : kept (calOpens s k) = kept s := by
  unfold calOpens
  split <;> simp

@[simp] theorem calCloses_kept (s : State) (k : CalKey) : kept (calCloses s k) = kept s := by
  unfold calCloses
  split <;> simp

@[simp] theorem startMon_kept (s : State) (id : OpId) : kept (startMon s id) = kept s := by
  unfold startMon
  dsimp only
  (repeat' split) <;> simp

@[simp] theorem pumpMonList_kept (l : List OpId) (w : List Nat) (s : State) :
    kept (pumpMonList l w s) = kept s := by
  induction l generalizing s w with
  | nil => rfl
  | cons id r ih =>
    unfold pumpMonList
    dsimp only
    (repeat' split) <;> simp [ih]

@[simp] theorem pumpMon_kept (s : State) : kept (pumpMon s) = kept s := by
  simp [pumpMon]

@[simp] theorem queueMon_kept (s : State) (id : OpId) : kept (queueMon s id) = kept s := by
  simp [queueMon]

@[simp] theorem leaveMon_kept (s : State) (id : OpId) : kept (leaveMon s id) = kept s := by
  simp [leaveMon, kept_foldl]

/-! ### Machine/ReOps.lean -/

@[simp] theorem commitNow_kept (s : State) (k : Fin 4) : kept (commitNow s k) = kept s := by
  simp [commitNow]

@[simp] theorem fetchLine_kept (s : State) (k : Fin 4) : kept (fetchLine s k) = kept s := by
  simp [fetchLine]

@[simp] theorem lateSel_kept (s : State) (k : Fin 4) : kept (lateSel s k).2 = kept s := by
  unfold lateSel
  (repeat' split) <;> simp

@[simp] theorem newPixel_kept (s : State) (k : Fin 4) : kept (newPixel s k) = kept s := by
  simp [newPixel]

@[simp] theorem endRe_kept (s : State) (k : Fin 4) (st : BitVec 8) : kept (endRe s k st) = kept s := by
  unfold endRe
  extract_lets r
  split
  · rfl
  · exact (commitNow_kept _ _).trans ((finishAll_kept _ _ _).trans
      (kept_foldl _ (fun _ _ => finishOp_kept _ _ _ _) _ _))

@[simp] theorem vblankNow_kept (s : State) (k : Fin 4) : kept (vblankNow s k) = kept s := by
  simp [vblankNow]

@[simp] theorem frameNow_kept (s : State) (k : Fin 4) : kept (frameNow s k) = kept s := by
  simp [frameNow]

@[simp] theorem nextPixel_kept (s : State) (k : Fin 4) : kept (nextPixel s k) = kept s := by
  simp [nextPixel]

@[simp] theorem reDue_kept (s : State) (k : Fin 4) : kept (reDue s k) = kept s := by
  simp [reDue]

@[simp] theorem reCycle_kept (s : State) (p : Fin 16) (first : Bool) (per : Nat) (k : Fin 4) :
    kept (reCycle s p first per k) = kept s := by
  simp [reCycle]

@[simp] theorem reCount_kept (s : State) (p : Fin 16) (counts : Bool) (per : Nat) (k : Fin 4) :
    kept (reCount s p counts per k) = kept s := by
  simp [reCount]

@[simp] theorem endStreams_kept (s : State) (p : Fin 16) (status : BitVec 8) :
    kept (endStreams s p status) = kept s := by
  simp [endStreams]

@[simp] theorem endMapped_kept (s : State) (p : Fin 16) : kept (endMapped s p) = kept s := by
  simp [endMapped]

/-! ### Machine/PlayOps.lean -/

@[simp] theorem vectorLevels_kept (s : State) (q : Fin 16) (ls : Fin 8) :
    kept (vectorLevels s q ls) = kept s := by
  simp [vectorLevels]

@[simp] theorem armedBits_kept (s : State) (q : Fin 16) (x : VCtx) : kept (armedBits s q x).2 = kept s := by
  unfold armedBits
  split <;> simp

@[simp] theorem playPlaza_kept (s : State) (p q : Fin 16) (x : VCtx) (mrk : Bool) (mids : List (BitVec 16))
    (pins : List PinWave) : kept (playPlaza s p q x mrk mids pins).1 = kept s := by
  unfold playPlaza
  extract_lets fr s1 outs sd s2 s3 clip stale s4 s5 s6
  have e1 : kept s1 = kept s := armedBits_kept _ _ _
  have e3 : kept s3 = kept s := (modSeq_kept _ _ _).trans ((modPlz_kept _ _ _).trans e1)
  have e5 : kept s5 = kept s := (modRun_kept _ _ _).trans ((modTim_kept _ _ _).trans e3)
  exact (kept_foldl _ (fun _ _ => markSeen_kept _ _ _) _ _).trans e5

@[simp] theorem takeOthers_kept (s : State) (p : Fin 16) (acts : List Act) :
    kept (takeOthers s p acts) = kept s := by
  unfold takeOthers
  generalize oneEvt acts = l
  refine kept_foldl _ (fun s a => ?_) l s
  cases a <;> simp only [takeAct_kept]

@[simp] theorem edgeFree_kept (s : State) (p : Fin 16) (edge : Bool) : kept (edgeFree s p edge) = kept s := by
  simp [edgeFree]

@[simp] theorem playCycle_kept (s : State) (p : Fin 16) (r : BitVec 320) (normal mrk : Bool) (acts : List Act)
    (id rep : Option Nat) (pins : List PinWave) :
    kept (playCycle s p r normal mrk acts id rep pins) = kept s := by
  have e1 : kept (if ((s.plz[p]).run.cyc == 0) = true then quietSet s p else s) = kept s := by
    split <;> simp
  unfold playCycle
  simp only [edgeFree_kept]
  refine (kept_foldl _ (fun _ _ => reCount_kept _ _ _ _ _) _ _).trans ((modRun_kept _ _ _).trans ?_)
  rw [kept_foldl_fst]
  · exact (kept_foldl _ (fun _ _ => vectorLevels_kept _ _ _) _ _).trans
      ((takeOthers_kept _ _ _).trans ((kept_foldl _ (fun _ _ => reCycle_kept _ _ _ _ _) _ _).trans e1))
  · intro a b
    exact playPlaza_kept _ _ _ _ _ _ _

/-! ### Machine/SerOps.lean -/

@[simp] theorem coreReadFails_kept (s : State) : kept (coreReadFails s) = kept s := by
  simp [coreReadFails]

@[simp] theorem failViews_kept (s : State) : kept (failViews s) = kept s := by
  simp [failViews]

@[simp] theorem failCoreViews_kept (s : State) : kept (failCoreViews s) = kept s := by
  simp [failCoreViews]

@[simp] theorem serveView_kept (s : State) (r : ViewRead) : kept (serveView s r) = kept s := by
  simp [serveView]

@[simp] theorem fetchClks_kept (s : State) (f : PmFetch) (mode modes n : Nat) :
    kept (fetchClks s f mode modes n).2 = kept s := by
  simp [fetchClks]

@[simp] theorem serveBlank_kept (s : State) : kept (serveBlank s) = kept s := by
  unfold serveBlank
  dsimp only
  split
  · exact (kept_foldl _ (fun _ _ => serveView_kept _ _) _ _).trans rfl
  · rfl

@[simp] theorem startFill_kept (s : State) : kept (startFill s) = kept s := by
  unfold startFill
  extract_lets s1
  have e1 : kept s1 = kept s := serveBlank_kept s
  split
  · exact e1
  · split
    · rename_i r _ _ _
      exact Eq.trans (fetchClks_kept s1 (viewFetch s1 (r.addr / 64 * 64)) s1.pm.mode.toNat s1.pm.rd.modes 0) e1
    · exact e1

@[simp] theorem releaseSel_kept (s : State) : kept (releaseSel s) = kept s := by
  simp [releaseSel]

@[simp] theorem endOmit_kept (s : State) : kept (endOmit s) = kept s := by
  unfold endOmit
  split <;> simp

@[simp] theorem startXfer_kept (s : State) (id : OpId) : kept (startXfer s id) = kept s := by
  unfold startXfer
  split
  · rfl
  · extract_lets d sel us wave waits s1 first wave' s2
    have e1 : kept s1 = kept s := by
      simp only [s1]
      split <;> simp
    split
    · exact Eq.trans rfl e1
    · exact Eq.trans rfl e1

@[simp] theorem endXfer_kept (s : State) (o : Op) : kept (endXfer s o) = kept s := by
  unfold endXfer
  dsimp only
  split <;> simp

@[simp] theorem pumpPm_kept (s : State) : kept (pumpPm s) = kept s := by
  unfold pumpPm
  dsimp only
  (repeat' split) <;> simp

@[simp] theorem closeXfer_kept (s : State) (o : Op) (r : PmRun) (st : BitVec 8) (entry : Nat) :
    kept (closeXfer s o r st entry) = kept s := by
  simp [closeXfer]

@[simp] theorem doomXfer_kept (s : State) (status : BitVec 8) : kept (doomXfer s status) = kept s := by
  unfold doomXfer
  dsimp only
  (repeat' split) <;> simp

@[simp] theorem pmFault_kept (s : State) : kept (pmFault s) = kept s := by
  unfold pmFault
  dsimp only
  split <;> simp

@[simp] theorem pmStopping_kept (s : State) : kept (pmStopping s) = kept s := by
  simp [pmStopping]

@[simp] theorem pmOff_kept (s : State) (stopped : Bool) : kept (pmOff s stopped) = kept s := by
  unfold pmOff
  dsimp only
  split <;> simp

@[simp] theorem pmStarting_kept (s : State) : kept (pmStarting s) = kept s := by
  simp [pmStarting]

@[simp] theorem basicTable_kept (s : State) (bs : List Byte) : kept (basicTable s bs).2 = kept s := by
  unfold basicTable
  dsimp only
  (repeat' split) <;> simp

@[simp] theorem quadUsable_kept (s : State) (t : List Byte) : kept (quadUsable s t).2 = kept s := by
  unfold quadUsable
  split <;> simp

@[simp] theorem flashKib_kept (s : State) (t : List Byte) : kept (flashKib s t).2 = kept s := by
  unfold flashKib
  split <;> simp

@[simp] theorem pmOn_kept (s : State) : kept (pmOn s) = kept s := by
  unfold pmOn
  dsimp only
  split <;> simp

/-! ### Machine/EngOps.lean -/

@[simp] theorem idleCheck_kept (s : State) : kept (idleCheck s) = kept s := by
  simp [idleCheck]

@[simp] theorem leaveIdle_kept (s : State) : kept (leaveIdle s) = kept s := by
  simp [leaveIdle]

@[simp] theorem setSt_kept (s : State) (e : Eng) (st : EngState) : kept (setSt s e st) = kept s := by
  simp [setSt]

@[simp] theorem noteSpans_kept (s : State) (e : Eng) : kept (noteSpans s e) = kept s := by
  unfold noteSpans
  split <;> simp

@[simp] theorem rejectReq_kept (s : State) (e : Eng) : kept (rejectReq s e) = kept s := by
  simp [rejectReq]

@[simp] theorem absorbReq_kept (s : State) (e : Eng) (m : Meet) : kept (absorbReq s e m) = kept s := by
  simp [absorbReq]

@[simp] theorem faultMeas_kept (s : State) (p : Fin 16) : kept (faultMeas s p) = kept s := by
  unfold faultMeas
  refine (pumpConv_kept _).trans ((kept_foldl _ (fun s n => ?_) _ _).trans (by simp))
  split <;> simp

@[simp] theorem faultProcs_kept (s : State) (e : Eng) : kept (faultProcs s e) = kept s := by
  unfold faultProcs
  dsimp only
  (repeat' split) <;> simp

@[simp] theorem faultActs_kept (s : State) (e : Eng) : kept (faultActs s e) = kept s := by
  unfold faultActs
  split <;> simp

@[simp] theorem stopActs_kept (s : State) (e : Eng) : kept (stopActs s e) = kept s := by
  unfold stopActs
  split <;> simp

@[simp] theorem leaveOn_kept (s : State) (e : Eng) : kept (leaveOn s e) = kept s := by
  unfold leaveOn
  split <;> simp

@[simp] theorem startActs_kept (s : State) (e : Eng) : kept (startActs s e) = kept s := by
  unfold startActs
  split <;> simp

@[simp] theorem onActs_kept (s : State) (e : Eng) : kept (onActs s e) = kept s := by
  unfold onActs
  split <;> simp

@[simp] theorem offActs_kept (s : State) (e : Eng) (stopped : Bool) : kept (offActs s e stopped) = kept s
    := by
  unfold offActs
  split <;> simp

@[simp] theorem faultCore_kept (s : State) (e : Eng) (code : BitVec 8) (st : BitVec 8) :
    kept (faultCore s e code st) = kept s := by
  simp [faultCore]

@[simp] theorem faultMany_kept (s : State) (es : List (Eng × BitVec 8)) (st : BitVec 8) (rep : Eng → Bool) :
    kept (faultMany s es st rep) = kept s := by
  simp [faultMany]

@[simp] theorem faultEng_kept (s : State) (e : Eng) (code : BitVec 8) : kept (faultEng s e code) = kept s
    := by
  simp [faultEng]

@[simp] theorem tripDps_kept (s : State) (n : Fin 32) (cause : BitVec 4) :
    kept (tripDps s n cause) = kept s := by
  simp [tripDps]

@[simp] theorem startEng_kept (s : State) (e : Eng) (ops : List OpId) : kept (startEng s e ops) = kept s := by
  simp [startEng]

@[simp] theorem stopEng_kept (s : State) (e : Eng) (ops : List OpId) : kept (stopEng s e ops) = kept s := by
  simp [stopEng]

@[simp] theorem offEng_kept (s : State) (e : Eng) (stopped : Bool) : kept (offEng s e stopped) = kept s := by
  simp [offEng]

@[simp] theorem enableEng_kept (s : State) (e : Eng) (op : Option OpId) (m : Meet) :
    kept (enableEng s e op m) = kept s := by
  unfold enableEng
  dsimp only
  (repeat' split) <;> simp

@[simp] theorem offFaulted_kept (s : State) (e : Eng) : kept (offFaulted s e) = kept s := by
  simp [offFaulted]

@[simp] theorem disableEng_kept (s : State) (e : Eng) (op : Option OpId) (m : Meet) :
    kept (disableEng s e op m) = kept s := by
  unfold disableEng
  dsimp only
  (repeat' split) <;> simp

@[simp] theorem enableOp_kept (s : State) (e : Eng) (id : OpId) (m : Meet) :
    kept (enableOp s e id m) = kept s := by
  simp [enableOp]

@[simp] theorem startDone_kept (s : State) (e : Eng) : kept (startDone s e) = kept s := by
  simp [startDone]

@[simp] theorem stopDone_kept (s : State) (e : Eng) : kept (stopDone s e) = kept s := by
  unfold stopDone
  dsimp only
  (repeat' split) <;> simp

@[simp] theorem heldEnable_kept (s : State) (e : Eng) : kept (heldEnable s e) = kept s := by
  simp [heldEnable]

@[simp] theorem engTimeout_kept (s : State) (e : Eng) (starting : Bool) :
    kept (engTimeout s e starting) = kept s := by
  simp [engTimeout]

/-! ### Machine/Abort.lean -/

@[simp] theorem freeRange_roots (s : State) (a n : Nat) : (kept (freeRange s a n)).1 = (kept s).1 := by
  simp [freeRange]

@[simp] theorem freeRange_mems (s : State) (a n : Nat) (h : (kept s).2.wf = true) :
    (kept (freeRange s a n)).2.wf = true := by
  simp [freeRange, h]

@[simp] theorem dropAcqOp_kept (s : State) (o : Op) (st : BitVec 8) : kept (dropAcqOp s o st) = kept s := by
  unfold dropAcqOp
  split <;> simp

@[simp] theorem dropTmuOp_kept (s : State) (o : Op) (d : List Word) (st : BitVec 8) :
    kept (dropTmuOp s o d st) = kept s := by
  unfold dropTmuOp
  dsimp only
  split <;> simp

@[simp] theorem dropSeqJump_kept (s : State) (o : Op) (st : BitVec 8) : kept (dropSeqJump s o st) = kept s
    := by
  simp [dropSeqJump]

@[simp] theorem abandon_roots (s : State) (o : Op) (st : BitVec 8) : (kept (abandon s o st)).1 = (kept s).1
    := by
  unfold abandon
  dsimp only
  (repeat' split) <;> simp

@[simp] theorem abandon_mems (s : State) (o : Op) (st : BitVec 8) (h : (kept s).2.wf = true) :
    (kept (abandon s o st)).2.wf = true := by
  unfold abandon
  dsimp only
  (repeat' split) <;> simp [h]

@[simp] theorem abortOp_roots (s : State) (id : OpId) (st : BitVec 8) : (kept (abortOp s id st)).1 =
    (kept s).1 := by
  unfold abortOp
  (repeat' split) <;> simp

@[simp] theorem abortOp_mems (s : State) (id : OpId) (st : BitVec 8) (h : (kept s).2.wf = true) :
    (kept (abortOp s id st)).2.wf = true := by
  unfold abortOp
  (repeat' split) <;> simp [h]

/-! ### Machine/Awg.lean -/

theorem execAwgCfg_kept (op : OpId) (s : State) (t : State) (h : execAwgCfg op s = .next t) :
    kept t = kept s := by
  cases h
  refine kept_runDesc _ _ _ _ fun s o d => ?_
  simp

theorem execAwgWrite_kept (op : OpId) (s : State) (t : State) (h : execAwgWrite op s = .next t) :
    kept t = kept s := by
  cases h
  refine kept_runDesc _ _ _ _ fun s o d => ?_
  simp

theorem execAwgWriteDone_roots (op : OpId) (s t : State) (h : execAwgWriteDone op s = .next t) :
    (kept t).1 = (kept s).1 := by
  cases h
  refine roots_onRunning _ _ _ _ fun o d => ?_
  refine (congrArg Prod.fst (finishOp_kept _ _ _ _)).trans ?_
  exact (congrArg Prod.fst (modAwg_kept _ _ _)).trans (dramWrite_roots _ _ _)

theorem execAwgWriteDone_mems (op : OpId) (s t : State) (h' : execAwgWriteDone op s = .next t)
    (h : (kept s).2.wf = true) : (kept t).2.wf = true := by
  cases h'
  refine mems_onRunning _ _ _ _ (fun o d => ?_) h
  refine (congrArg (fun x : Roots × Mems => x.2.wf) (finishOp_kept _ _ _ _)).trans ?_
  refine (congrArg (fun x : Roots × Mems => x.2.wf) (modAwg_kept _ _ _)).trans ?_
  exact dramWrite_mems _ _ _ h

theorem execAwgSeq_kept (op : OpId) (s : State) (t : State) (h : execAwgSeq op s = .next t) :
    kept t = kept s := by
  cases h
  refine kept_runDesc _ _ _ _ fun s o d => ?_
  dsimp only
  (repeat' split) <;> simp

theorem execAwgRun_kept (op : OpId) (s : State) (t : State) (h : execAwgRun op s = .next t) :
    kept t = kept s := by
  cases h
  refine kept_runDesc _ _ _ _ fun s o d => ?_
  simp

theorem execAwgTrigger_kept (a : PlazaIx) (s : State) (t : State) (h : execAwgTrigger a s = .next t) :
    kept t = kept s := by
  unfold execAwgTrigger at h
  dsimp only at h
  (repeat' split at h) <;> cases h <;> simp

theorem execAwgDecisionPoint_kept (a : PlazaIx) (s : State) (t : State)
    (h : execAwgDecisionPoint a s = .next t) : kept t = kept s := by
  unfold execAwgDecisionPoint at h
  dsimp only at h
  (repeat' split at h) <;> cases h <;> simp

theorem execAwgPlayEnd_kept (a : PlazaIx) (s : State) (t : State) (h : execAwgPlayEnd a s = .next t) :
    kept t = kept s := by
  unfold execAwgPlayEnd at h
  dsimp only at h
  (repeat' split at h) <;> cases h <;> simp

theorem execAwgUnderrun_kept (a : PlazaIx) (clocks : Nat) (s : State) (t : State)
    (h : execAwgUnderrun a clocks s = .next t) : kept t = kept s := by
  unfold execAwgUnderrun at h
  dsimp only at h
  (repeat' split at h) <;> cases h <;> simp

theorem execAwgJump_kept (op : OpId) (s : State) (t : State) (h : execAwgJump op s = .next t) :
    kept t = kept s := by
  cases h
  refine kept_runDesc _ _ _ _ fun s o d => ?_
  simp

@[simp] theorem awgLaneStart_kept (s : State) (a : Fin 16) : kept (awgLaneStart s a) = kept s := by
  simp [awgLaneStart]

@[simp] theorem awgLaneJump_kept (s : State) (a : Fin 16) : kept (awgLaneJump s a) = kept s := by
  simp [awgLaneJump]

/-! ### Machine/CtxOps.lean -/

@[simp] theorem clearLatches_kept (s : State) (n : Fin 64) : kept (clearLatches s n) = kept s := by
  simp [clearLatches]

@[simp] theorem disableLane_kept (s : State) (n : Fin 64) : kept (disableLane s n) = kept s := by
  simp [disableLane]

@[simp] theorem releaseRes_kept (s : State) (r : Res) : kept (releaseRes s r) = kept s := by
  unfold releaseRes
  split <;> simp

@[simp] theorem endDisable_kept (s : State) (e : Eng) : kept (endDisable s e) = kept s := by
  simp [endDisable]

@[simp] theorem abortLoose_roots (s : State) (ops : List Op) : (kept (abortLoose s ops)).1 = (kept s).1 := by
  refine roots_foldl _ (fun s x => ?_) _ _
  split
  · split <;> simp
  · rfl

@[simp] theorem abortLoose_mems (s : State) (ops : List Op) (h : (kept s).2.wf = true) :
    (kept (abortLoose s ops)).2.wf = true := by
  refine mems_foldl _ (fun s x h => ?_) _ _ h
  split
  · split <;> simp [h]
  · exact h

@[simp] theorem closeAcqs_kept (s : State) (c : CtxId) (ops : List Op) : kept (closeAcqs s c ops) = kept s
    := by
  unfold closeAcqs
  (repeat' split) <;> simp

@[simp] theorem abortCtx_roots (s : State) (c : CtxId) : (kept (abortCtx s c)).1 = (kept s).1 := by
  simp [abortCtx]

@[simp] theorem abortCtx_mems (s : State) (c : CtxId) (h : (kept s).2.wf = true) :
    (kept (abortCtx s c)).2.wf = true := by
  unfold abortCtx
  refine abortLoose_mems _ _ (mems_foldl _ (fun s e h => by simp [h]) _ _ (abortLoose_mems _ _ ?_))
  refine mems_of_kept ?_ h
  rw [closeAcqs_kept, kept_foldl, dropSteps_kept]
  intro s o
  split <;> simp

@[simp] theorem detachRing_kept (s : State) (n : RingId) : kept (detachRing s n) = kept s := by
  unfold detachRing
  (repeat' split) <;> simp

@[simp] theorem eventGone_kept (s : State) (r : EqRec) : kept (eventGone s r) = kept s := by
  simp [eventGone]

@[simp] theorem dropEq_kept (s : State) (c : CtxId) : kept (dropEq s c) = kept s := by
  simp [dropEq]

@[simp] theorem postMoved_kept (s : State) (r : EqRec) : kept (postMoved s r) = kept s := by
  simp [postMoved]

@[simp] theorem moveEq_kept (s : State) (c : CtxId) : kept (moveEq s c) = kept s := by
  simp [moveEq]

@[simp] theorem closeEngines_kept (s : State) (c : CtxId) (op : Option OpId) (hit : List Eng) :
    kept (closeEngines s c op hit) = kept s := by
  simp [closeEngines]

@[simp] theorem finishClose_kept (s : State) (x : Ctx) (op : Option OpId) :
    kept (finishClose s x op) = kept s := by
  unfold finishClose
  (repeat' split) <;> simp

@[simp] theorem closeCheck_kept (s : State) : kept (closeCheck s) = kept s := by
  unfold closeCheck
  refine kept_foldl _ (fun _ _ => ?_) _ _
  split <;> simp

@[simp] theorem ctxDrained_kept (s : State) (c : CtxId) : kept (ctxDrained s c) = kept s := by
  unfold ctxDrained
  (repeat' split) <;> simp

/-! ### Machine/Lanes.lean -/

@[simp] theorem addTrigger_kept (s : State) (t : Trigger) : kept (addTrigger s t) = kept s := by
  unfold addTrigger
  (repeat' split) <;> simp

@[simp] theorem setGate_kept (s : State) (n : Fin 64) : kept (setGate s n) = kept s := by
  simp [setGate]

@[simp] theorem gateFirst_kept (s : State) (n : Fin 64) : kept (gateFirst s n) = kept s := by
  unfold gateFirst
  split <;> simp

@[simp] theorem runaway_kept (s : State) (n : Fin 64) : kept (runaway s n) = kept s := by
  simp [runaway]

@[simp] theorem carry_kept (s : State) (n : Fin 64) (payload : BitVec 8) :
    kept (carry s n payload).1 = kept s := by
  unfold carry
  dsimp only
  (repeat' split) <;> simp

@[simp] theorem carryOne_kept (payload : BitVec 8) (s : State) (n : Fin 64) :
    kept (carryOne payload s n) = kept s := by
  unfold carryOne
  dsimp only
  split <;> simp

@[simp] theorem carryAll_kept (s : State) (ns : List (Fin 64)) (payload : BitVec 8) :
    kept (carryAll s ns payload) = kept s := by
  simp [carryAll]

@[simp] theorem softFire_kept (s : State) (ns : List (Fin 64)) (payload : BitVec 8) :
    kept (softFire s ns payload) = kept s := by
  simp [softFire]

@[simp] theorem sourceEvent_kept (s : State) (src : BitVec 8) : kept (sourceEvent s src) = kept s := by
  unfold sourceEvent
  split <;> simp

theorem execLaneSourceEvent_kept (src : BitVec 8) (s : State) (t : State)
    (h : execLaneSourceEvent src s = .next t) : kept t = kept s := by
  cases h
  simp

@[simp] theorem eventsFirst_kept (s : State) (n : Fin 64) : kept (eventsFirst s n) = kept s := by
  simp [eventsFirst]

@[simp] theorem applyLane_kept (s : State) (n : Fin 64) (w : Word) : kept (applyLane s n w) = kept s := by
  simp [applyLane]

theorem execLaneCfg_kept (op : OpId) (s : State) (t : State) (h : execLaneCfg op s = .next t) :
    kept t = kept s := by
  cases h
  refine kept_runDesc _ _ _ _ fun s o d => ?_
  simp

@[simp] theorem writeLanCfg_kept (s : State) (n : Fin 64) (w : Word) : kept (writeLanCfg s n w) = kept s := by
  simp [writeLanCfg]

theorem execLanCfgWrite_kept (n : Fin 64) (w : Word) (s : State) (t : State)
    (h : execLanCfgWrite n w s = .next t) : kept t = kept s := by
  cases h
  simp

theorem execLaneFire_kept (op : OpId) (s : State) (t : State) (h : execLaneFire op s = .next t) :
    kept t = kept s := by
  cases h
  refine kept_runDesc _ _ _ _ fun s o d => ?_
  simp

@[simp] theorem ackLanes_kept (s : State) (m : BitVec 64) : kept (ackLanes s m) = kept s := by
  simp [ackLanes]

theorem execLaneAck_kept (op : OpId) (s : State) (t : State) (h : execLaneAck op s = .next t) :
    kept t = kept s := by
  cases h
  refine kept_runDesc _ _ _ _ fun s o d => ?_
  simp

@[simp] theorem fireLanes_kept (s : State) (m : BitVec 64) : kept (fireLanes s m) = kept s := by
  simp [fireLanes]

theorem execLanFireWrite_kept (lanes : BitVec 64) (s : State) (t : State)
    (h : execLanFireWrite lanes s = .next t) : kept t = kept s := by
  cases h
  simp

theorem execLanAckWrite_kept (lanes : BitVec 64) (s : State) (t : State)
    (h : execLanAckWrite lanes s = .next t) : kept t = kept s := by
  cases h
  simp

theorem kept_onTrig (s : State) (task : Nat) (lane : Option (Fin 64)) (busy : State → Trigger → Bool)
    (f : State → Trigger → State) (h : ∀ s t, kept (f s t) = kept s) :
      kept (onTrig s task lane busy f) = kept s := by
  unfold onTrig
  dsimp only
  split
  · rfl
  · split <;> simp [h]

theorem execPlzEn_kept (p : PlazaIx) (m : Meet) (s : State) (t : State) (h : execPlzEn p m s = .next t) :
    kept t = kept s := by
  cases h
  refine kept_onTrig _ _ _ _ _ fun s t => ?_
  simp

theorem execPlzDis_kept (p : PlazaIx) (m : Meet) (s t : State) (h : execPlzDis p m s = .next t) :
    kept t = kept s := by
  cases h
  exact (closeCheck_kept _).trans (kept_onTrig _ _ _ _ _ fun s t => disableEng_kept _ _ _ _)

@[simp] theorem releaseSync_kept (s : State) (p : Fin 16) (src line : Nat) :
    kept (releaseSync s p src line) = kept s := by
  simp [releaseSync]

theorem execSeqSync_kept (p : PlazaIx) (s : State) (t : State) (h : execSeqSync p s = .next t) :
    kept t = kept s := by
  cases h
  refine kept_onTrig _ _ _ _ _ fun s t => ?_
  simp

theorem execTaskSeqJump_kept (p : PlazaIx) (s : State) (t : State) (h : execTaskSeqJump p s = .next t) :
    kept t = kept s := by
  cases h
  refine kept_onTrig _ _ _ _ _ fun s t => ?_
  simp

theorem execMeasTrig_kept (p : PlazaIx) (s : State) (t : State) (h : execMeasTrig p s = .next t) :
    kept t = kept s := by
  cases h
  refine kept_onTrig _ _ _ _ _ fun s t => ?_
  simp

theorem execTmuArm_kept (p : PlazaIx) (s : State) (t : State) (h : execTmuArm p s = .next t) :
    kept t = kept s := by
  cases h
  refine kept_onTrig _ _ _ _ _ fun s t => ?_
  simp

theorem execAwgStart_kept (a : PlazaIx) (s : State) (t : State) (h : execAwgStart a s = .next t) :
    kept t = kept s := by
  cases h
  refine kept_onTrig _ _ _ _ _ fun s t => ?_
  simp

theorem execTaskAwgJump_kept (a : PlazaIx) (s : State) (t : State) (h : execTaskAwgJump a s = .next t) :
    kept t = kept s := by
  cases h
  refine kept_onTrig _ _ _ _ _ fun s t => ?_
  simp

theorem execDpsEn_kept (n : Fin 32) (m : Meet) (s : State) (t : State) (h : execDpsEn n m s = .next t) :
    kept t = kept s := by
  cases h
  refine kept_onTrig _ _ _ _ _ fun s t => ?_
  simp

theorem execDpsDis_kept (n : Fin 32) (m : Meet) (s t : State) (h : execDpsDis n m s = .next t) :
    kept t = kept s := by
  cases h
  exact (closeCheck_kept _).trans (kept_onTrig _ _ _ _ _ fun s t => disableEng_kept _ _ _ _)

theorem execDpsBlank_kept (n : Fin 32) (s : State) (t : State) (h : execDpsBlank n s = .next t) :
    kept t = kept s := by
  cases h
  refine kept_onTrig _ _ _ _ _ fun s t => ?_
  simp

theorem execReStart_kept (k : Fin 4) (s : State) (t : State) (h : execReStart k s = .next t) :
    kept t = kept s := by
  cases h
  refine kept_onTrig _ _ _ _ _ fun s t => ?_
  simp

theorem execWake_kept (s : State) (t : State) (h : execWake s = .next t) : kept t = kept s := by
  cases h
  refine kept_onTrig _ _ _ _ _ fun s t => ?_
  simp

@[simp] theorem laneEvent_kept (s : State) (n : Fin 64) (payload : BitVec 8) :
    kept (laneEvent s n payload) = kept s := by
  simp [laneEvent]

theorem execHost_kept (lane : Fin 64) (s : State) (t : State) (h : execHost lane s = .next t) :
    kept t = kept s := by
  cases h
  refine kept_onTrig _ _ _ _ _ fun s t => ?_
  simp

theorem execAndGate_kept (lane : Fin 64) (s : State) (t : State) (h : execAndGate lane s = .next t) :
    kept t = kept s := by
  cases h
  refine kept_onTrig _ _ _ _ _ fun s t => ?_
  simp

@[simp] theorem cmArm_kept (s : State) (on : Bool) : kept (cmArm s on) = kept s := by
  simp [cmArm]

@[simp] theorem cmPulse_kept (s : State) (halt : Bool) : kept (cmPulse s halt) = kept s := by
  simp [cmPulse]

theorem cmCtl_kept (s : State) (op : Option OpId) (n : Nat) (f : State → State)
    (h : ∀ s, kept (f s) = kept s) : kept (cmCtl s op n f) = kept s := by
  unfold cmCtl
  split
  · split <;> simp [h]
  · split
    · rfl
    · split
      · rfl
      · refine kept_runDesc _ _ _ _ fun s o d => ?_
        dsimp only
        (repeat' split) <;> simp [h]

theorem execCmCtlArm_kept (op : Option OpId) (s t : State) (h : execCmCtlArm op s = .next t) :
    kept t = kept s := by
  unfold execCmCtlArm at h; cases h
  exact cmCtl_kept _ _ _ _ fun s => by simp

theorem execCmCtlDisarm_kept (op : Option OpId) (s t : State) (h : execCmCtlDisarm op s = .next t) :
    kept t = kept s := by
  unfold execCmCtlDisarm at h; cases h
  exact cmCtl_kept _ _ _ _ fun s => by simp

theorem execCmCtlFire_kept (op : Option OpId) (s t : State) (h : execCmCtlFire op s = .next t) :
    kept t = kept s := by
  unfold execCmCtlFire at h; cases h
  exact cmCtl_kept _ _ _ _ fun s => by simp

theorem execCmCtlHalt_kept (op : Option OpId) (s t : State) (h : execCmCtlHalt op s = .next t) :
    kept t = kept s := by
  unfold execCmCtlHalt at h; cases h
  exact cmCtl_kept _ _ _ _ fun s => by simp

theorem execCmArmOut_kept (s : State) (t : State) (h : execCmArmOut s = .next t) : kept t = kept s := by
  cases h
  refine kept_onTrig _ _ _ _ _ fun s t => ?_
  simp

theorem execCmFireOut_kept (s : State) (t : State) (h : execCmFireOut s = .next t) : kept t = kept s := by
  cases h
  refine kept_onTrig _ _ _ _ _ fun s t => ?_
  simp

theorem execCmHaltOut_kept (s : State) (t : State) (h : execCmHaltOut s = .next t) : kept t = kept s := by
  cases h
  refine kept_onTrig _ _ _ _ _ fun s t => ?_
  simp

theorem execCmPulseEnd_kept (halt : Bool) (s : State) (t : State) (h : execCmPulseEnd halt s = .next t) :
    kept t = kept s := by
  cases h
  simp

theorem execCmArmDetect_kept (s : State) (t : State) (h : execCmArmDetect s = .next t) : kept t = kept s := by
  cases h
  simp

@[simp] theorem startArmed_kept (s : State) (arm : Nat) : kept (startArmed s arm) = kept s := by
  simp [startArmed]

theorem execCmFireDetect_kept (armLow : Bool) (s : State) (t : State)
    (h : execCmFireDetect armLow s = .next t) : kept t = kept s := by
  cases h
  simp

theorem execCmHaltDetect_kept (s : State) (t : State) (h : execCmHaltDetect s = .next t) : kept t = kept s
    := by
  cases h
  simp

theorem execAutodisarm_kept (s : State) (t : State) (h : execAutodisarm s = .next t) : kept t = kept s := by
  cases h
  simp

/-! ### Machine/Avenue.lean -/

@[simp] theorem openDiv_kept (s : State) (a : Int) (b : Nat) : kept (openDiv s a b).2 = kept s := by
  unfold openDiv
  dsimp only
  split <;> simp

@[simp] theorem avSendNow_kept (s : State) (n : Fin 8) (payload : BitVec 8) (op : Option OpId) :
    kept (avSendNow s n payload op) = kept s := by
  simp [avSendNow]

@[simp] theorem avStop_kept (s : State) (st : AvState) : kept (avStop s st) = kept s := by
  simp [avStop]

@[simp] theorem avBegin_kept (s : State) (op : Option OpId) : kept (avBegin s op) = kept s := by
  simp [avBegin]

@[simp] theorem avFail_kept (s : State) : kept (avFail s) = kept s := by
  simp [avFail]

@[simp] theorem avDelay_kept (s : State) (u : AvUnit) : kept (avDelay s u).2 = kept s := by
  simp [avDelay]

@[simp] theorem avTrained_kept (s : State) (us : List AvUnit) (v : Nat) : kept (avTrained s us v) = kept s
    := by
  unfold avTrained
  extract_lets r s1 m ids a s2
  have e : kept r.2 = kept s := by
    simp only [r]
    refine kept_foldl_snd _ (fun a x => ?_) _ _
    exact avDelay_kept _ _
  exact (kept_foldl _ (fun _ _ => finishOp_kept _ _ _ _) _ _).trans e

@[simp] theorem avFollow_kept (s : State) (us : List AvUnit) (ver : Nat) :
    kept (avFollow s us ver) = kept s := by
  unfold avFollow
  split <;> simp

@[simp] theorem avReport_kept (s : State) (res : AvTrainRes) : kept (avReport s res) = kept s := by
  unfold avReport
  (repeat' split) <;> simp

theorem execAvTrain_kept (op : Option OpId) (r : AvTrainRes) (s t : State)
    (h : execAvTrain op r s = .next t) :
    kept t = kept s := by
  cases h
  split
  · split
    · split <;> simp
    · split <;> simp
  · split
    · unfold runDesc
      split
      · rfl
      · split
        · dsimp only
          (repeat' split) <;> simp
        · rfl
    · split <;> simp

theorem execAvTrainTimeout_kept (s : State) (t : State) (h : execAvTrainTimeout s = .next t) :
    kept t = kept s := by
  cases h
  simp

theorem execAvSend_kept (op : OpId) (s : State) (t : State) (h : execAvSend op s = .next t) :
    kept t = kept s := by
  cases h
  refine kept_runDesc _ _ _ _ fun s o d => ?_
  simp

theorem execAvOut_kept (line : Fin 8) (s : State) (t : State) (h : execAvOut line s = .next t) :
    kept t = kept s := by
  cases h
  refine kept_onTrig _ _ _ _ _ fun s t => ?_
  simp

theorem execAvFrameSent_kept (line : Fin 8) (s : State) (t : State) (h : execAvFrameSent line s = .next t) :
    kept t = kept s := by
  cases h
  dsimp only
  (repeat' split) <;> simp

theorem execAvFrameReceive_kept (line : Fin 8) (frame : BitVec 40) (s : State) (t : State)
    (h : execAvFrameReceive line frame s = .next t) : kept t = kept s := by
  cases h
  simp

theorem execAvPulseReceive_kept (line : Fin 8) (s : State) (t : State)
    (h : execAvPulseReceive line s = .next t) : kept t = kept s := by
  cases h
  simp

theorem execAvEffect_kept (line : Fin 8) (s : State) (t : State) (h : execAvEffect line s = .next t) :
    kept t = kept s := by
  cases h
  split <;> simp

theorem execAvLinkLost_kept (s : State) (t : State) (h : execAvLinkLost s = .next t) : kept t = kept s := by
  cases h
  simp

@[simp] theorem avOff_kept (s : State) : kept (avOff s) = kept s := by
  simp [avOff]

theorem execAvCfgEnClear_kept (s : State) (t : State) (h : execAvCfgEnClear s = .next t) : kept t = kept s
    := by
  cases h
  simp

/-! ### Machine/BootOps.lean -/

@[simp] theorem setRail_kept (s : State) (r : Rail) (b : Bool) : kept (setRail s r b) = kept s := by
  simp [setRail]

@[simp] theorem bringUp_kept (s : State) : kept (bringUp s) = kept s := by
  simp [bringUp]

@[simp] theorem railsDown_kept (s : State) (o : Nat) : kept (railsDown s o) = kept s := by
  simp [railsDown]

@[simp] theorem freshCore_roots (s : State) : (kept (freshCore s)).1 = (kept s).1 := (rfl)

@[simp] theorem freshCore_mems (s : State) (h : (kept s).2.wf = true) : (kept (freshCore s)).2.wf = true := by
  simp only [Mems.wf, kept, freshCore, Bool.and_eq_true] at h ⊢
  exact ⟨⟨⟨⟨h.1.1.1.1, h.1.1.1.2⟩, rfl⟩, h.1.2⟩, rfl⟩

@[simp] theorem keepHist_kept (s t : State) : kept (keepHist s t) = kept t := (rfl)

@[simp] theorem keepFaults_kept (s t : State) : kept (keepFaults s t) = kept t := (rfl)

@[simp] theorem keepMon_kept (s t : State) : kept (keepMon s t) = kept t := (rfl)

@[simp] theorem keepLanes_kept (s t : State) : kept (keepLanes s t) = kept t := (rfl)

@[simp] theorem keepLichen_kept (s t : State) : kept (keepLichen s t) = kept t := (rfl)

@[simp] theorem keepFrame_kept (s t : State) : kept (keepFrame s t) = kept t := (rfl)

@[simp] theorem parkAll_kept (s : State) : kept (parkAll s) = kept s := by
  simp [parkAll]

@[simp] theorem firstCodes_kept (s : State) (restore : Bool) : kept (firstCodes s restore) = kept s := by
  simp [firstCodes]

@[simp] theorem bootBegin_roots (s : State) : (kept (bootBegin s)).1 = (kept s).1 := by
  simp [bootBegin]

@[simp] theorem bootBegin_mems (s : State) (h : (kept s).2.wf = true) : (kept (bootBegin s)).2.wf = true := by
  simp [bootBegin, h]

@[simp] theorem resume_roots (s : State) : (kept (resume s)).1 = (kept s).1 := by
  simp [resume]

@[simp] theorem resume_mems (s : State) (h : (kept s).2.wf = true) : (kept (resume s)).2.wf = true := by
  simp [resume, h]

@[simp] theorem porMarks_kept (t : State) : kept (porMarks t) = kept t := (rfl)

@[simp] theorem lichenLost_kept (t : State) : kept (lichenLost t) = kept t := (rfl)

@[simp] theorem porNow_roots (s : State) (l : Bool) : (kept (porNow s l)).1 = (kept s).1 := by
  cases l <;> simp [porNow]

@[simp] theorem porNow_mems (s : State) (l : Bool) (h : (kept s).2.wf = true) :
    (kept (porNow s l)).2.wf = true := by
  cases l <;> simp [porNow, h]

@[simp] theorem perstMarks_kept (t : State) : kept (perstMarks t) = kept t := (rfl)

@[simp] theorem perstNow_roots (s : State)  : (kept (perstNow s )).1 = (kept s).1 := by
  simp [perstNow]

@[simp] theorem perstNow_mems (s : State)  (h : (kept s).2.wf = true) :
    (kept (perstNow s )).2.wf = true := by
  simp [perstNow, h]

@[simp] theorem freeLanes_kept (s t : State) : kept (freeLanes s t) = kept t := (rfl)

@[simp] theorem selfMarks_kept (t : State) (c : SelfCause) : kept (selfMarks t c) = kept t := (rfl)

@[simp] theorem selfReset_roots (s : State) (c : SelfCause) : (kept (selfReset s c)).1 = (kept s).1 := by
  unfold selfReset
  split <;> simp

@[simp] theorem selfReset_mems (s : State) (c : SelfCause) (h : (kept s).2.wf = true) :
    (kept (selfReset s c)).2.wf = true := by
  unfold selfReset
  split <;> simp [h]

@[simp] theorem sleepMarks_kept (s t : State) : kept (sleepMarks s t) = kept t := (rfl)

@[simp] theorem sleepNow_roots (s : State)  : (kept (sleepNow s )).1 = (kept s).1 := by
  simp [sleepNow]

@[simp] theorem sleepNow_mems (s : State)  (h : (kept s).2.wf = true) :
    (kept (sleepNow s )).2.wf = true := by
  simp [sleepNow, h]

@[simp] theorem wakeMarks_kept (s t : State) : kept (wakeMarks s t) = kept t := (rfl)

@[simp] theorem wakeNow_roots (s : State)  : (kept (wakeNow s )).1 = (kept s).1 := by
  simp [wakeNow]

@[simp] theorem wakeNow_mems (s : State)  (h : (kept s).2.wf = true) :
    (kept (wakeNow s )).2.wf = true := by
  simp [wakeNow, h]

@[simp] theorem recover_kept (s : State) : kept (recover s) = kept s := by
  simp [recover]

@[simp] theorem startFw_kept (s : State) (t : Nat) (m : List Byte) : kept (startFw s t m) = kept s := by
  simp [startFw]

@[simp] theorem trySecond_kept (s : State) : kept (trySecond s) = kept s := by
  unfold trySecond
  dsimp only
  split <;> simp

@[simp] theorem bootTry_kept (s : State) : kept (bootTry s) = kept s := by
  unfold bootTry
  dsimp only
  (repeat' split) <;> simp

@[simp] theorem bootHook_kept (s : State) (e : Eng) : kept (bootHook s e) = kept s := by
  simp [bootHook]

@[simp] theorem failPatch_kept (s : State) (c : BitVec 4) : kept (failPatch s c) = kept s := by
  simp [failPatch]

@[simp] theorem loadPatch_kept (s : State) : kept (loadPatch s) = kept s := by
  unfold loadPatch
  dsimp only
  (repeat' split) <;> simp

@[simp] theorem fwRunning_kept (s : State) : kept (fwRunning s) = kept s := by
  simp [fwRunning]

end Sys2Proof.Machine
end

