-- ==== Sys2Proof/Laws/KeptExec.lean ====
section
/-! SUPPORT. What each command keeps (see Laws/Kept.lean): the families up to the fault aggregator. -/

namespace Sys2Proof.Machine

/-! ### Machine/Dps.lean -/

theorem execDpsCfg_kept (op : OpId) (s : State) (t : State) (h : execDpsCfg op s = .next t) :
    kept t = kept s := by
  cases h
  refine kept_runDesc _ _ _ _ fun s o d => ?_
  simp

theorem execDpsRampEnd_kept (n : Fin 32) (s : State) (t : State) (h : execDpsRampEnd n s = .next t) :
    kept t = kept s := by
  cases h
  simp

theorem execBlankEnd_kept (n : Fin 32) (s : State) (t : State) (h : execBlankEnd n s = .next t) :
    kept t = kept s := by
  cases h
  simp

theorem execDpsMeas_kept (op : OpId) (s : State) (t : State) (h : execDpsMeas op s = .next t) :
    kept t = kept s := by
  cases h
  refine kept_runDesc _ _ _ _ fun s o d => ?_
  simp

theorem execDpsMeasDone_kept (op : OpId) (codes : List Int) (limited : Bool) (s : State) (t : State)
    (h : execDpsMeasDone op codes limited s = .next t) : kept t = kept s := by
  cases h
  refine kept_onRunning _ _ _ _ fun o d => ?_
  simp

theorem execMonCfg_kept (op : OpId) (s : State) (t : State) (h : execMonCfg op s = .next t) :
    kept t = kept s := by
  cases h
  refine kept_runDesc _ _ _ _ fun s o d => ?_
  simp

theorem execMonCheck_kept (op : OpId) (s : State) (t : State) (h : execMonCheck op s = .next t) :
    kept t = kept s := by
  cases h
  refine kept_runDesc _ _ _ _ fun s o d => ?_
  simp

theorem execMonCheckDone_roots (op : OpId) (res : List MonCheckRes) (s t : State)
    (h : execMonCheckDone op res s = .next t) : (kept t).1 = (kept s).1 := by
  cases h
  refine roots_onRunning _ _ _ _ fun o d => ?_
  extract_lets ns rs failed s1 s2 s3
  have e : kept s3 = kept s1 :=
    (finishOp_kept _ _ _ _).trans (kept_foldl _ (fun s n => by split <;> simp) _ _)
  split
  · exact roots_of_kept ((leaveMon_kept _ _).trans e) (hostWrite_roots _ _ _)
  · rfl

theorem execMonCheckDone_mems (op : OpId) (res : List MonCheckRes) (s t : State)
    (h' : execMonCheckDone op res s = .next t) (h : (kept s).2.wf = true) : (kept t).2.wf = true := by
  cases h'
  refine mems_onRunning _ _ _ _ (fun o d => ?_) h
  extract_lets ns rs failed s1 s2 s3
  have e : kept s3 = kept s1 :=
    (finishOp_kept _ _ _ _).trans (kept_foldl _ (fun s n => by split <;> simp) _ _)
  split
  · exact mems_of_kept ((leaveMon_kept _ _).trans e) (hostWrite_mems _ _ _ h)
  · exact h

theorem execWindowMonitorTrip_kept (n : Fin 32) (vout iout : Int) (s : State) (t : State)
    (h : execWindowMonitorTrip n vout iout s = .next t) : kept t = kept s := by
  unfold execWindowMonitorTrip at h
  dsimp only at h
  (repeat' split at h) <;> cases h <;> simp

theorem execSenseLost_kept (n : Fin 32) (s : State) (t : State) (h : execSenseLost n s = .next t) :
    kept t = kept s := by
  cases h
  simp

theorem execDpsDropout_kept (n : Fin 32) (s : State) (t : State) (h : execDpsDropout n s = .next t) :
    kept t = kept s := by
  cases h
  simp

theorem execDpsDropoutEnd_kept (n : Fin 32) (s : State) (t : State) (h : execDpsDropoutEnd n s = .next t) :
    kept t = kept s := by
  cases h
  simp

theorem execDpsDischarged_kept (n : Fin 32) (s : State) (t : State) (h : execDpsDischarged n s = .next t) :
    kept t = kept s := by
  cases h
  simp

theorem execOffWatchCrossing_kept (n : Fin 32) (s : State) (t : State)
    (h : execOffWatchCrossing n s = .next t) : kept t = kept s := by
  unfold execOffWatchCrossing at h
  dsimp only at h
  (repeat' split at h) <;> cases h <;> simp

@[simp] theorem tripAll_kept (s : State) (cause : BitVec 4) : kept (tripAll s cause) = kept s := by
  simp [tripAll]

theorem execBudgetSample_kept (mw : Nat) (s : State) (t : State) (h : execBudgetSample mw s = .next t) :
    kept t = kept s := by
  cases h
  simp

theorem execPsupCfg_kept (op : OpId) (s : State) (t : State) (h : execPsupCfg op s = .next t) :
    kept t = kept s := by
  cases h
  refine kept_runDesc _ _ _ _ fun s o d => ?_
  simp

@[simp] theorem dissolve_kept (s : State) (p : Fin 16) (k : Fin 64) : kept (dissolve s p k) = kept s := by
  simp [dissolve]

theorem execPsupTrip_kept (c : Fin 1024) (s : State) (t : State) (h : execPsupTrip c s = .next t) :
    kept t = kept s := by
  unfold execPsupTrip at h
  dsimp only at h
  (repeat' split at h) <;> cases h <;> simp

/-! ### Machine/Thermal.lean -/

@[simp] theorem excludeSensor_kept (s : State) (i : Fin 32) (x : Int) : kept (excludeSensor s i x) = kept s
    := by
  simp [excludeSensor]

@[simp] theorem modDie_kept (s : State) (d : Fin 10) (f : Die → Die) : kept (modDie s d f) = kept s := by
  simp [modDie]

@[simp] theorem tripDie_kept (s : State) (d : Fin 10) : kept (tripDie s d) = kept s := by
  simp [tripDie]

@[simp] theorem levelDie_kept (s : State) (d : Fin 10) : kept (levelDie s d) = kept s := by
  simp [levelDie]

@[simp] theorem sampleDie_kept (s : State) (rs : List Int) (d : Fin 10) : kept (sampleDie s rs d) = kept s
    := by
  unfold sampleDie
  dsimp only
  split <;> simp

@[simp] theorem unsampled_kept (s : State) (d : Fin 10) : kept (unsampled s d) = kept s := by
  simp [unsampled]

theorem execThermalSample_kept (readings : List Int) (s : State) (t : State)
    (h : execThermalSample readings s = .next t) : kept t = kept s := by
  cases h
  simp

theorem execThermalTripClear_kept (d : Fin 10) (s : State) (t : State)
    (h : execThermalTripClear d s = .next t) : kept t = kept s := by
  cases h
  simp

@[simp] theorem writeThmLim_kept (s : State) (c : Fin 3) (w : Word) : kept (writeThmLim s c w) = kept s := by
  simp [writeThmLim]

theorem execThmLimWrite_kept (c : Fin 3) (w : Word) (s : State) (t : State)
    (h : execThmLimWrite c w s = .next t) : kept t = kept s := by
  cases h
  simp

/-! ### Machine/Boot.lean -/

@[simp] theorem powerUp_kept (s : State) (sample : Bool) (refsel : Bool) :
    kept (powerUp s sample refsel) = kept s := by
  simp [powerUp]

theorem execColdStart_kept (refsel : Bool) (s : State) (t : State) (h : execColdStart refsel s = .next t) :
    kept t = kept s := by
  cases h
  simp

theorem execVinRestored_kept (refsel : Bool) (s : State) (t : State)
    (h : execVinRestored refsel s = .next t) : kept t = kept s := by
  cases h
  simp

@[simp] theorem vinFails_roots (s : State) (f : PwrEvt → PwrEvt) : (kept (vinFails s f)).1 = (kept s).1 := by
  simp [vinFails]

@[simp] theorem vinFails_mems (s : State) (f : PwrEvt → PwrEvt) (h : (kept s).2.wf = true) :
    (kept (vinFails s f)).2.wf = true := by
  simp [vinFails, h]

theorem execVinUndervoltage_roots (s : State) (t : State) (h : execVinUndervoltage s = .next t) :
    (kept t).1 = (kept s).1 := by
  cases h
  simp

theorem execVinUndervoltage_mems (s : State) (t : State) (h' : execVinUndervoltage s = .next t) (h :
    (kept s).2.wf = true) : (kept t).2.wf = true := by
  cases h'
  simp [h]

theorem execVinOvervoltage_roots (s : State) (t : State) (h : execVinOvervoltage s = .next t) :
    (kept t).1 = (kept s).1 := by
  cases h
  simp

theorem execVinOvervoltage_mems (s : State) (t : State) (h' : execVinOvervoltage s = .next t) (h :
    (kept s).2.wf = true) : (kept t).2.wf = true := by
  cases h'
  simp [h]

theorem execLichenPowerLoss_roots (s : State) (t : State) (h : execLichenPowerLoss s = .next t) :
    (kept t).1 = (kept s).1 := by
  cases h
  simp

theorem execLichenPowerLoss_mems (s : State) (t : State) (h' : execLichenPowerLoss s = .next t) (h :
    (kept s).2.wf = true) : (kept t).2.wf = true := by
  cases h'
  simp [h]

theorem execVinSample_kept (vin10mV : BitVec 16) (iavgMA : Nat) (s : State) (t : State)
    (h : execVinSample vin10mV iavgMA s = .next t) : kept t = kept s := by
  cases h
  simp

@[simp] theorem railsEnded_kept (s : State) : kept (railsEnded s) = kept s := by
  unfold railsEnded
  (repeat' split) <;> simp

theorem execRailGood_roots (r : Rail) (s : State) (t : State) (h : execRailGood r s = .next t) :
    (kept t).1 = (kept s).1 := by
  cases h
  simp

theorem execRailGood_mems (r : Rail) (s : State) (t : State) (h' : execRailGood r s = .next t) (h :
    (kept s).2.wf = true) : (kept t).2.wf = true := by
  cases h'
  simp [h]

theorem execRailStartTimeout_kept (r : Rail) (s : State) (t : State)
    (h : execRailStartTimeout r s = .next t) : kept t = kept s := by
  cases h
  simp

@[simp] theorem openDie_kept (s : State) (n : Fin 8) : kept (openDie s n) = kept s := by
  simp [openDie]

@[simp] theorem peRailFails_kept (s : State) (n : Fin 8) : kept (peRailFails s n) = kept s := by
  simp [peRailFails]

theorem execRailOutOfTolerance_roots (r : Rail) (s : State) (t : State)
    (h : execRailOutOfTolerance r s = .next t) : (kept t).1 = (kept s).1 := by
  cases h
  (repeat' split) <;> simp

theorem execRailOutOfTolerance_mems (r : Rail) (s : State) (t : State)
    (h' : execRailOutOfTolerance r s = .next t) (h : (kept s).2.wf = true) : (kept t).2.wf = true := by
  cases h'
  (repeat' split) <;> simp [h]

theorem execPllLock_roots (chipid : BitVec 6) (psChain : Bool) (s : State) (t : State)
    (h : execPllLock chipid psChain s = .next t) : (kept t).1 = (kept s).1 := by
  cases h
  simp

theorem execPllLock_mems (chipid : BitVec 6) (psChain : Bool) (s : State) (t : State)
    (h' : execPllLock chipid psChain s = .next t) (h : (kept s).2.wf = true) : (kept t).2.wf = true := by
  cases h'
  simp [h]

theorem execPllLockLoss_kept (s : State) (t : State) (h : execPllLockLoss s = .next t) : kept t = kept s := by
  cases h
  simp

theorem execDieLinkCrcFail_kept (n : Fin 8) (s : State) (t : State) (h : execDieLinkCrcFail n s = .next t) :
    kept t = kept s := by
  cases h
  simp

theorem execPerstNAssert_roots (s : State) (t : State) (h : execPerstNAssert s = .next t) : (kept t).1 =
    (kept s).1 := by
  cases h
  split <;> simp

theorem execPerstNAssert_mems (s : State) (t : State) (h' : execPerstNAssert s = .next t) (h :
    (kept s).2.wf = true) : (kept t).2.wf = true := by
  cases h'
  split <;> simp [h]

theorem execPerstNDeassert_roots (chipid : BitVec 6) (psChain : Bool) (s : State) (t : State)
    (h : execPerstNDeassert chipid psChain s = .next t) : (kept t).1 = (kept s).1 := by
  cases h
  dsimp only
  (repeat' split) <;> simp

theorem execPerstNDeassert_mems (chipid : BitVec 6) (psChain : Bool) (s : State) (t : State)
    (h' : execPerstNDeassert chipid psChain s = .next t) (h : (kept s).2.wf = true) : (kept t).2.wf = true
      := by
  cases h'
  dsimp only
  (repeat' split) <;> simp [h]

theorem execFirmwareRunning_kept (s : State) (t : State) (h : execFirmwareRunning s = .next t) :
    kept t = kept s := by
  cases h
  split <;> simp

theorem execBootManifestTimeout_kept (s : State) (t : State) (h : execBootManifestTimeout s = .next t) :
    kept t = kept s := by
  cases h
  simp

theorem execPatchLoadTimeout_kept (s : State) (t : State) (h : execPatchLoadTimeout s = .next t) :
    kept t = kept s := by
  cases h
  simp

/-! ### Machine/Seq.lean -/

@[simp] theorem commitSegs_kept (s : State) : kept (commitSegs s) = kept s := by
  simp [commitSegs]

theorem execSeqLoad_kept (op : OpId) (s : State) (t : State) (h : execSeqLoad op s = .next t) :
    kept t = kept s := by
  cases h
  refine kept_runDesc _ _ _ _ fun s o d => ?_
  dsimp only
  (repeat' split) <;> simp

theorem execSegWrite_roots (op : OpId) (s : State) (t : State) (h : execSegWrite op s = .next t) :
    (kept t).1 = (kept s).1 := by
  cases h
  refine roots_runDesc _ _ _ _ fun s o d => ?_
  dsimp only
  split <;> simp

theorem execSegWrite_mems (op : OpId) (s : State) (t : State) (h' : execSegWrite op s = .next t) (h :
    (kept s).2.wf = true) : (kept t).2.wf = true := by
  cases h'
  refine mems_runDesc _ _ _ _ (fun s o d h => ?_) h
  dsimp only
  split <;> simp [h]

theorem execSegFill_kept (op : OpId) (s : State) (t : State) (h : execSegFill op s = .next t) :
    kept t = kept s := by
  cases h
  refine kept_runDesc _ _ _ _ fun s o d => ?_
  simp

@[simp] theorem endUword_kept (s : State) (p : Fin 16) (h : UHdr) : kept (endUword s p h) = kept s := by
  simp [endUword]

@[simp] theorem goOn_kept (s : State) (p : Fin 16) : kept (goOn s p) = kept s := by
  unfold goOn
  dsimp only
  (repeat' split) <;> simp

theorem execSegFillDone_kept (p : PlazaIx) (slot : Fin 64) (s : State) (t : State)
    (h : execSegFillDone p slot s = .next t) : kept t = kept s := by
  cases h
  dsimp only
  (repeat' split) <;> simp

theorem execSlotQuery_roots (op : OpId) (s : State) (t : State) (h : execSlotQuery op s = .next t) :
    (kept t).1 = (kept s).1 := by
  cases h
  refine roots_runDesc _ _ _ _ fun s o d => ?_
  simp

theorem execSlotQuery_mems (op : OpId) (s : State) (t : State) (h' : execSlotQuery op s = .next t) (h :
    (kept s).2.wf = true) : (kept t).2.wf = true := by
  cases h'
  refine mems_runDesc _ _ _ _ (fun s o d h => ?_) h
  simp [h]

theorem execSeqRun_kept (op : OpId) (s : State) (t : State) (h : execSeqRun op s = .next t) :
    kept t = kept s := by
  cases h
  refine kept_runDesc _ _ _ _ fun s o d => ?_
  simp

theorem execSeqJump_kept (op : OpId) (s : State) (t : State) (h : execSeqJump op s = .next t) :
    kept t = kept s := by
  cases h
  refine kept_runDesc _ _ _ _ fun s o d => ?_
  simp

theorem execSitedataLoad_kept (op : OpId) (s : State) (t : State) (h : execSitedataLoad op s = .next t) :
    kept t = kept s := by
  cases h
  refine kept_runDesc _ _ _ _ fun s o d => ?_
  simp

theorem execMaskLoad_kept (op : OpId) (s : State) (t : State) (h : execMaskLoad op s = .next t) :
    kept t = kept s := by
  cases h
  refine kept_runDesc _ _ _ _ fun s o d => ?_
  simp

theorem execHoldLoad_kept (op : OpId) (s : State) (t : State) (h : execHoldLoad op s = .next t) :
    kept t = kept s := by
  cases h
  refine kept_runDesc _ _ _ _ fun s o d => ?_
  simp

/-! ### Machine/Timing.lean -/

@[simp] theorem stageTs_kept (s : State) (p : Fin 16) (x : Staged) : kept (stageTs s p x) = kept s := by
  simp [stageTs]

theorem execTsLoad_kept (op : OpId) (s : State) (t : State) (h : execTsLoad op s = .next t) :
    kept t = kept s := by
  cases h
  refine kept_runDesc _ _ _ _ fun s o d => ?_
  simp

@[simp] theorem stageDsk_kept (s : State) (p : Fin 16) (b : Fin 8) (x : Staged) :
    kept (stageDsk s p b x) = kept s := by
  simp [stageDsk]

theorem execDskLoad_kept (op : OpId) (s : State) (t : State) (h : execDskLoad op s = .next t) :
    kept t = kept s := by
  cases h
  refine kept_runDesc _ _ _ _ fun s o d => ?_
  simp

theorem execDskRead_roots (op : OpId) (s : State) (t : State) (h : execDskRead op s = .next t) :
    (kept t).1 = (kept s).1 := by
  cases h
  refine roots_runDesc _ _ _ _ fun s o d => ?_
  simp

theorem execDskRead_mems (op : OpId) (s : State) (t : State) (h' : execDskRead op s = .next t) (h :
    (kept s).2.wf = true) : (kept t).2.wf = true := by
  cases h'
  refine mems_runDesc _ _ _ _ (fun s o d h => ?_) h
  simp [h]

theorem execQuietPoint_kept (p : PlazaIx) (s : State) (t : State) (h : execQuietPoint p s = .next t) :
    kept t = kept s := by
  cases h
  simp

theorem execBandHoldExpiry_kept (p : PlazaIx) (s : State) (t : State)
    (h : execBandHoldExpiry p s = .next t) : kept t = kept s := by
  cases h
  simp

/-! ### Machine/Cal.lean -/

theorem execCalRun_kept (op : OpId) (s : State) (t : State) (h : execCalRun op s = .next t) :
    kept t = kept s := by
  cases h
  refine kept_runDesc _ _ _ _ fun s o d => ?_
  split <;> simp

@[simp] theorem putSet_kept (s : State) (c : CalSet) (es : List (Word × Word)) (id : OpId) :
    kept (putSet s c es id) = kept s := by
  unfold putSet
  split <;> simp

theorem execCalRunDone_kept (op : OpId) (res : CalRes) (s : State) (t : State)
    (h : execCalRunDone op res s = .next t) : kept t = kept s := by
  cases h
  refine kept_onRunning _ _ _ _ fun o d => ?_
  dsimp only
  (repeat' split) <;> simp

theorem execCalLoad_kept (op : OpId) (s : State) (t : State) (h : execCalLoad op s = .next t) :
    kept t = kept s := by
  cases h
  refine kept_runDesc _ _ _ _ fun s o d => ?_
  dsimp only
  (repeat' split) <;> simp

theorem execCalRead_roots (op : OpId) (s : State) (t : State) (h : execCalRead op s = .next t) :
    (kept t).1 = (kept s).1 := by
  cases h
  refine roots_runDesc _ _ _ _ fun s o d => ?_
  split <;> simp

theorem execCalRead_mems (op : OpId) (s : State) (t : State) (h' : execCalRead op s = .next t) (h :
    (kept s).2.wf = true) : (kept t).2.wf = true := by
  cases h'
  refine mems_runDesc _ _ _ _ (fun s o d h => ?_) h
  split <;> simp [h]

theorem parkImage_wf (bs : List Byte) : Mem.wf 0 (parkImage bs) = true := writeBytes_wf _ _ _ _ (by decide)

theorem parkPut_mems (s : State) (img : Mem) (hw : Mem.wf 0 img = true) (n : Nat) (b : Bool) (h :
    (kept s).2.wf = true) : (kept { s with park := { s.park with image := img, writes := n, stands := b }
      }).2.wf = true := by
    simp only [Mems.wf, kept, Bool.and_eq_true] at h ⊢
    exact ⟨⟨⟨⟨h.1.1.1.1, h.1.1.1.2⟩, h.1.1.2⟩, hw⟩, h.2⟩

theorem parkWrite_mems (op : OpId) (s : State) (o : Op) (h :
    (kept s).2.wf = true) (img : Mem) (hw : Mem.wf 0 img = true) :
      (kept (if o.ctx = 0 && parkGood img && s.park.writes < 1000 then
      let s := { s with park := { s.park with image := img, writes := s.park.writes + 1, stands := false } }
      finishOp s op stOk [BitVec.ofNat 32 s.park.writes]
    else finishOp s op eArg [])).2.wf = true := by
  split
  · refine mems_of_kept (finishOp_kept _ _ _ _) ?_
    exact parkPut_mems _ _ hw _ _ h
  · simp [h]

theorem execParkWrite_mems (op : OpId) (s t : State) (h' : execParkWrite op s = .next t) (h :
    (kept s).2.wf = true) :
    (kept t).2.wf = true := by
  cases h'
  refine mems_runDesc _ _ _ _ (fun s o d h => ?_) h
  have hw := parkImage_wf (hostRead s (wd64 d 4) 4096)
  exact parkWrite_mems _ _ _ h _ hw

theorem execParkWrite_roots (op : OpId) (s t : State) (h : execParkWrite op s = .next t) : (kept t).1 =
    (kept s).1 := by
  cases h
  refine roots_runDesc _ _ _ _ fun s o d => ?_
  generalize parkImage (hostRead s (wd64 d 4) 4096) = img
  dsimp only
  split
  · exact roots_of_kept (finishOp_kept _ _ _ _) (by simp only [kept])
  · simp

/-! ### Machine/Capture.lean -/

theorem execCapCfg_kept (op : OpId) (s : State) (t : State) (h : execCapCfg op s = .next t) :
    kept t = kept s := by
  cases h
  refine kept_runDesc _ _ _ _ fun s o d => ?_
  simp

theorem execTrigLoad_kept (op : OpId) (s : State) (t : State) (h : execTrigLoad op s = .next t) :
    kept t = kept s := by
  cases h
  refine kept_runDesc _ _ _ _ fun s o d => ?_
  simp

theorem execFqRecordWrite_roots (p : PlazaIx) (s t : State) (h : execFqRecordWrite p s = .next t) :
    (kept t).1 = (kept s).1 := by
  cases h
  split
  · rfl
  · split
    · rfl
    · split
      · rfl
      · exact roots_of_kept (fqFlush_kept _ _ _) (ringPut_roots _ _ _ _)

theorem execFqRecordWrite_mems (p : PlazaIx) (s t : State) (h' : execFqRecordWrite p s = .next t)
    (h : (kept s).2.wf = true) : (kept t).2.wf = true := by
  cases h'
  split
  · exact h
  · split
    · exact h
    · split
      · exact h
      · exact mems_of_kept (fqFlush_kept _ _ _) (ringPut_mems _ _ _ _ h)

theorem execMqRecordWrite_roots (ring : RingId) (s t : State) (h : execMqRecordWrite ring s = .next t) :
    (kept t).1 = (kept s).1 := by
  cases h
  split
  · split
    · rfl
    · exact roots_of_kept (settleOp_kept _ _) (roots_of_kept (modOp_kept _ _ _) (ringPut_roots _ _ _ _))
  · rfl

theorem execMqRecordWrite_mems (ring : RingId) (s t : State) (h' : execMqRecordWrite ring s = .next t)
    (h : (kept s).2.wf = true) : (kept t).2.wf = true := by
  cases h'
  split
  · split
    · exact h
    · exact mems_of_kept (settleOp_kept _ _) (mems_of_kept (modOp_kept _ _ _) (ringPut_mems _ _ _ _ h))
  · exact h

@[simp] theorem recMeasOne_kept (s : State) (op : OpId) (seq site base : Nat)
    (h : Word) (delta : Nat) (xs : List Sample) (b : Nat) :
      kept (recMeasOne s op seq site base h delta xs b).1 = kept s := by
  simp [recMeasOne]

theorem execRecMeas_kept (op : OpId) (s t : State) (h : execRecMeas op s = .next t) : kept t = kept s := by
  cases h
  refine kept_runDesc _ _ _ _ fun s o d => ?_
  extract_lets site meas base hh bs
  split
  · split
    · simp
    · split
      · simp
      · refine (endAfter_kept _ _ _ _).trans (kept_foldl_fst _ (fun a x => ?_) _ _)
        simp
  · simp

theorem execMaskArm_kept (op : OpId) (s : State) (t : State) (h : execMaskArm op s = .next t) :
    kept t = kept s := by
  cases h
  refine kept_runDesc _ _ _ _ fun s o d => ?_
  dsimp only
  split <;> simp

theorem execStepOpen_kept (op : OpId) (s : State) (t : State) (h : execStepOpen op s = .next t) :
    kept t = kept s := by
  cases h
  refine kept_runDesc _ _ _ _ fun s o d => ?_
  dsimp only
  split <;> simp

theorem execStepClose_kept (op : OpId) (s : State) (t : State) (h : execStepClose op s = .next t) :
    kept t = kept s := by
  cases h
  refine kept_runDesc _ _ _ _ fun s o d => ?_
  dsimp only
  split <;> simp

theorem execStepCloseEvaluate_kept (op : OpId) (s t : State) (h : execStepCloseEvaluate op s = .next t) :
    kept t = kept s := by
  cases h
  refine kept_onRunning _ _ _ _ fun o d => ?_
  split
  · rfl
  · split
    · rfl
    · split
      · rfl
      · refine (endAfter_kept _ _ _ _).trans (kept_foldl _ (fun s x => ?_) _ _)
        split <;> simp

/-! ### Machine/Engine.lean -/

theorem execCtlEnable_kept (e : Eng) (m : Meet) (s : State) (t : State) (h : execCtlEnable e m s = .next t) :
    kept t = kept s := by
  cases h
  simp

theorem execCtlDisable_kept (e : Eng) (m : Meet) (s : State) (t : State)
    (h : execCtlDisable e m s = .next t) : kept t = kept s := by
  cases h
  simp

theorem execEngineStartDone_kept (e : Eng) (s : State) (t : State) (h : execEngineStartDone e s = .next t) :
    kept t = kept s := by
  cases h
  simp

theorem execEngineStopDone_kept (e : Eng) (s : State) (t : State) (h : execEngineStopDone e s = .next t) :
    kept t = kept s := by
  cases h
  simp

theorem execHeldEnableTakesEffect_kept (e : Eng) (s : State) (t : State)
    (h : execHeldEnableTakesEffect e s = .next t) : kept t = kept s := by
  cases h
  simp

theorem execStartTimeout_kept (e : Eng) (s : State) (t : State) (h : execStartTimeout e s = .next t) :
    kept t = kept s := by
  cases h
  simp

theorem execStopTimeout_kept (e : Eng) (s : State) (t : State) (h : execStopTimeout e s = .next t) :
    kept t = kept s := by
  cases h
  simp

theorem execPlzEnable_kept (op : OpId) (m : Meet) (s : State) (t : State)
    (h : execPlzEnable op m s = .next t) : kept t = kept s := by
  cases h
  refine kept_runDesc _ _ _ _ fun s o d => ?_
  simp

theorem execPlzDisable_kept (op : OpId) (m : Meet) (s : State) (t : State)
    (h : execPlzDisable op m s = .next t) : kept t = kept s := by
  cases h
  refine kept_runDesc _ _ _ _ fun s o d => ?_
  simp

@[simp] theorem engAction_kept (s : State) (e : Eng) (id : OpId) (d : List Word) (m : Meet) :
    kept (engAction s e id d m) = kept s := by
  unfold engAction
  split <;> simp

theorem execMeaEngine_kept (op : OpId) (m : Meet) (s : State) (t : State)
    (h : execMeaEngine op m s = .next t) : kept t = kept s := by
  cases h
  refine kept_runDesc _ _ _ _ fun s o d => ?_
  split <;> simp

theorem execAwgEngine_kept (op : OpId) (m : Meet) (s : State) (t : State)
    (h : execAwgEngine op m s = .next t) : kept t = kept s := by
  cases h
  refine kept_runDesc _ _ _ _ fun s o d => ?_
  simp

theorem execReEngine_kept (op : OpId) (m : Meet) (s : State) (t : State)
    (h : execReEngine op m s = .next t) : kept t = kept s := by
  cases h
  refine kept_runDesc _ _ _ _ fun s o d => ?_
  simp

theorem execDpsEngine_kept (op : OpId) (m : Meet) (s : State) (t : State)
    (h : execDpsEngine op m s = .next t) : kept t = kept s := by
  cases h
  refine kept_runDesc _ _ _ _ fun s o d => ?_
  simp

theorem execPmEngine_kept (op : OpId) (m : Meet) (s : State) (t : State)
    (h : execPmEngine op m s = .next t) : kept t = kept s := by
  cases h
  refine kept_runDesc _ _ _ _ fun s o d => ?_
  simp

/-! ### Machine/Host.lean -/

@[simp] theorem writeOffer_kept (s : State) (w : Word) : kept (writeOffer s w) = kept s := by
  simp [writeOffer]

theorem execHifVerOfferWrite_kept (w : Word) (s : State) (t : State)
    (h : execHifVerOfferWrite w s = .next t) : kept t = kept s := by
  cases h
  simp

@[simp] theorem adminOpen_kept (s : State) (readError : Bool) : kept (adminOpen s readError) = kept s := by
  unfold adminOpen
  (repeat' split) <;> simp

theorem execAdminEnSet_kept (readError : Bool) (s : State) (t : State)
    (h : execAdminEnSet readError s = .next t) : kept t = kept s := by
  cases h
  simp

@[simp] theorem dropHost_roots (s : State) : (kept (dropHost s)).1 = (kept s).1 := by
  unfold dropHost
  extract_lets s1 s2 s3 s4
  have e2 : kept s2 = kept s := (dropSteps_kept _ _).trans (kept_foldl _ (fun _ _ => detachRing_kept _ _) _ _)
  have e3 : (kept s3).1 = (kept s).1 :=
    (roots_foldl _ (fun _ _ => abortCtx_roots _ _) _ _).trans (congrArg Prod.fst e2)
  rw [kept_mk, kept_fold]
  exact roots_of_kept (kept_foldl _ (fun _ _ => dropEq_kept _ _) _ _) e3

@[simp] theorem dropHost_mems (s : State) (h : (kept s).2.wf = true) : (kept (dropHost s)).2.wf = true := by
  unfold dropHost
  extract_lets s1 s2 s3 s4
  have e2 : kept s2 = kept s := (dropSteps_kept _ _).trans (kept_foldl _ (fun _ _ => detachRing_kept _ _) _ _)
  have e3 : (kept s3).2.wf = true := mems_foldl _ (fun _ _ h => abortCtx_mems _ _ h) _ _ (mems_of_kept e2 h)
  rw [kept_mk, kept_fold]
  exact mems_of_kept (kept_foldl _ (fun _ _ => dropEq_kept _ _) _ _) e3

@[simp] theorem endContexts_kept (s : State) (hit : List Eng) : kept (endContexts s hit) = kept s := by
  unfold endContexts
  dsimp only
  rw [closeCheck_kept, kept_mk, kept_fold]
  refine kept_foldl _ (fun s c => ?_) _ _
  (repeat' split) <;> simp

@[simp] theorem resetHif_kept (s : State) : kept (resetHif s) = kept s := by
  simp [resetHif]

@[simp] theorem flrNow_roots (s : State) : (kept (flrNow s)).1 = (kept s).1 := by
  simp [flrNow]

@[simp] theorem flrNow_mems (s : State) (h : (kept s).2.wf = true) : (kept (flrNow s)).2.wf = true := by
  simp [flrNow, h]

@[simp] theorem flrNoted_roots (s : State) : (kept (flrNoted s)).1 = (kept s).1 := by
  simp [flrNoted]

@[simp] theorem flrNoted_mems (s : State) (h : (kept s).2.wf = true) : (kept (flrNoted s)).2.wf = true := by
  simp [flrNoted, h]

theorem execFlr_roots (s t : State) (h : execFlr s = .next t) : (kept t).1 = (kept s).1 := by
  cases h
  split <;> simp
theorem execFlr_mems (s t : State) (h' : execFlr s = .next t) (h : (kept s).2.wf = true) :
    (kept t).2.wf = true := by
  cases h'
  split <;> simp [h]

theorem execDlDown_roots (s t : State) (h : execDlDown s = .next t) : (kept t).1 = (kept s).1 := by
  cases h
  split <;> simp
theorem execDlDown_mems (s t : State) (h' : execDlDown s = .next t) (h : (kept s).2.wf = true) :
    (kept t).2.wf = true := by
  cases h'
  split <;> simp [h]

theorem execAdminEnClear_roots (s : State) (t : State) (h : execAdminEnClear s = .next t) : (kept t).1 =
    (kept s).1 := by
  cases h
  simp

theorem execAdminEnClear_mems (s : State) (t : State) (h' : execAdminEnClear s = .next t) (h :
    (kept s).2.wf = true) : (kept t).2.wf = true := by
  cases h'
  simp [h]

@[simp] theorem badDoorbell_kept (s : State) (page : BitVec 12) (n : RingId) (f : Hif → Hif) :
    kept (badDoorbell s page n f) = kept s := by
  simp [badDoorbell]

@[simp] theorem ringDoorbell_kept (s : State) (page : BitVec 12) (val : BitVec 64) :
    kept (ringDoorbell s page val) = kept s := by
  unfold ringDoorbell
  dsimp only
  split <;> simp

theorem execDoorbell_kept (page : BitVec 12) (off : BitVec 12) (size : Nat) (val : BitVec 64) (s : State)
    (t : State) (h : execDoorbell page off size val s = .next t) : kept t = kept s := by
  cases h
  simp

@[simp] theorem newOp_kept (s : State) (r : Ring) (d : List Word) : kept (newOp s r d) = kept s := by
  simp [newOp]

@[simp] theorem judgeOp_kept (s : State) (id : OpId) : kept (judgeOp s id) = kept s := by
  unfold judgeOp
  (repeat' split) <;> simp

@[simp] theorem acceptOne_kept (n : RingId) (s : State) (d : List Word) : kept (acceptOne n s d) = kept s
    := by
  unfold acceptOne
  dsimp only
  (repeat' split) <;> simp

@[simp] theorem stopSq_kept (s : State) (r : Ring) : kept (stopSq s r) = kept s := by
  simp [stopSq]

@[simp] theorem fetchDone_kept (s : State) (n : RingId) (cnt : Nat) (res : ReadEnd) :
    kept (fetchDone s n cnt res) = kept s := by
  unfold fetchDone
  (repeat' split) <;> simp

theorem execSqFetchComplete_kept (ring : RingId) (n : Nat) (res : ReadEnd) (s : State) (t : State)
    (h : execSqFetchComplete ring n res s = .next t) : kept t = kept s := by
  cases h
  simp

theorem execSqFetchTimeout_kept (ring : RingId) (s : State) (t : State)
    (h : execSqFetchTimeout ring s = .next t) : kept t = kept s := by
  cases h
  split <;> simp

@[simp] theorem dispatchNow_kept (s : State) (o : Op) : kept (dispatchNow s o) = kept s := by
  unfold dispatchNow
  dsimp only
  split <;> simp

theorem execDescriptorDispatch_kept (op : OpId) (s : State) (t : State)
    (h : execDescriptorDispatch op s = .next t) : kept t = kept s := by
  cases h
  split <;> simp

theorem execExecutionTimeout_roots (op : OpId) (s : State) (t : State)
    (h : execExecutionTimeout op s = .next t) : (kept t).1 = (kept s).1 := by
  cases h
  split <;> simp

theorem execExecutionTimeout_mems (op : OpId) (s : State) (t : State)
    (h' : execExecutionTimeout op s = .next t) (h : (kept s).2.wf = true) : (kept t).2.wf = true := by
  cases h'
  split <;> simp [h]

theorem execQueueWaitTimeout_kept (op : OpId) (s : State) (t : State)
    (h : execQueueWaitTimeout op s = .next t) : kept t = kept s := by
  cases h
  split <;> simp

theorem execHostReadError_roots (op : OpId) (s : State) (t : State) (h : execHostReadError op s = .next t) :
    (kept t).1 = (kept s).1 := by
  cases h
  split <;> simp

theorem execHostReadError_mems (op : OpId) (s : State) (t : State) (h' : execHostReadError op s = .next t)
    (h : (kept s).2.wf = true) : (kept t).2.wf = true := by
  cases h'
  split <;> simp [h]

@[simp] theorem detachSq_kept (s : State) (r : Ring) (id : OpId) : kept (detachSq s r id) = kept s := by
  unfold detachSq
  (repeat' split) <;> simp

@[simp] theorem detachCheck_kept (s : State) : kept (detachCheck s) = kept s := by
  unfold detachCheck
  refine kept_foldl _ (fun _ _ => ?_) _ _
  split <;> simp

@[simp] theorem writeCompl_roots (s : State) (o : Op) (c : Completion) : (kept (writeCompl s o c)).1 =
    (kept s).1 := by
  unfold writeCompl
  extract_lets free
  have e (x : State) : kept (free x) = kept x := detachCheck_kept _
  split
  · rw [e]
  · split
    · rw [e]
    · split
      · rfl
      · exact roots_of_kept (e _) (ringPutAs_roots _ _ _ _ _)

@[simp] theorem writeCompl_mems (s : State) (o : Op) (c : Completion) (h : (kept s).2.wf = true) :
    (kept (writeCompl s o c)).2.wf = true := by
  unfold writeCompl
  extract_lets free
  have e (x : State) : kept (free x) = kept x := detachCheck_kept _
  split
  · exact mems_of_kept (e _) h
  · split
    · exact mems_of_kept (e _) h
    · split
      · exact h
      · exact mems_of_kept (e _) (ringPutAs_mems _ _ _ _ _ h)

theorem execCompletionWrite_roots (op : OpId) (s : State) (t : State)
    (h : execCompletionWrite op s = .next t) : (kept t).1 = (kept s).1 := by
  cases h
  (repeat' split) <;> simp

theorem execCompletionWrite_mems (op : OpId) (s : State) (t : State)
    (h' : execCompletionWrite op s = .next t) (h : (kept s).2.wf = true) : (kept t).2.wf = true := by
  cases h'
  (repeat' split) <;> simp [h]

theorem execInterruptDelayExpiry_kept (ring : RingId) (s : State) (t : State)
    (h : execInterruptDelayExpiry ring s = .next t) : kept t = kept s := by
  cases h
  split <;> simp

/-! ### Machine/Ctxs.lean -/

theorem execNop_kept (op : OpId) (s : State) (t : State) (h : execNop op s = .next t) : kept t = kept s := by
  cases h
  refine kept_runDesc _ _ _ _ fun s o d => ?_
  simp

@[simp] theorem openCtx_kept (s : State) (c : CtxId) (quota : Nat) : kept (openCtx s c quota) = kept s := by
  simp [openCtx]

theorem execCtxOpen_kept (op : OpId) (s : State) (t : State) (h : execCtxOpen op s = .next t) :
    kept t = kept s := by
  cases h
  refine kept_runDesc _ _ _ _ fun s o d => ?_
  split <;> simp

@[simp] theorem beginEnd_roots (s : State) (op : OpId) (d : List Word) (ph : CtxPhase) :
    (kept (beginEnd s op d ph)).1 = (kept s).1 := by
  simp [beginEnd]

@[simp] theorem beginEnd_mems (s : State) (op : OpId) (d : List Word) (ph : CtxPhase) (h :
    (kept s).2.wf = true) : (kept (beginEnd s op d ph)).2.wf = true := by
  simp [beginEnd, h]

theorem execCtxClose_roots (op : OpId) (s : State) (t : State) (h : execCtxClose op s = .next t) :
    (kept t).1 = (kept s).1 := by
  cases h
  refine roots_runDesc _ _ _ _ fun s o d => ?_
  simp

theorem execCtxClose_mems (op : OpId) (s : State) (t : State) (h' : execCtxClose op s = .next t) (h :
    (kept s).2.wf = true) : (kept t).2.wf = true := by
  cases h'
  refine mems_runDesc _ _ _ _ (fun s o d h => ?_) h
  simp [h]

theorem execCtxAbort_roots (op : OpId) (s : State) (t : State) (h : execCtxAbort op s = .next t) :
    (kept t).1 = (kept s).1 := by
  cases h
  refine roots_runDesc _ _ _ _ fun s o d => ?_
  simp

theorem execCtxAbort_mems (op : OpId) (s : State) (t : State) (h' : execCtxAbort op s = .next t) (h :
    (kept s).2.wf = true) : (kept t).2.wf = true := by
  cases h'
  refine mems_runDesc _ _ _ _ (fun s o d h => ?_) h
  simp [h]

theorem execCtxOpsDrained_kept (ctx : CtxId) (s : State) (t : State)
    (h : execCtxOpsDrained ctx s = .next t) : kept t = kept s := by
  cases h
  simp

theorem execResClaim_kept (op : OpId) (s : State) (t : State) (h : execResClaim op s = .next t) :
    kept t = kept s := by
  cases h
  refine kept_runDesc _ _ _ _ fun s o d => ?_
  simp

theorem execResRelease_kept (op : OpId) (s : State) (t : State) (h : execResRelease op s = .next t) :
    kept t = kept s := by
  cases h
  refine kept_runDesc _ _ _ _ fun s o d => ?_
  dsimp only
  (repeat' split) <;> simp

theorem execRingAttach_kept (op : OpId) (s : State) (t : State) (h : execRingAttach op s = .next t) :
    kept t = kept s := by
  cases h
  refine kept_runDesc _ _ _ _ fun s o d => ?_
  dsimp only
  (repeat' split) <;> simp

theorem execRingDetach_kept (op : OpId) (s : State) (t : State) (h : execRingDetach op s = .next t) :
    kept t = kept s := by
  cases h
  refine kept_runDesc _ _ _ _ fun s o d => ?_
  dsimp only
  (repeat' split) <;> simp

theorem execCtxQuery_kept (op : OpId) (s : State) (t : State) (h : execCtxQuery op s = .next t) :
    kept t = kept s := by
  cases h
  refine kept_runDesc _ _ _ _ fun s o d => ?_
  dsimp only
  split <;> simp

/-! ### Machine/Power.lean -/

@[simp] theorem harmless_kept (s : State) : kept (harmless s) = kept s := by
  simp [harmless]

@[simp] theorem refuse_kept (s : State) : kept (refuse s) = kept s := by
  simp [refuse]

@[simp] theorem beginChange_kept (s : State) (dest : PwrState) : kept (beginChange s dest) = kept s := by
  simp [beginChange]

@[simp] theorem goDown_kept (s : State) (dest : PwrState) : kept (goDown s dest) = kept s := by
  simp [goDown]

@[simp] theorem losePe_kept (s : State) : kept (losePe s) = kept s := by
  simp [losePe]

@[simp] theorem goUp_roots (s : State) : (kept (goUp s)).1 = (kept s).1 := by
  simp [goUp]

@[simp] theorem goUp_mems (s : State) (h : (kept s).2.wf = true) : (kept (goUp s)).2.wf = true := by
  simp [goUp, h]

@[simp] theorem stayDown_roots (s : State) (dest : PwrState) : (kept (stayDown s dest)).1 = (kept s).1 := by
  unfold stayDown
  split <;> simp

@[simp] theorem stayDown_mems (s : State) (dest : PwrState) (h : (kept s).2.wf = true) :
    (kept (stayDown s dest)).2.wf = true := by
  unfold stayDown
  split <;> simp [h]

@[simp] theorem actOn_roots (s : State) (r : BitVec 2) : (kept (actOn s r)).1 = (kept s).1 := by
  unfold actOn
  (repeat' split) <;> simp

@[simp] theorem actOn_mems (s : State) (r : BitVec 2) (h : (kept s).2.wf = true) :
    (kept (actOn s r)).2.wf = true := by
  unfold actOn
  (repeat' split) <;> simp [h]

@[simp] theorem writePwrReq_roots (s : State) (r : BitVec 2) : (kept (writePwrReq s r)).1 = (kept s).1 := by
  simp [writePwrReq]

@[simp] theorem writePwrReq_mems (s : State) (r : BitVec 2) (h : (kept s).2.wf = true) :
    (kept (writePwrReq s r)).2.wf = true := by
  simp [writePwrReq, h]

theorem execPwrReqActive_roots (s : State) (t : State) (h : execPwrReqActive s = .next t) : (kept t).1 =
    (kept s).1 := by
  cases h
  simp

theorem execPwrReqActive_mems (s : State) (t : State) (h' : execPwrReqActive s = .next t) (h :
    (kept s).2.wf = true) : (kept t).2.wf = true := by
  cases h'
  simp [h]

theorem execPwrReqStandby_roots (s : State) (t : State) (h : execPwrReqStandby s = .next t) : (kept t).1 =
    (kept s).1 := by
  cases h
  simp

theorem execPwrReqStandby_mems (s : State) (t : State) (h' : execPwrReqStandby s = .next t) (h :
    (kept s).2.wf = true) : (kept t).2.wf = true := by
  cases h'
  simp [h]

theorem execPwrReqDeepSleep_roots (s : State) (t : State) (h : execPwrReqDeepSleep s = .next t) :
    (kept t).1 = (kept s).1 := by
  cases h
  simp

theorem execPwrReqDeepSleep_mems (s : State) (t : State) (h' : execPwrReqDeepSleep s = .next t) (h :
    (kept s).2.wf = true) : (kept t).2.wf = true := by
  cases h'
  simp [h]

@[simp] theorem changeDone_roots (s : State) : (kept (changeDone s)).1 = (kept s).1 := by
  unfold changeDone
  dsimp only
  split <;> simp

@[simp] theorem changeDone_mems (s : State) (h : (kept s).2.wf = true) : (kept (changeDone s)).2.wf = true
    := by
  unfold changeDone
  dsimp only
  split <;> simp [h]

theorem execPowerStateChangeDone_roots (s : State) (t : State) (h : execPowerStateChangeDone s = .next t) :
    (kept t).1 = (kept s).1 := by
  cases h
  simp

theorem execPowerStateChangeDone_mems (s : State) (t : State) (h' : execPowerStateChangeDone s = .next t)
    (h : (kept s).2.wf = true) : (kept t).2.wf = true := by
  cases h'
  simp [h]

theorem execLinkL2L3Entry_roots (s : State) (t : State) (h : execLinkL2L3Entry s = .next t) : (kept t).1 =
    (kept s).1 := by
  cases h
  split <;> simp

theorem execLinkL2L3Entry_mems (s : State) (t : State) (h' : execLinkL2L3Entry s = .next t) (h :
    (kept s).2.wf = true) : (kept t).2.wf = true := by
  cases h'
  split <;> simp [h]

theorem execDeepSleepRequestTimeout_kept (s : State) (t : State)
    (h : execDeepSleepRequestTimeout s = .next t) : kept t = kept s := by
  cases h
  simp

theorem execWakeNLow_roots (s : State) (t : State) (h : execWakeNLow s = .next t) : (kept t).1 = (kept s).1
    := by
  cases h
  simp

theorem execWakeNLow_mems (s : State) (t : State) (h' : execWakeNLow s = .next t) (h :
    (kept s).2.wf = true) : (kept t).2.wf = true := by
  cases h'
  simp [h]

/-! ### Machine/RegRead.lean -/

@[simp] theorem usedFree_kept (s : State) : kept (usedFree s) = kept s := by
  simp [usedFree]

@[simp] theorem noteUnmapped_kept (s : State) (off : Nat) : kept (noteUnmapped s off) = kept s := by
  simp [noteUnmapped]

@[simp] theorem readWord_kept (s : State) (off : Nat) : kept (readWord s off).2 = kept s := by
  unfold readWord
  split <;> simp

@[simp] theorem dropSnap_kept (s : State) (r : Requester) (p : SnapPair) : kept (dropSnap s r p) = kept s
    := by
  simp [dropSnap]

@[simp] theorem snapLo_kept (s : State) (r : Requester) (p : SnapPair) : kept (snapLo s r p).2 = kept s := by
  simp [snapLo]

@[simp] theorem snapHi_kept (s : State) (r : Requester) (p : SnapPair) : kept (snapHi s r p).2 = kept s := by
  unfold snapHi
  split <;> simp

@[simp] theorem readAs_kept (s : State) (r : Requester) (off : Nat) : kept (readAs s r off).2 = kept s := by
  unfold readAs
  split <;> simp

/-! ### Machine/PortS.lean -/

@[simp] theorem setPs_kept (s : State) (f : Ps → Ps) : kept (setPs s f) = kept s := by
  simp [setPs]

@[simp] theorem psDeny_kept (s : State) : kept (psDeny s) = kept s := by
  simp [psDeny]

@[simp] theorem psShort_kept (s : State) : kept (psShort s) = kept s := by
  simp [psShort]

@[simp] theorem psOver_kept (s : State) : kept (psOver s) = kept s := by
  simp [psOver]

@[simp] theorem psAnswer_kept (s : State) (addr : BitVec 16) (w : Word) : kept (psAnswer s addr w) = kept s
    := by
  simp [psAnswer]

@[simp] theorem psTaken_kept (s : State) (off : Nat) : kept (psTaken s off) = kept s := by
  simp [psTaken]

@[simp] theorem psReadCmd_kept (s : State) (addr : BitVec 16) : kept (psReadCmd s addr) = kept s := by
  unfold psReadCmd
  dsimp only
  (repeat' split) <;> simp

@[simp] theorem psWriteCmd_kept (s : State) (addr : BitVec 16) (w : Word) :
    kept (psWriteCmd s addr w) = kept s := by
  simp [psWriteCmd]

@[simp] theorem psWakeCmd_roots (s : State) : (kept (psWakeCmd s)).1 = (kept s).1 := by
  simp [psWakeCmd]

@[simp] theorem psWakeCmd_mems (s : State) (h : (kept s).2.wf = true) : (kept (psWakeCmd s)).2.wf = true := by
  simp [psWakeCmd, h]

@[simp] theorem psStart_kept (s : State) : kept (psStart s) = kept s := by
  simp [psStart]

@[simp] theorem psCommand_roots (s : State) (n : Nat) (x : Nat) : (kept (psCommand s n x)).1 = (kept s).1
    := by
  unfold psCommand
  dsimp only
  (repeat' split) <;> simp

@[simp] theorem psCommand_mems (s : State) (n : Nat) (x : Nat) (h : (kept s).2.wf = true) :
    (kept (psCommand s n x)).2.wf = true := by
  unfold psCommand
  dsimp only
  (repeat' split) <;> simp [h]

@[simp] theorem psChainWord_roots (s : State) (n : Nat) (w : BitVec 64) : (kept (psChainWord s n w)).1 =
    (kept s).1 := by
  unfold psChainWord
  (repeat' split) <;> simp

@[simp] theorem psChainWord_mems (s : State) (n : Nat) (w : BitVec 64) (h : (kept s).2.wf = true) :
    (kept (psChainWord s n w)).2.wf = true := by
  unfold psChainWord
  (repeat' split) <;> simp [h]

@[simp] theorem psEnd_roots (s : State) (n data : Nat) : (kept (psEnd s n data)).1 =
    (kept s).1 := by
  unfold psEnd
  dsimp only
  (repeat' split) <;> simp

@[simp] theorem psEnd_mems (s : State) (n data : Nat) (h : (kept s).2.wf = true) :
    (kept (psEnd s n data)).2.wf = true := by
  unfold psEnd
  dsimp only
  (repeat' split) <;> simp [h]

theorem execPsFrameStart_kept (s : State) (t : State) (h : execPsFrameStart s = .next t) : kept t = kept s
    := by
  cases h
  simp

theorem execPsFrameEnd_roots (nbits data : Nat) (s t : State)
    (h : execPsFrameEnd nbits data s = .next t) : (kept t).1 = (kept s).1 := by
  cases h
  simp

theorem execPsFrameEnd_mems (nbits data : Nat) (s t : State)
    (h' : execPsFrameEnd nbits data s = .next t) (h : (kept s).2.wf = true) : (kept t).2.wf = true := by
  cases h'
  simp [h]

@[simp] theorem psWhole_roots (s : State) (code : Nat) (addr : BitVec 16) (w : Word) :
    (kept (psWhole s code addr w)).1 = (kept s).1 := by
  unfold psWhole
  dsimp only
  (repeat' split) <;> simp

@[simp] theorem psWhole_mems (s : State) (code : Nat) (addr : BitVec 16) (w : Word) (h :
    (kept s).2.wf = true) :
    (kept (psWhole s code addr w)).2.wf = true := by
  unfold psWhole
  dsimp only
  (repeat' split) <;> simp [h]

theorem execPsNop_roots (s : State) (t : State) (h : execPsNop s = .next t) : (kept t).1 = (kept s).1 := by
  cases h
  simp

theorem execPsNop_mems (s : State) (t : State) (h' : execPsNop s = .next t) (h : (kept s).2.wf = true) :
    (kept t).2.wf = true := by
  cases h'
  simp [h]

theorem execPsRead_roots (addr : BitVec 16) (s : State) (t : State) (h : execPsRead addr s = .next t) :
    (kept t).1 = (kept s).1 := by
  cases h
  simp

theorem execPsRead_mems (addr : BitVec 16) (s : State) (t : State) (h' : execPsRead addr s = .next t) (h :
    (kept s).2.wf = true) : (kept t).2.wf = true := by
  cases h'
  simp [h]

theorem execPsWrite_roots (addr : BitVec 16) (data : Word) (s : State) (t : State)
    (h : execPsWrite addr data s = .next t) : (kept t).1 = (kept s).1 := by
  cases h
  simp

theorem execPsWrite_mems (addr : BitVec 16) (data : Word) (s : State) (t : State)
    (h' : execPsWrite addr data s = .next t) (h : (kept s).2.wf = true) : (kept t).2.wf = true := by
  cases h'
  simp [h]

theorem execPsWake_roots (s : State) (t : State) (h : execPsWake s = .next t) : (kept t).1 = (kept s).1 := by
  cases h
  simp

theorem execPsWake_mems (s : State) (t : State) (h' : execPsWake s = .next t) (h : (kept s).2.wf = true) :
    (kept t).2.wf = true := by
  cases h'
  simp [h]

theorem execPsFrameAbandon_kept (s : State) (t : State) (h : execPsFrameAbandon s = .next t) :
    kept t = kept s := by
  cases h
  simp

@[simp] theorem writeToMc_kept (s : State) (w : Word) : kept (writeToMc s w) = kept s := by
  simp [writeToMc]

theorem execPsMbTomcWrite_kept (w : Word) (s : State) (t : State) (h : execPsMbTomcWrite w s = .next t) :
    kept t = kept s := by
  cases h
  simp

/-! ### Machine/Faults.lean -/

theorem execFwWatchdogExpiry_roots (s : State) (t : State) (h : execFwWatchdogExpiry s = .next t) :
    (kept t).1 = (kept s).1 := by
  cases h
  split <;> simp

theorem execFwWatchdogExpiry_mems (s : State) (t : State) (h' : execFwWatchdogExpiry s = .next t) (h :
    (kept s).2.wf = true) : (kept t).2.wf = true := by
  cases h'
  split <;> simp [h]

@[simp] theorem abortCals_kept (s : State) : kept (abortCals s) = kept s := by
  simp [abortCals]

@[simp] theorem restartNow_roots (s : State) (watchdog : Bool) : (kept (restartNow s watchdog)).1 =
    (kept s).1 := by
  simp [restartNow]

@[simp] theorem restartNow_mems (s : State) (watchdog : Bool) (h : (kept s).2.wf = true) :
    (kept (restartNow s watchdog)).2.wf = true := by
  simp [restartNow, h]

theorem execFirmwareRestart_roots (watchdog : Bool) (s : State) (t : State)
    (h : execFirmwareRestart watchdog s = .next t) : (kept t).1 = (kept s).1 := by
  cases h
  simp

theorem execFirmwareRestart_mems (watchdog : Bool) (s : State) (t : State)
    (h' : execFirmwareRestart watchdog s = .next t) (h : (kept s).2.wf = true) : (kept t).2.wf = true := by
  cases h'
  simp [h]

@[simp] theorem writeSelfReset_roots (s : State) (w : Word) : (kept (writeSelfReset s w)).1 = (kept s).1 := by
  simp [writeSelfReset]

@[simp] theorem writeSelfReset_mems (s : State) (w : Word) (h : (kept s).2.wf = true) :
    (kept (writeSelfReset s w)).2.wf = true := by
  simp [writeSelfReset, h]

theorem execSelfResetWrite_roots (w : Word) (s : State) (t : State) (h : execSelfResetWrite w s = .next t) :
    (kept t).1 = (kept s).1 := by
  cases h
  simp

theorem execSelfResetWrite_mems (w : Word) (s : State) (t : State) (h' : execSelfResetWrite w s = .next t)
    (h : (kept s).2.wf = true) : (kept t).2.wf = true := by
  cases h'
  simp [h]

theorem execChipLevelSelfReset_roots (cause : SelfCause) (s : State) (t : State)
    (h : execChipLevelSelfReset cause s = .next t) : (kept t).1 = (kept s).1 := by
  cases h
  simp

theorem execChipLevelSelfReset_mems (cause : SelfCause) (s : State) (t : State)
    (h' : execChipLevelSelfReset cause s = .next t) (h : (kept s).2.wf = true) : (kept t).2.wf = true := by
  cases h'
  simp [h]

@[simp] theorem endAllInternal_roots (s : State) : (kept (endAllInternal s)).1 = (kept s).1 := by
  unfold endAllInternal
  refine (roots_foldl _ (fun s o => ?_) _ _).trans (congrArg Prod.fst (completeAll_kept _ _ _))
  split <;> simp

@[simp] theorem endAllInternal_mems (s : State) (h : (kept s).2.wf = true) :
    (kept (endAllInternal s)).2.wf = true := by
  unfold endAllInternal
  refine mems_foldl _ (fun s o h => ?_) _ _ (mems_of_kept (completeAll_kept _ _ _) h)
  split <;> simp [h]

theorem execInternalConsistencyFailure_roots (s : State) (t : State)
    (h : execInternalConsistencyFailure s = .next t) : (kept t).1 = (kept s).1 := by
  cases h
  simp

theorem execInternalConsistencyFailure_mems (s : State) (t : State)
    (h' : execInternalConsistencyFailure s = .next t) (h : (kept s).2.wf = true) : (kept t).2.wf = true := by
  cases h'
  simp [h]

@[simp] theorem latchFirst_kept (s : State) (r : Report) : kept (latchFirst s r) = kept s := by
  simp [latchFirst]

@[simp] theorem arrive_kept (s : State) (r : Report) : kept (arrive s r) = kept s := by
  unfold arrive
  split <;> simp

theorem execFaultReport_kept (src : BitVec 8) (s : State) (t : State) (h : execFaultReport src s = .next t) :
    kept t = kept s := by
  cases h
  split <;> simp

@[simp] theorem windowLen_kept (s : State) (w : Window) : kept (windowLen s w).2 = kept s := by
  unfold windowLen
  split <;> simp

@[simp] theorem closeWindow_kept (s : State) : kept (closeWindow s) = kept s := by
  unfold closeWindow
  split <;> simp

theorem execStormWindowClose_kept (s : State) (t : State) (h : execStormWindowClose s = .next t) :
    kept t = kept s := by
  cases h
  simp

@[simp] theorem heldClose_kept (s : State) : kept (heldClose s) = kept s := by
  unfold heldClose
  split <;> simp

@[simp] theorem putPend_kept (s : State) (e : EqPend) : kept (putPend s e) = kept s := by
  simp [putPend]

@[simp] theorem writeEq_roots (s : State) (c : CtxId) : (kept (writeEq s c)).1 = (kept s).1 := by
  unfold writeEq
  split
  · split <;> simp
  · extract_lets e
    split
    · rfl
    · split
      · exact roots_of_kept (heldClose_kept _) (roots_of_kept (eventGone_kept _ _)
          ((ringPut_roots _ _ _ _).trans (congrArg Prod.fst (putPend_kept _ _))))
      · split
        · rfl
        · exact (ringPut_roots _ _ _ _).trans (congrArg Prod.fst (putPend_kept _ _))

@[simp] theorem writeEq_mems (s : State) (c : CtxId) (h : (kept s).2.wf = true) :
    (kept (writeEq s c)).2.wf = true := by
  unfold writeEq
  split
  · split <;> simp [h]
  · extract_lets e
    split
    · exact h
    · split
      · exact mems_of_kept (heldClose_kept _) (mems_of_kept (eventGone_kept _ _)
          (ringPut_mems _ _ _ _ (mems_of_kept (putPend_kept _ _) h)))
      · split
        · exact h
        · exact ringPut_mems _ _ _ _ (mems_of_kept (putPend_kept _ _) h)

theorem execEqRecordWrite_roots (ctx : CtxId) (s : State) (t : State)
    (h : execEqRecordWrite ctx s = .next t) : (kept t).1 = (kept s).1 := by
  cases h
  simp

theorem execEqRecordWrite_mems (ctx : CtxId) (s : State) (t : State)
    (h' : execEqRecordWrite ctx s = .next t) (h : (kept s).2.wf = true) : (kept t).2.wf = true := by
  cases h'
  simp [h]

end Sys2Proof.Machine
end

