-- ==== Sys2Proof/Laws/KeptExecB.lean ====
section
/-! SUPPORT. What each command keeps (see Laws/Kept.lean): the remaining families. -/

namespace Sys2Proof.Machine

/-! ### Machine/Re.lean -/

theorem execReWrite_kept (op : OpId) (s : State) (t : State) (h : execReWrite op s = .next t) :
    kept t = kept s := by
  cases h
  refine kept_runDesc _ _ _ _ fun s o d => ?_
  simp

theorem execReWriteDone_roots (op : OpId) (s t : State) (h : execReWriteDone op s = .next t) :
    (kept t).1 = (kept s).1 := by
  cases h
  refine roots_onRunning _ _ _ _ fun o d => ?_
  extract_lets k
  split
  · rfl
  · exact roots_of_kept ((finishOp_kept _ _ _ _).trans (modRe_kept _ _ _)) (dramWrite_roots _ _ _)

theorem execReWriteDone_mems (op : OpId) (s t : State) (h' : execReWriteDone op s = .next t)
    (h : (kept s).2.wf = true) : (kept t).2.wf = true := by
  cases h'
  refine mems_onRunning _ _ _ _ (fun o d => ?_) h
  extract_lets k
  split
  · exact h
  · exact mems_of_kept ((finishOp_kept _ _ _ _).trans (modRe_kept _ _ _)) (dramWrite_mems _ _ _ h)

theorem execReLayer_kept (op : OpId) (s : State) (t : State) (h : execReLayer op s = .next t) :
    kept t = kept s := by
  cases h
  refine kept_runDesc _ _ _ _ fun s o d => ?_
  simp

theorem execReMap_kept (op : OpId) (s : State) (t : State) (h : execReMap op s = .next t) : kept t = kept s
    := by
  cases h
  refine kept_runDesc _ _ _ _ fun s o d => ?_
  simp

@[simp] theorem armRe_kept (s : State) (k : Fin 4) (id : OpId) (d : List Word) :
    kept (armRe s k id d) = kept s := by
  simp [armRe]

theorem execReRun_kept (op : OpId) (s : State) (t : State) (h : execReRun op s = .next t) : kept t = kept s
    := by
  cases h
  refine kept_runDesc _ _ _ _ fun s o d => ?_
  simp

theorem execReHalt_kept (op : OpId) (s : State) (t : State) (h : execReHalt op s = .next t) :
    kept t = kept s := by
  cases h
  refine kept_runDesc _ _ _ _ fun s o d => ?_
  simp

theorem execReCommitWrite_kept (k : Fin 4) (s : State) (t : State) (h : execReCommitWrite k s = .next t) :
    kept t = kept s := by
  unfold execReCommitWrite at h
  split at h <;> cases h <;> simp

theorem execVerticalBlanking_kept (k : Fin 4) (s : State) (t : State)
    (h : execVerticalBlanking k s = .next t) : kept t = kept s := by
  cases h
  simp

theorem execFrameComplete_kept (k : Fin 4) (s : State) (t : State) (h : execFrameComplete k s = .next t) :
    kept t = kept s := by
  cases h
  simp

/-! ### Machine/Measure.lean -/

theorem execPmuMeas_kept (op : OpId) (s : State) (t : State) (h : execPmuMeas op s = .next t) :
    kept t = kept s := by
  cases h
  refine kept_runDesc _ _ _ _ fun s o d => ?_
  (repeat' split) <;> simp

@[simp] theorem pmuRecord_kept (s : State) (id : OpId) (seq : Nat) (d : List Word) (x : Nat × Fin 1024) (r :
    PmuReading) : kept (pmuRecord s id seq d x r).1 = kept s := by
  simp [pmuRecord]

theorem execPmuMeasDone_kept (op : OpId) (codes : List PmuReading) (s t : State)
    (h : execPmuMeasDone op codes s = .next t) : kept t = kept s := by
  cases h
  refine kept_onRunning _ _ _ _ fun o d => ?_
  extract_lets xs r s1 s2
  have e : kept s1 = kept s := by
    refine kept_foldl_fst _ (fun a x => ?_) _ _
    simp
  split
  · refine (pumpConv_kept _).trans ((endAfter_kept _ _ _ _).trans ?_)
    rw [kept_mk, kept_fold]
    exact e
  · rfl

theorem allocRec_kept {s t : State} {c : CtxId} {k n slot : Nat} (h : allocRec s c k n = some (slot, t)) :
    kept t = kept s := by
  unfold allocRec at h
  split at h
  · cases h
  · dsimp only at h
    split at h
    · cases h; rfl
    · cases h

theorem execAcq_kept (op : OpId) (s t : State) (h : execAcq op s = .next t) : kept t = kept s := by
  cases h
  refine kept_runDesc _ _ _ _ fun s o d => ?_
  extract_lets madc
  split
  · simp
  · split
    · simp
    · rename_i e
      exact (queueConv_kept _ _).trans ((modOp_kept _ _ _).trans ((modRec_kept _ _ _).trans (allocRec_kept
        e)))

@[simp] theorem noteCodes_kept (s : State) (op : OpId) (codes : List Int) (ev : Bool) :
    kept (noteCodes s op codes ev) = kept s := by
  simp [noteCodes]

theorem execAcqTrigger_kept (op : OpId) (codes : List Int) (s : State) (t : State)
    (h : execAcqTrigger op codes s = .next t) : kept t = kept s := by
  cases h
  simp

@[simp] theorem acqEndNow_kept (s : State) (a : Acq) (why : AcqEndWhy) : kept (acqEndNow s a why) = kept s
    := by
  simp [acqEndNow]

theorem execAcqEnd_kept (op : OpId) (codes : List Int) (why : AcqEndWhy) (s : State) (t : State)
    (h : execAcqEnd op codes why s = .next t) : kept t = kept s := by
  cases h
  dsimp only
  split <;> simp

theorem execRecRead_kept (op : OpId) (s : State) (t : State) (h : execRecRead op s = .next t) :
    kept t = kept s := by
  cases h
  refine kept_runDesc _ _ _ _ fun s o d => ?_
  (repeat' split) <;> simp

theorem execRecReadDone_roots (op : OpId) (s t : State) (h : execRecReadDone op s = .next t) :
    (kept t).1 = (kept s).1 := by
  cases h
  refine roots_onRunning _ _ _ _ fun o d => ?_
  split
  · rfl
  · extract_lets first n s1 s2 s3
    have e : kept s3 = kept s1 := (finishOp_kept _ _ _ _).trans (modRec_kept _ _ _)
    have e1 : (kept s1).1 = (kept s).1 := hostWrite_roots _ _ _
    split
    · exact roots_of_kept ((freeRec_kept _ _).trans e) e1
    · exact roots_of_kept e e1

theorem execRecReadDone_mems (op : OpId) (s t : State) (h' : execRecReadDone op s = .next t)
    (h : (kept s).2.wf = true) : (kept t).2.wf = true := by
  cases h'
  refine mems_onRunning _ _ _ _ (fun o d => ?_) h
  split
  · exact h
  · extract_lets first n s1 s2 s3
    have e : kept s3 = kept s1 := (finishOp_kept _ _ _ _).trans (modRec_kept _ _ _)
    have e1 : (kept s1).2.wf = true := hostWrite_mems _ _ _ h
    split
    · exact mems_of_kept ((freeRec_kept _ _).trans e) e1
    · exact mems_of_kept e e1

theorem execRecFree_kept (op : OpId) (s : State) (t : State) (h : execRecFree op s = .next t) :
    kept t = kept s := by
  cases h
  refine kept_runDesc _ _ _ _ fun s o d => ?_
  split <;> simp

theorem execTmuMeas_kept (op : OpId) (s t : State) (h : execTmuMeas op s = .next t) : kept t = kept s := by
  cases h
  refine kept_runDesc _ _ _ _ fun s o d => ?_
  extract_lets n raw
  split
  · simp
  · split
    · simp
    · rename_i e
      extract_lets s1 s2
      have e2 : kept s2 = kept s := (modOp_kept _ _ _).trans ((modRec_kept _ _ _).trans (allocRec_kept e))
      split
      · exact (tmuBegin_kept _ _ _ _ _).trans e2
      · exact (modTmu_kept _ _ _).trans e2

theorem gateRise_kept (l : List (Fin 64)) (b : Fin 4) (s : State) : kept (l.foldl (fun s n =>
    let d := tmuDesc s n
    if (s.tmu[n]).meas.isSome ∧ bits (wd d 3) 29 28 = 1 ∧ bits (wd d 3) 27 26 = b.val then
      tmuArmNow s n
    else s) s) = kept s := by
  refine kept_foldl _ (fun s n => ?_) _ _
  dsimp only
  split <;> simp

theorem execTmuGateRise_kept (b : Fin 4) (s t : State) (h : execTmuGateRise b s = .next t) :
    kept t = kept s := by
  obtain rfl := Host.Outcome.next.inj h
  refine (gateRise_kept _ b _).trans (by simp)

theorem execTmuStampReference_kept (n : Fin 64) (s : State) (t : State)
    (h : execTmuStampReference n s = .next t) : kept t = kept s := by
  unfold execTmuStampReference at h
  (repeat' split at h) <;> cases h <;> simp

theorem execTmuStopEdge_kept (n : Fin 64) (c : BitVec 48) (s t : State)
    (h : execTmuStopEdge n c s = .next t) :
    kept t = kept s := by
  unfold execTmuStopEdge at h
  split at h
  · split at h <;> cases h <;> simp
  · cases h; rfl

theorem execTmuMeasDone_kept (n : Fin 64) (s : State) (t : State) (h : execTmuMeasDone n s = .next t) :
    kept t = kept s := by
  unfold execTmuMeasDone at h
  (repeat' split at h) <;> cases h <;> simp

/-! ### Machine/Program.lean -/

@[simp] theorem pcNext_kept (s : State) (p : Fin 16) : kept (pcNext s p) = kept s := by
  simp [pcNext]

@[simp] theorem noteMiss_kept (s : State) (p : Fin 16) : kept (noteMiss s p) = kept s := by
  simp [noteMiss]

@[simp] theorem enterHold_kept (s : State) (p : Fin 16) : kept (enterHold s p) = kept s := by
  simp [enterHold]

@[simp] theorem issueRow_kept (s : State) (p : Fin 16) (opn : Nat) (rpt : Bool) :
    kept (issueRow s p opn rpt) = kept s := by
  unfold issueRow
  split
  · simp
  · refine kept_runInstr _ _ _ _ fun s i => ?_
    simp

@[simp] theorem loadVec_kept (s : State) (p : Fin 16) : kept (loadVec s p) = kept s := by
  unfold loadVec
  dsimp only
  split <;> simp

theorem execVec_kept (p : PlazaIx) (s : State) (t : State) (h : execVec p s = .next t) : kept t = kept s := by
  cases h
  simp

theorem execRpt_kept (p : PlazaIx) (s : State) (t : State) (h : execRpt p s = .next t) : kept t = kept s := by
  cases h
  simp

@[simp] theorem pushLoop_kept (s : State) (p : Fin 16) (l : LoopLvl) : kept (pushLoop s p l) = kept s := by
  simp [pushLoop]

theorem execLoop_kept (p : PlazaIx) (s : State) (t : State) (h : execLoop p s = .next t) : kept t = kept s
    := by
  cases h
  refine kept_runInstr _ _ _ _ fun s i => ?_
  split <;> simp

@[simp] theorem endLoop_kept (s : State) (p : Fin 16) : kept (endLoop s p).1 = kept s := by
  unfold endLoop
  (repeat' split) <;> simp

theorem execEndl_kept (p : PlazaIx) (s : State) (t : State) (h : execEndl p s = .next t) : kept t = kept s
    := by
  cases h
  refine kept_runInstr _ _ _ _ fun s i => ?_
  split <;> simp

theorem pushCall_kept (s : State) (p : Fin 16) (r : BitVec 16) (f : State → State)
    (h : ∀ s, kept (f s) = kept s) : kept (pushCall s p r f) = kept s := by
  unfold pushCall
  split <;> simp [h]

theorem execCall_kept (p : PlazaIx) (s t : State) (h : execCall p s = .next t) : kept t = kept s := by
  cases h
  refine kept_runInstr _ _ _ _ fun s i => pushCall_kept _ _ _ _ fun s => ?_
  simp

theorem popCall_kept (s : State) (p : Fin 16) (f : BitVec 16 → State → State)
    (h : ∀ x s, kept (f x s) = kept s) : kept (popCall s p f) = kept s := by
  unfold popCall
  dsimp only
  (repeat' split) <;> simp [h]

theorem execRet_kept (p : PlazaIx) (s t : State) (h : execRet p s = .next t) : kept t = kept s := by
  cases h
  refine kept_runInstr _ _ _ _ fun s i => popCall_kept _ _ _ fun x s => ?_
  simp

theorem execJmp_kept (p : PlazaIx) (s : State) (t : State) (h : execJmp p s = .next t) : kept t = kept s := by
  cases h
  refine kept_runInstr _ _ _ _ fun s i => ?_
  simp

@[simp] theorem matchFire_kept (s : State) (p : Fin 16) (taken : Bool) :
    kept (matchFire s p taken) = kept s := by
  simp [matchFire]

theorem execJmpm_kept (p : PlazaIx) (s : State) (t : State) (h : execJmpm p s = .next t) : kept t = kept s
    := by
  cases h
  refine kept_runInstr _ _ _ _ fun s i => ?_
  simp

theorem execWaitm_kept (p : PlazaIx) (s : State) (t : State) (h : execWaitm p s = .next t) :
    kept t = kept s := by
  cases h
  refine kept_runInstr _ _ _ _ fun s i => ?_
  simp

theorem execSync_kept (p : PlazaIx) (s : State) (t : State) (h : execSync p s = .next t) : kept t = kept s
    := by
  cases h
  refine kept_runInstr _ _ _ _ fun s i => ?_
  simp

@[simp] theorem addAct_kept (s : State) (p : Fin 16) (a : Act) : kept (addAct s p a) = kept s := by
  simp [addAct]

theorem execEvt_kept (p : PlazaIx) (s : State) (t : State) (h : execEvt p s = .next t) : kept t = kept s := by
  cases h
  refine kept_runInstr _ _ _ _ fun s i => ?_
  simp

theorem execStepSd_kept (p : PlazaIx) (s : State) (t : State) (h : execStepSd p s = .next t) :
    kept t = kept s := by
  cases h
  refine kept_runInstr _ _ _ _ fun s i => ?_
  simp

theorem execMark_kept (p : PlazaIx) (s : State) (t : State) (h : execMark p s = .next t) : kept t = kept s
    := by
  cases h
  refine kept_runInstr _ _ _ _ fun s i => ?_
  simp

theorem execClrf_kept (p : PlazaIx) (s : State) (t : State) (h : execClrf p s = .next t) : kept t = kept s
    := by
  cases h
  refine kept_runInstr _ _ _ _ fun s i => ?_
  simp

theorem execHalt_kept (p : PlazaIx) (s : State) (t : State) (h : execHalt p s = .next t) : kept t = kept s
    := by
  cases h
  refine kept_runInstr _ _ _ _ fun s i => ?_
  simp

@[simp] theorem fillShadow_kept (s : State) (p : Fin 16) : kept (fillShadow s p) = kept s := by
  simp [fillShadow]

@[simp] theorem keepPlayed_kept (s : State) (p : Fin 16) (id : Nat) (last : Bool) :
    kept (keepPlayed s p id last) = kept s := by
  simp [keepPlayed]

@[simp] theorem endIfPlayed_kept (s : State) (p : Fin 16) : kept (endIfPlayed s p) = kept s := by
  unfold endIfPlayed
  dsimp only
  split <;> simp

@[simp] theorem playEntry_kept (s : State) (p : Fin 16) (e : Entry) (pins : List PinWave) :
    kept (playEntry s p e pins) = kept s := by
  simp [playEntry]

@[simp] theorem playWait_kept (s : State) (p : Fin 16) (w : WaitM) (pins : List PinWave) :
    kept (playWait s p w pins) = kept s := by
  simp [playWait]

@[simp] theorem playSync_kept (s : State) (p : Fin 16) (y : SyncW) (pins : List PinWave) :
    kept (playSync s p y pins) = kept s := by
  simp [playSync]

@[simp] theorem playHold_kept (s : State) (p : Fin 16) (pins : List PinWave) :
    kept (playHold s p pins) = kept s := by
  simp [playHold]

@[simp] theorem playNext_kept (s : State) (p : Fin 16) (pins : List PinWave) :
    kept (playNext s p pins) = kept s := by
  unfold playNext
  dsimp only
  (repeat' split) <;> simp

theorem execVectorPlay_kept (p : PlazaIx) (ls : List (Fin 1024 × Int)) (xs : List PinStep) (s : State) (t : State)
    (h : execVectorPlay p ls xs s = .next t) : kept t = kept s := by
  cases h
  simp

@[simp] theorem startPath_kept (s : State) (p : Fin 16) : kept (startPath s p) = kept s := by
  simp [startPath]

@[simp] theorem dropPipe_kept (s : State) (p : Fin 16) : kept (dropPipe s p) = kept s := by
  simp [dropPipe]

@[simp] theorem turnTo_kept (s : State) (p : Fin 16) (target : BitVec 16) :
    kept (turnTo s p target) = kept s := by
  simp [turnTo]

@[simp] theorem takeJump_kept (s : State) (p : Fin 16) (j : JumpReq) : kept (takeJump s p j) = kept s := by
  simp [takeJump]

@[simp] theorem endMatch_kept (s : State) (p : Fin 16) (m t : Bool) : kept (endMatch s p m t) = kept s := by
  unfold endMatch
  dsimp only
  split <;> simp

@[simp] theorem decideTest_kept (s : State) (p : Fin 16) (t : MatchTest) (m : Played) :
    kept (decideTest s p t m) = kept s := by
  unfold decideTest
  extract_lets taken s1 s2 s3 s4
  have e1 : kept s1 = kept s := matchFire_kept _ _ _
  have e2 : kept s2 = kept s := (modRun_kept _ _ _).trans e1
  clear_value s3
  (repeat' split) <;> simp [s4, e1, e2]

@[simp] theorem decideWait_kept (s : State) (p : Fin 16) (w : WaitM) : kept (decideWait s p w) = kept s := by
  simp [decideWait]

@[simp] theorem decideDue_kept (s : State) (p : Fin 16) : kept (decideDue s p) = kept s := by
  unfold decideDue
  (repeat' split) <;> simp

theorem execMatchDecision_kept (p : PlazaIx) (s : State) (t : State) (h : execMatchDecision p s = .next t) :
    kept t = kept s := by
  cases h
  dsimp only
  (repeat' split) <;> simp

theorem execJumpTakesEffect_kept (p : PlazaIx) (s : State) (t : State)
    (h : execJumpTakesEffect p s = .next t) : kept t = kept s := by
  cases h
  dsimp only
  split <;> simp

theorem execUnderrun_kept (p : PlazaIx) (s : State) (t : State) (h : execUnderrun p s = .next t) :
    kept t = kept s := by
  cases h
  simp

theorem execHoldExit_kept (p : PlazaIx) (s : State) (t : State) (h : execHoldExit p s = .next t) :
    kept t = kept s := by
  cases h
  simp

theorem execHoldTimeout_kept (p : PlazaIx) (s : State) (t : State) (h : execHoldTimeout p s = .next t) :
    kept t = kept s := by
  cases h
  simp

@[simp] theorem leaveSync_kept (s : State) (p : Fin 16) (y : SyncW) : kept (leaveSync s p y) = kept s := by
  simp [leaveSync]

theorem execSyncEvent_kept (p : PlazaIx) (s : State) (t : State) (h : execSyncEvent p s = .next t) :
    kept t = kept s := by
  cases h
  split <;> simp

theorem execSyncTimeout_kept (p : PlazaIx) (s : State) (t : State) (h : execSyncTimeout p s = .next t) :
    kept t = kept s := by
  cases h
  split <;> simp

@[simp] theorem zeroPlaza_kept (s : State) (p q : Fin 16) : kept (zeroPlaza s p q) = kept s := by
  simp [zeroPlaza]

theorem execRunTimingZero_kept (p : PlazaIx) (s : State) (t : State) (h : execRunTimingZero p s = .next t) :
    kept t = kept s := by
  cases h
  simp

/-! ### Machine/Micro.lean -/

@[simp] theorem enterUword_kept (s : State) (p : Fin 16) : kept (enterUword s p) = kept s := by
  simp [enterUword]

@[simp] theorem uFault_kept (s : State) (p : Fin 16) (code : BitVec 8) : kept (uFault s p code) = kept s := by
  simp [uFault]

theorem kept_runUword' (s : State) (p : Fin 16) (w : Word) (f : State → State)
    (h : ∀ s', kept s' = kept s → kept (f s') = kept s) : kept (runUword s p w f) = kept s := by
  unfold runUword
  dsimp only
  (repeat' split) <;> first | rfl | exact h _ (enterUword_kept _ _) | simp

theorem kept_runUword (s : State) (p : Fin 16) (w : Word) (f : State → State)
    (h : ∀ s, kept (f s) = kept s) : kept (runUword s p w f) = kept s :=
  kept_runUword' s p w f fun s' e => (h s').trans e

@[simp] theorem setK_kept (s : State) (p : Fin 16) (i : Fin 8) (v : Word) : kept (setK s p i v) = kept s := by
  simp [setK]

theorem execMicroNop_kept (p : PlazaIx) (h : UHdr) (s : State) (t : State)
    (h : execMicroNop p h s = .next t) : kept t = kept s := by
  cases h
  refine kept_runUword _ _ _ _ fun s => ?_
  simp

theorem execFld_kept (p : PlazaIx) (h : UHdr) (dst : Fin 8) (hi lo : Fin 64) (s : State) (t : State)
    (h : execFld p h dst hi lo s = .next t) : kept t = kept s := by
  cases h
  refine kept_runUword _ _ _ _ fun s => ?_
  simp

theorem execImm_kept (p : PlazaIx) (h : UHdr) (dst : Fin 8) (val : BitVec 16) (s : State) (t : State)
    (h : execImm p h dst val s = .next t) : kept t = kept s := by
  cases h
  refine kept_runUword _ _ _ _ fun s => ?_
  simp

@[simp] theorem aluOf_kept (s : State) (fn : Fin 8) (a b : Word) : kept (aluOf s fn a b).2 = kept s := by
  unfold aluOf
  (repeat' split) <;> simp

theorem execAlu_kept (p : PlazaIx) (h : UHdr) (dst a b fn : Fin 8) (s : State) (t : State)
    (h : execAlu p h dst a b fn s = .next t) : kept t = kept s := by
  cases h
  refine kept_runUword _ _ _ _ fun s => ?_
  simp

theorem execIss_kept (p : PlazaIx) (h : UHdr) (a b : Fin 8) (burst : Bool) (s t : State)
    (e : execIss p h a b burst s = .next t) : kept t = kept s := by
  cases e
  extract_lets go
  have g (x : State) : kept (go x) = kept x := by
    simp only [go]
    split <;> simp
  split
  · simp
  · refine kept_runUword _ _ _ _ fun s => (g _).trans ?_
    simp

theorem execAct_kept (p : PlazaIx) (h : UHdr) (kind : Fin 16) (a : Fin 8) (s : State) (t : State)
    (h : execAct p h kind a s = .next t) : kept t = kept s := by
  cases h
  refine kept_runUword _ _ _ _ fun s => ?_
  split <;> simp

@[simp] theorem stkEnd_kept (s : State) (p : Fin 16) (h : UHdr) : kept (stkEnd s p h) = kept s := by
  unfold stkEnd
  dsimp only
  split <;> simp

theorem execStk_kept (p : PlazaIx) (h : UHdr) (kind : Fin 16) (a b dst : Fin 8) (s t : State)
    (e : execStk p h kind a b dst s = .next t) : kept t = kept s := by
  cases e
  refine kept_runUword _ _ _ _ fun s => ?_
  dsimp only
  split
  · split <;> simp
  · simp
  · refine pushCall_kept _ _ _ _ fun s => ?_
    simp
  · refine popCall_kept _ _ _ fun x s => ?_
    simp
  · simp
  · simp

@[simp] theorem lchkStep_kept (s : State) (p : Fin 16) (h : UHdr) (a b : Fin 8) :
    kept (lchkStep s p h a b) = kept s := by
  unfold lchkStep
  split <;> simp

theorem execLchk_kept (p : PlazaIx) (h : UHdr) (a b : Fin 8) (s t : State) (e : execLchk p h a b s = .next
    t) :
    kept t = kept s := by
  cases e
  dsimp only
  split
  · simp
  · refine kept_runUword _ _ _ _ fun s => ?_
    simp

theorem execBr_kept (p : PlazaIx) (h : UHdr) (ucond : Fin 16) (target : BitVec 12) (s : State) (t : State)
    (h : execBr p h ucond target s = .next t) : kept t = kept s := by
  cases h
  refine kept_runUword _ _ _ _ fun s => ?_
  split <;> simp

theorem execPcUpd_kept (p : PlazaIx) (h : UHdr) (mode : Fin 4) (a : Fin 8) (s : State) (t : State)
    (h : execPcUpd p h mode a s = .next t) : kept t = kept s := by
  cases h
  refine kept_runUword _ _ _ _ fun s => ?_
  split <;> simp

theorem execMtch_kept (p : PlazaIx) (h : UHdr) (a b c : Fin 8) (form : Bool) (s t : State)
    (e : execMtch p h a b c form s = .next t) : kept t = kept s := by
  cases e
  refine kept_runUword' _ _ _ _ fun s' e => ?_
  dsimp only
  split
  · split
    · simp [e]
    · rfl
  · split <;> simp [e]

theorem execSyn_kept (p : PlazaIx) (h : UHdr) (a b c : Fin 8) (s t : State)
    (e : execSyn p h a b c s = .next t) : kept t = kept s := by
  cases e
  refine kept_runUword' _ _ _ _ fun s' e => ?_
  dsimp only
  split
  · simp [e]
  · rfl

theorem execTrap_kept (p : PlazaIx) (h : UHdr) (code : BitVec 8) (s : State) (t : State)
    (h : execTrap p h code s = .next t) : kept t = kept s := by
  cases h
  refine kept_runUword _ _ _ _ fun s => ?_
  simp

theorem execEndRun_kept (p : PlazaIx) (h : UHdr) (status : BitVec 8) (s : State) (t : State)
    (h : execEndRun p h status s = .next t) : kept t = kept s := by
  cases h
  refine kept_runUword _ _ _ _ fun s => ?_
  simp

theorem execMicrocodeWatchdog_kept (p : PlazaIx) (s : State) (t : State)
    (h : execMicrocodeWatchdog p s = .next t) : kept t = kept s := by
  cases h
  simp

theorem execUcodeParityError_kept (p : PlazaIx) (s : State) (t : State)
    (h : execUcodeParityError p s = .next t) : kept t = kept s := by
  cases h
  simp

/-! ### Machine/Pins.lean -/

@[simp] theorem lvlPut_kept (s : State) (bs : List Byte) (ls : Fin 8) (p : Fin 16) :
    kept (lvlPut s bs ls p) = kept s := by
  simp [lvlPut]

theorem execLvlLoad_kept (op : OpId) (s : State) (t : State) (h : execLvlLoad op s = .next t) :
    kept t = kept s := by
  cases h
  refine kept_runDesc _ _ _ _ fun s o d => ?_
  simp

theorem execSettleEnd_kept (p : PlazaIx) (s : State) (t : State) (h : execSettleEnd p s = .next t) :
    kept t = kept s := by
  cases h
  simp

@[simp] theorem keepSupplies_kept (s : State) (p : Fin 16) : kept (keepSupplies s p) = kept s := by
  simp [keepSupplies]

theorem execChCfg_kept (op : OpId) (s : State) (t : State) (h : execChCfg op s = .next t) : kept t = kept s
    := by
  cases h
  refine kept_runDesc _ _ _ _ fun s o d => ?_
  simp

theorem execParkRead_roots (op : OpId) (s t : State) (h : execParkRead op s = .next t) : (kept t).1 =
    (kept s).1 := by
  cases h
  refine roots_runDesc _ _ _ _ fun s o d => ?_
  exact (congrArg Prod.fst (finishOp_kept _ _ _ _)).trans (hostWrite_roots _ _ _)

theorem execParkRead_mems (op : OpId) (s t : State) (h' : execParkRead op s = .next t) (h :
    (kept s).2.wf = true) :
    (kept t).2.wf = true := by
  cases h'
  refine mems_runDesc _ _ _ _ (fun s o d h => ?_) h
  exact mems_of_kept (finishOp_kept _ _ _ _) (hostWrite_mems _ _ _ h)

theorem execCmpSelftest_kept (op : OpId) (s t : State) (h : execCmpSelftest op s = .next t) :
    kept t = kept s := by
  cases h
  unfold runDesc
  split
  · rfl
  · split
    · split
      · exact completeOp_kept _ _ _ _
      · dsimp only
        split
        · rfl
        · split
          · simp
          · refine (kept_foldl _ (fun s p => ?_) _ _).trans (modOp_kept _ _ _)
            simp
    · rfl

theorem execCmpSelftestDone_roots (op : OpId) (res : List SelfTestRes) (s t : State)
    (h : execCmpSelftestDone op res s = .next t) : (kept t).1 = (kept s).1 := by
  cases h
  refine roots_onRunning _ _ _ _ fun o d => ?_
  extract_lets
  split
  · exact roots_of_kept ((finishOp_kept _ _ _ _).trans (endSelftest_kept _ _)) (hostWrite_roots _ _ _)
  · rfl

theorem execCmpSelftestDone_mems (op : OpId) (res : List SelfTestRes) (s t : State)
    (h' : execCmpSelftestDone op res s = .next t) (h : (kept s).2.wf = true) : (kept t).2.wf = true := by
  cases h'
  refine mems_onRunning _ _ _ _ (fun o d => ?_) h
  extract_lets
  split
  · exact mems_of_kept ((finishOp_kept _ _ _ _).trans (endSelftest_kept _ _)) (hostWrite_mems _ _ _ h)
  · exact h

theorem execDriverOvercurrent_kept (c : Fin 1024) (s : State) (t : State)
    (h : execDriverOvercurrent c s = .next t) : kept t = kept s := by
  cases h
  simp

/-! ### Machine/Serial.lean -/

theorem execPmXfer_kept (op : OpId) (s : State) (t : State) (h : execPmXfer op s = .next t) :
    kept t = kept s := by
  cases h
  refine kept_runDesc _ _ _ _ fun s o d => ?_
  simp

theorem flashSet_wf (f : List Host.Cell) : Mem.wf 0xFF (f.foldl
    (fun m c => Mem.write 0xFF m c.1 c.2) []) = true := by
  have h : ∀ (l : List Host.Cell) (m : Mem), Mem.wf 0xFF m = true →
      Mem.wf 0xFF (l.foldl (fun m c => Mem.write 0xFF m c.1 c.2) m) = true := by
    intro l
    induction l with
    | nil => intro m hm; exact hm
    | cons c r ih => intro m hm; exact ih _ (write_wf _ _ _ _ hm)
  exact h f [] (by decide)

@[simp] theorem takeXfer_roots (s : State) (o : Op) (res : PmXferRes) (r : PmRun) :
    (kept (takeXfer s o res r)).1 = (kept s).1 := by
  unfold takeXfer
  extract_lets s1
  have e1 : (kept s1).1 = (kept s).1 := by
    simp only [s1]
    split <;> rfl
  exact (hostWrite_roots _ _ _).trans e1

@[simp] theorem takeXfer_mems (s : State) (o : Op) (res : PmXferRes) (r : PmRun) (h : (kept s).2.wf = true) :
    (kept (takeXfer s o res r)).2.wf = true := by
  unfold takeXfer
  extract_lets s1
  have e1 : (kept s1).2.wf = true := by
    simp only [s1]
    split
    · rename_i f _ _
      have hf := flashSet_wf f
      simp only [Mems.wf, kept, Bool.and_eq_true] at h ⊢
      exact ⟨⟨⟨⟨h.1.1.1.1, hf⟩, h.1.1.2⟩, h.1.2⟩, h.2⟩
    · exact h
  exact hostWrite_mems _ _ _ e1

theorem execPmXferDone_roots (res : PmXferRes) (s t : State) (h : execPmXferDone res s = .next t) :
    (kept t).1 = (kept s).1 := by
  cases h
  split
  · rfl
  · refine roots_onRunning _ _ _ _ fun o d => ?_
    split
    · exact takeXfer_roots _ _ _ _
    · extract_lets
      exact roots_of_kept (closeXfer_kept _ _ _ _ _) (takeXfer_roots _ _ _ _)

theorem execPmXferDone_mems (res : PmXferRes) (s t : State) (h' : execPmXferDone res s = .next t)
    (h : (kept s).2.wf = true) : (kept t).2.wf = true := by
  cases h'
  split
  · exact h
  · refine mems_onRunning _ _ _ _ (fun o d => ?_) h
    split
    · exact takeXfer_mems _ _ _ _ h
    · extract_lets
      exact mems_of_kept (closeXfer_kept _ _ _ _ _) (takeXfer_mems _ _ _ _ h)

theorem execPmXferWaitTimeout_roots (s t : State) (h : execPmXferWaitTimeout s = .next t) :
    (kept t).1 = (kept s).1 := by
  cases h
  split
  · rfl
  · refine roots_onRunning _ _ _ _ fun o d => ?_
    extract_lets
    split
    · exact roots_of_kept (closeXfer_kept _ _ _ _ _) rfl
    · rfl

theorem execPmXferWaitTimeout_mems (s t : State) (h' : execPmXferWaitTimeout s = .next t)
    (h : (kept s).2.wf = true) : (kept t).2.wf = true := by
  cases h'
  split
  · exact h
  · refine mems_onRunning _ _ _ _ (fun o d => ?_) h
    extract_lets
    split
    · exact mems_of_kept (closeXfer_kept _ _ _ _ _) h
    · exact h

theorem execPmInfo_roots (op : OpId) (s t : State) (h : execPmInfo op s = .next t) : (kept t).1 =
    (kept s).1 := by
  cases h
  refine roots_runDesc _ _ _ _ fun s o d => ?_
  exact roots_of_kept (finishOp_kept _ _ _ _) (hostWrite_roots _ _ _)

theorem execPmInfo_mems (op : OpId) (s t : State) (h' : execPmInfo op s = .next t) (h :
    (kept s).2.wf = true) :
    (kept t).2.wf = true := by
  cases h'
  refine mems_runDesc _ _ _ _ (fun s o d h => ?_) h
  exact mems_of_kept (finishOp_kept _ _ _ _) (hostWrite_mems _ _ _ h)

@[simp] theorem missView_kept (s : State) : kept (missView s) = kept s := by
  simp [missView]

@[simp] theorem viewRead_kept (s : State) (r : ViewRead) : kept (viewRead s r) = kept s := by
  simp [viewRead]

theorem execLineFillDone_kept (s : State) (t : State) (h : execLineFillDone s = .next t) : kept t = kept s
    := by
  cases h
  split <;> simp

theorem execFlashViewReadTimeout_kept (s : State) (t : State) (h : execFlashViewReadTimeout s = .next t) :
    kept t = kept s := by
  cases h
  split <;> simp

/-! ### Machine/Regs.lean -/

@[simp] theorem writeCtl_kept (s : State) (e : Eng) (w : Word) : kept (writeCtl s e w) = kept s := by
  unfold writeCtl
  split <;> simp

@[simp] theorem writeGlb_roots (s : State) (off : Nat) (w : Word) : (kept (writeGlb s off w)).1 =
    (kept s).1 := by
  unfold writeGlb
  split <;> simp

@[simp] theorem writeGlb_mems (s : State) (off : Nat) (w : Word) (h : (kept s).2.wf = true) :
    (kept (writeGlb s off w)).2.wf = true := by
  unfold writeGlb
  split <;> simp [h]

@[simp] theorem writeAdmin_roots (s : State) (w : Word) : (kept (writeAdmin s w)).1 = (kept s).1 := by
  unfold writeAdmin
  split <;> simp

@[simp] theorem writeAdmin_mems (s : State) (w : Word) (h : (kept s).2.wf = true) :
    (kept (writeAdmin s w)).2.wf = true := by
  unfold writeAdmin
  split <;> simp [h]

@[simp] theorem writeHif_roots (s : State) (off : Nat) (w : Word) : (kept (writeHif s off w)).1 =
    (kept s).1 := by
  unfold writeHif
  split <;> simp

@[simp] theorem writeHif_mems (s : State) (off : Nat) (w : Word) (h : (kept s).2.wf = true) :
    (kept (writeHif s off w)).2.wf = true := by
  unfold writeHif
  split <;> simp [h]

@[simp] theorem writePin_kept (s : State) (off : Nat) (w : Word) : kept (writePin s off w) = kept s := by
  unfold writePin
  split <;> simp

@[simp] theorem writeTim_kept (s : State) (off : Nat) (w : Word) : kept (writeTim s off w) = kept s := by
  unfold writeTim
  (repeat' split) <;> simp

@[simp] theorem writePlz_kept (s : State) (off : Nat) (w : Word) : kept (writePlz s off w) = kept s := by
  unfold writePlz
  (repeat' split) <;> simp

@[simp] theorem writeUcs_kept (s : State) (off : Nat) (w : Word) : kept (writeUcs s off w) = kept s := by
  simp [writeUcs]

@[simp] theorem writeCap_kept (s : State) (off : Nat) (w : Word) : kept (writeCap s off w) = kept s := by
  unfold writeCap
  split <;> simp

@[simp] theorem writeMea_kept (s : State) (off : Nat) (w : Word) : kept (writeMea s off w) = kept s := by
  unfold writeMea
  (repeat' split) <;> simp

@[simp] theorem writeAwgReg_kept (s : State) (off : Nat) (w : Word) : kept (writeAwgReg s off w) = kept s
    := by
  unfold writeAwgReg
  (repeat' split) <;> simp

@[simp] theorem setCommit_kept (s : State) (k : Fin 4) : kept (setCommit s k) = kept s := by
  simp [setCommit]

@[simp] theorem writeReReg_kept (s : State) (off : Nat) (w : Word) : kept (writeReReg s off w) = kept s := by
  unfold writeReReg
  (repeat' split) <;> simp

@[simp] theorem writePwr_kept (s : State) (off : Nat) (w : Word) : kept (writePwr s off w) = kept s := by
  unfold writePwr
  (repeat' split) <;> simp

@[simp] theorem writeCmCfg_kept (s : State) (w : Word) : kept (writeCmCfg s w) = kept s := by
  simp [writeCmCfg]

@[simp] theorem writeCmCtl_kept (s : State) (w : Word) : kept (writeCmCtl s w) = kept s := by
  unfold writeCmCtl
  split <;> simp

@[simp] theorem writeAvCfg_kept (s : State) (w : Word) : kept (writeAvCfg s w) = kept s := by
  simp [writeAvCfg]

@[simp] theorem writeLan_kept (s : State) (off : Nat) (w : Word) : kept (writeLan s off w) = kept s := by
  unfold writeLan
  (repeat' split) <;> simp

@[simp] theorem writeCal_kept (s : State) (off : Nat) (w : Word) : kept (writeCal s off w) = kept s := by
  unfold writeCal
  (repeat' split) <;> simp

@[simp] theorem writeSer_kept (s : State) (off : Nat) (w : Word) : kept (writeSer s off w) = kept s := by
  unfold writeSer
  split <;> simp

@[simp] theorem writeBoot_roots (s : State) (off : Nat) (w : Word) : (kept (writeBoot s off w)).1 =
    (kept s).1 := by
  unfold writeBoot
  split <;> simp

@[simp] theorem writeBoot_mems (s : State) (off : Nat) (w : Word) (h : (kept s).2.wf = true) :
    (kept (writeBoot s off w)).2.wf = true := by
  unfold writeBoot
  split <;> simp [h]

@[simp] theorem putMsix_kept (s : State) (e : MsixEntry) : kept (putMsix s e) = kept s := by
  simp [putMsix]

@[simp] theorem writeMsix_kept (s : State) (off : Nat) (w : Word) : kept (writeMsix s off w) = kept s := by
  unfold writeMsix
  (repeat' split) <;> simp

@[simp] theorem writeReg_roots (s : State) (off : Nat) (w : Word) : (kept (writeReg s off w)).1 =
    (kept s).1 := by
  unfold writeReg
  split <;> simp

@[simp] theorem writeReg_mems (s : State) (off : Nat) (w : Word) (h : (kept s).2.wf = true) :
    (kept (writeReg s off w)).2.wf = true := by
  unfold writeReg
  split <;> simp [h]

@[simp] theorem writeWhole_roots (s : State) (off : Nat) (w : Word) : (kept (writeWhole s off w)).1 =
    (kept s).1 := by
  unfold writeWhole
  split <;> simp

@[simp] theorem writeWhole_mems (s : State) (off : Nat) (w : Word) (h : (kept s).2.wf = true) :
    (kept (writeWhole s off w)).2.wf = true := by
  unfold writeWhole
  split <;> simp [h]

@[simp] theorem writePart_kept (s : State) (off : Nat) : kept (writePart s off) = kept s := by
  simp [writePart]

@[simp] theorem writeWords_roots (off : Nat) (bs : List Byte) (i n : Nat) (s : State) :
    (kept (writeWords off bs i n s)).1 = (kept s).1 := by
  induction n generalizing i s with
  | zero => rfl
  | succ n ih =>
    unfold writeWords
    refine (ih _ _).trans ?_
    split <;> simp

@[simp] theorem writeWords_mems (off : Nat) (bs : List Byte) (i n : Nat) (s : State) (h :
    (kept s).2.wf = true) :
    (kept (writeWords off bs i n s)).2.wf = true := by
  induction n generalizing i s with
  | zero => exact h
  | succ n ih =>
    unfold writeWords
    refine ih _ _ ?_
    split <;> simp [h]

@[simp] theorem writeBar0_roots (s : State) (off : Nat) (bs : List Byte) : (kept (writeBar0 s off bs)).1 =
    (kept s).1 := by
  unfold writeBar0
  split <;> simp

@[simp] theorem writeBar0_mems (s : State) (off : Nat) (bs : List Byte) (h : (kept s).2.wf = true) :
    (kept (writeBar0 s off bs)).2.wf = true := by
  unfold writeBar0
  split <;> simp [h]

theorem execRegisterWrite_roots (off : BitVec 18) (bytes : List Byte) (s : State) (t : State)
    (h : execRegisterWrite off bytes s = .next t) : (kept t).1 = (kept s).1 := by
  cases h
  simp

theorem execRegisterWrite_mems (off : BitVec 18) (bytes : List Byte) (s : State) (t : State)
    (h' : execRegisterWrite off bytes s = .next t) (h : (kept s).2.wf = true) : (kept t).2.wf = true := by
  cases h'
  simp [h]

@[simp] theorem answer_kept (r : Word × State) : kept (answer r) = kept r.2 := (rfl)

@[simp] theorem unserved_kept (s : State) (r : Requester) : kept (unserved s r) = kept s := by
  cases r
  · rfl
  · unfold unserved
    simp only
    split <;> rfl
  · rfl

theorem execSnapshotLoRead_kept (r : Requester) (pair : SnapPair) (s : State) (t : State)
    (h : execSnapshotLoRead r pair s = .next t) : kept t = kept s := by
  cases h
  simp

theorem execSnapshotHiRead_kept (r : Requester) (pair : SnapPair) (s : State) (t : State)
    (h : execSnapshotHiRead r pair s = .next t) : kept t = kept s := by
  cases h
  simp

@[simp] theorem restartPeak_kept (s : State) (r : PeakReg) : kept (restartPeak s r) = kept s := by
  cases r <;> simp [restartPeak]

theorem execPeakRead_kept (r : PeakReg) (s : State) (t : State) (h : execPeakRead r s = .next t) :
    kept t = kept s := by
  cases h
  simp

@[simp] theorem hostWord_kept (s : State) (off : Nat) : kept (hostWord s off).2 = kept s := by
  unfold hostWord
  split <;> simp

@[simp] theorem hostWords_kept (n off : Nat) (s : State) : kept (hostWords n off s).2 = kept s := by
  induction n generalizing off s with
  | zero => rfl
  | succ n ih => simp [hostWords, ih]

@[simp] theorem readBar0_kept (s : State) (off len : Nat) : kept (readBar0 s off len) = kept s := by
  unfold readBar0
  extract_lets
  split
  · rfl
  · exact hostWords_kept _ _ s

@[simp] theorem diagRead_kept (s : State) (a : Nat) : kept (diagRead s a) = kept s := by
  unfold diagRead
  split
  · rfl
  · exact takeFree_kept s 1

@[simp] theorem barAccess_kept (s : State) (a : BitVec 28) (b : BarAccess) :
    kept (barAccess s a b) = kept s := by
  cases b with
  | bar0 len => exact readBar0_kept _ _ _
  | bar4 =>
    simp only [barAccess]
    split
    · exact diagRead_kept _ _
    · exact viewRead_kept _ _
  | bar2 => rfl
  | bar4Write data => rfl

theorem execFlashViewRead_kept (a : BitVec 28) (v : ViewAccess) (s t : State)
    (h : execFlashViewRead a v s = .next t) : kept t = kept s := by
  cases h
  cases v with
  | core => exact viewRead_kept _ _
  | host b =>
    dsimp only
    split
    · exact barAccess_kept _ _ _
    · cases b <;> rfl

theorem execDiagView_kept (op : OpId) (s : State) (t : State) (h : execDiagView op s = .next t) :
    kept t = kept s := by
  cases h
  refine kept_runDesc _ _ _ _ fun s o d => ?_
  simp

theorem execRegDump_roots (op : OpId) (s : State) (t : State) (h : execRegDump op s = .next t) :
    (kept t).1 = (kept s).1 := by
  cases h
  refine roots_runDesc _ _ _ _ fun s o d => ?_
  simp

theorem execRegDump_mems (op : OpId) (s : State) (t : State) (h' : execRegDump op s = .next t) (h :
    (kept s).2.wf = true) : (kept t).2.wf = true := by
  cases h'
  refine mems_runDesc _ _ _ _ (fun s o d h => ?_) h
  simp [h]

/-! ### Machine/Security.lean -/

theorem execAttest_roots (op : OpId) (s t : State) (h : execAttest op s = .next t) : (kept t).1 =
    (kept s).1 := by
  cases h
  split
  · rfl
  · refine roots_runDesc _ _ _ _ fun s o d => ?_
    exact roots_of_kept (finishOp_kept _ _ _ _)
      ((hostWrite_roots _ _ _).trans (congrArg Prod.fst (takeFree_kept _ _)))

theorem execAttest_mems (op : OpId) (s t : State) (h' : execAttest op s = .next t) (h :
    (kept s).2.wf = true) :
    (kept t).2.wf = true := by
  cases h'
  split
  · exact h
  · refine mems_runDesc _ _ _ _ (fun s o d h => ?_) h
    exact mems_of_kept (finishOp_kept _ _ _ _) (hostWrite_mems _ _ _ (mems_of_kept (takeFree_kept _ _) h))

theorem execIdRead_roots (op : OpId) (s t : State) (h : execIdRead op s = .next t) : (kept t).1 =
    (kept s).1 := by
  cases h
  refine roots_runDesc _ _ _ _ fun s o d => ?_
  exact roots_of_kept (finishOp_kept _ _ _ _) (hostWrite_roots _ _ _)

theorem execIdRead_mems (op : OpId) (s t : State) (h' : execIdRead op s = .next t) (h :
    (kept s).2.wf = true) :
    (kept t).2.wf = true := by
  cases h'
  refine mems_runDesc _ _ _ _ (fun s o d h => ?_) h
  exact mems_of_kept (finishOp_kept _ _ _ _) (hostWrite_mems _ _ _ h)

theorem execFloorCommit_rise (op : OpId) (s t : State) (h : execFloorCommit op s = .next t) :
    (kept s).1.rise (kept t).1 := by
  cases h
  refine rise_runDesc _ _ _ _ fun s o d => ?_
  dsimp only
  split
  · rw [finishOp_kept]
    exact Roots.rise_refl _
  · rw [finishOp_kept]
    exact ⟨rfl, Nat.le_max_left _ _, Nat.le_max_left _ _, fun _ h => h⟩

theorem execFloorCommit_mems (op : OpId) (s t : State) (h' : execFloorCommit op s = .next t)
    (h : (kept s).2.wf = true) : (kept t).2.wf = true := by
  cases h'
  refine mems_runDesc _ _ _ _ (fun s o d h => ?_) h
  dsimp only
  split
  · exact mems_of_kept (finishOp_kept _ _ _ _) h
  · exact mems_of_kept (finishOp_kept _ _ _ _) h

theorem execKeyRevoke_rise (op : OpId) (s t : State) (h : execKeyRevoke op s = .next t) :
    (kept s).1.rise (kept t).1 := by
  cases h
  refine rise_runDesc _ _ _ _ fun s o d => ?_
  generalize hostRead s (wd64 d 10) 3309 = sig
  dsimp only
  (repeat' split)
  · rw [finishOp_kept]
    exact Roots.rise_refl _
  · rw [finishOp_kept]
    exact Roots.rise_refl _
  · rw [finishOp_kept]
    refine ⟨rfl, Nat.le_refl _, Nat.le_refl _, fun j hj => ?_⟩
    simp only [kept, Fin.getElem_fin, Vector.getElem_set] at hj ⊢
    split
    · rfl
    · exact hj

theorem execKeyRevoke_mems (op : OpId) (s t : State) (h' : execKeyRevoke op s = .next t)
    (h : (kept s).2.wf = true) : (kept t).2.wf = true := by
  cases h'
  refine mems_runDesc _ _ _ _ (fun s o d h => ?_) h
  generalize hostRead s (wd64 d 10) 3309 = sig
  dsimp only
  (repeat' split)
  · exact mems_of_kept (finishOp_kept _ _ _ _) h
  · exact mems_of_kept (finishOp_kept _ _ _ _) h
  · exact mems_of_kept (finishOp_kept _ _ _ _) h

end Sys2Proof.Machine
end

