-- ==== Sys2Proof/Laws/Ops.lean ====
section
/-! SUPPORT. What the shared operations on the operation table can do. -/

namespace Sys2Proof.Machine

/-- Looking an entry up after a change that keeps the entries' numbers. -/
theorem op?_modOp (s : State) (id j : OpId) (f : Op → Op) (hf : ∀ o, (f o).id = o.id) :
    op? (modOp s id f) j = if j = id then (op? s id).map f else op? s j := by
  unfold op? modOp
  generalize s.ops = l
  induction l with
  | nil => simp
  | cons a r ih =>
    simp only [List.map_cons, List.find?_cons]
    by_cases ha : a.id = id
    · by_cases hj : j = id
      · subst hj
        simp [ha, hf]
      · have : (a.id == j) = false := by simpa [ha] using fun h => hj h.symm
        simp only [ha, if_true, hf, hj, if_false] at ih ⊢
        rw [ha] at this
        simp only [this]
        exact ih
    · by_cases hj : j = id
      · subst hj
        simp only [ha, if_false, if_true] at ih ⊢
        have : (a.id == j) = false := by simpa using ha
        simp only [this]
        exact ih
      · simp only [ha, if_false, hj] at ih ⊢
        split
        · rfl
        · exact ih

/-- The row of an opcode on its occasion. -/
theorem runDesc_given {s : State} {id : OpId} {opc : Nat} {o : Op} (h : Given s id opc o)
    (f : State → Op → List Word → State) : runDesc s id opc f = f (begun s id) o o.cur := by
  obtain ⟨h1, h2, h3, h4⟩ := h
  simp only [runDesc, h1, h2, h3, begun, h4]
  rfl

/-- In STANDBY the row of a descriptor for a PE die ends it with E_ARG (R34). -/
theorem runDesc_barred {s : State} {id : OpId} {opc : Nat} {o : Op} (h : Barred s id opc o)
    (f : State → Op → List Word → State) : runDesc s id opc f = completeOp s id eArg [] := by
  obtain ⟨h1, h2, h3, h4⟩ := h
  simp only [runDesc, h1, h2, h3, h4]
  rfl

/-- A later happening on its occasion. -/
theorem onRunning_running {s : State} {id : OpId} {opc : Nat} {o : Op} (h : Running s id opc o)
    (f : Op → List Word → State) : onRunning s id opc f = f o o.cur := by
  obtain ⟨h1, h2, h3⟩ := h
  simp [onRunning, h1, h2, h3]

/-- Off its occasion a row changes nothing. -/
theorem runDesc_none {s : State} {id : OpId} (opc : Nat) (f : State → Op → List Word → State)
    (h : op? s id = none) : runDesc s id opc f = s := by
  simp [runDesc, h]

/-- The entry that runs, and the others. -/
theorem op?_begun (s : State) (id j : OpId) :
    op? (begun s id) j = if j = id then (op? s id).map fun o => { o with phase := .running } else op? s j :=
  op?_modOp s id j _ fun _ => rfl

/-- Counting an abort touches its context alone, and what an entry looks up. -/
theorem countAbort_ctxs (s : State) (id : OpId) (st : BitVec 8) :
    countAbort s id st = { s with ctxs := (countAbort s id st).ctxs } := by
  unfold countAbort
  split
  · split <;> rfl
  · rfl

@[simp] theorem op?_countAbort (s : State) (id j : OpId) (st : BitVec 8) :
    op? (countAbort s id st) j = op? s j := by
  rw [countAbort_ctxs]
  rfl

/-- Completing an entry touches the operation table, and the count of its context's aborted operations. -/
theorem completeOp_ops (s : State) (id : OpId) (st : BitVec 8) (r : List Word) :
    completeOp s id st r =
      { s with ops := (completeOp s id st r).ops, ctxs := (completeOp s id st r).ctxs } := by
  unfold completeOp
  rw [countAbort_ctxs]
  rfl

/-- Ending a descriptor touches the operation table, and the count of its context's aborted operations. -/
theorem finishOp_ops (s : State) (id : OpId) (st : BitVec 8) (r : List Word) :
    finishOp s id st r = { s with ops := (finishOp s id st r).ops, ctxs := (finishOp s id st r).ctxs } := by
  unfold finishOp
  split
  · rfl
  · split
    · dsimp only
      split
      · rw [completeOp_ops]
        rfl
      · rfl
    · exact completeOp_ops s id st r

/-- Every other entry stands. -/
theorem op?_completeOp_ne (s : State) (id j : OpId) (st : BitVec 8) (r : List Word) (h : j ≠ id) :
    op? (completeOp s id st r) j = op? s j := by
  unfold completeOp
  rw [op?_modOp, if_neg h, op?_countAbort]
  intro o
  split <;> rfl

theorem op?_finishOp_ne (s : State) (id j : OpId) (st : BitVec 8) (r : List Word) (h : j ≠ id) :
    op? (finishOp s id st r) j = op? s j := by
  have e (f : Op → Op) (hf : ∀ o, (f o).id = o.id) : op? (modOp s id f) j = op? s j := by
    rw [op?_modOp _ _ _ _ hf, if_neg h]
  unfold finishOp
  split
  · rfl
  · split
    · dsimp only
      split
      · rw [op?_completeOp_ne _ _ _ _ _ h]
        exact e _ fun _ => rfl
      · exact e _ fun _ => rfl
    · exact op?_completeOp_ne s id j st r h

end Sys2Proof.Machine
end

