-- ==== Sys2Proof/WellFormed.lean ====
section
/-! DEFINITION. Which commands the outside world can send: the ranges of operands that their types
do not already bound. -/

namespace Sys2Proof

/-- The steps of each pin come one after another. -/
def pinStepsOk (xs : List PinStep) : Bool :=
  xs.all fun x =>
    let ys := xs.filter (·.chan == x.chan)
    (ys.zip ys.tail).all fun p => p.1.t < p.2.t

/-- The offset lies in the BAR (Table HST-2). -/
def barOffsetOk (addr : BitVec 28) : BarAccess → Bool
  | .bar0 len => addr.toNat + len.val < 2 ^ 18
  | .bar2 => addr.toNat < 2 ^ 24
  | .bar4 | .bar4Write _ => addr.toNat < 2 ^ 26

/-- A command as the hardware can meet it. -/
def Instr.wf : Instr → Bool
  | .sqFetchComplete r n _ => r < 32768 && 1 ≤ n && n ≤ 8
  | .sqFetchTimeout r => r < 32768
  | .interruptDelayExpiry r => r < 32768
  | .mqRecordWrite r => r < 32768
  | .ctxOpsDrained c => c < 4096
  | .eqRecordWrite c => c < 4096
  | .vectorPlay _ _ xs => pinStepsOk xs
  | .flashViewRead a (.host b) => barOffsetOk a b
  | .thermalSample rs => rs.length == 32
  | .awgUnderrun _ n => 1 ≤ n
  | .registerWrite off bs => 1 ≤ bs.length && bs.length ≤ 4096 && off.toNat + bs.length ≤ 2 ^ 18
  | .psFrameEnd n x => x < 2 ^ n
  | .calRunDone _ r => r.meas.length ≤ 1408
  | _ => true

end Sys2Proof
end

