-- ==== Sys2Proof/Tests/Slice0.lean ====
section
/-! SUPPORT. Tests: each check of WellFormed refuses an ill-formed command, every statement with hypotheses has a
state and operands that meet them, and some single steps whose results are worked out from the spec's tables. -/

namespace Sys2Proof.Machine

/-! ### The states the tests use -/

/-- The block in operation: out of every reset, every rail good, the PLLs locked, the firmware RUNNING. -/
def tUp : State :=
  { State.reset with
    glb := { State.reset.glb with por := false, lock := true, vinGood := true },
    pwr := { State.reset.pwr with railUp := Vector.replicate 31 true },
    boot := { State.reset.boot with stage := .running } }

/-- An operation of context 0 with an opcode and words from word 2 on. -/
def tOp (opc : Nat) (ph : OpPhase) (ws : List Word) : Op :=
  { id := 0, ring := 0, ctx := 0, descs := [BitVec.ofNat 32 opc :: 0 :: ws], first := [], phase := ph }

/-- The block in operation with one operation in its table. -/
def tAt (opc : Nat) (ph : OpPhase) (ws : List Word) : State := { tUp with ops := [tOp opc ph ws] }

/-- The block in operation with an engine in a state. -/
def tEng (e : Eng) (st : EngState) : State := modEng tUp e fun c => { c with st := st }

/-- The block in operation with every die throttled. -/
def tHot : State := { tUp with thm := { tUp.thm with dies := Vector.replicate 10 { throttle := true } } }

/-- An attached ring of context 0 with sixteen entries. -/
def tRing (n : RingId) (ty : RingTy) (cnt : Nat) : Ring :=
  { num := n, ctx := 0, ty := ty, log2 := 4, base := 0x1000, tail := cnt }

/-- The block in operation with a ring attached and context 0 open. -/
def tRings (r : Ring) : State :=
  { tUp with
    rings := [r], ctxs := [{ num := 0 }], hif := { tUp.hif with adminEn := true, adminOn := true } }

/-- The block in operation with a pattern run of Plaza 0 that plays. -/
def tRun (i : BitVec 64) (f : Run → Run) : State :=
  modRun (modSeq tUp 0 fun q => { q with imem := [i] }) 0 fun r => f { r with phase := .running }

/-- The block in operation with a trigger at the head. -/
def tTrig (task : BitVec 8) : State := { tUp with triggers := [{ task := task, lane := 0, payload := 0 }] }

/-! ### WellFormed: an ill-formed command for each check -/

theorem test_wf_pin_steps : Instr.wf (.vectorPlay 0 [] [⟨0, 500, 1⟩, ⟨1, 100, 0⟩, ⟨0, 500, 2⟩]) = false := by decide
theorem test_wf_bar_offset : Instr.wf (.flashViewRead 0x40000 (.host (.bar0 3))) = false := by decide
theorem test_wf_fetch_count : Instr.wf (.sqFetchComplete 0 9 .ok) = false := by decide
theorem test_wf_fetch_ring : Instr.wf (.sqFetchTimeout 32768) = false := by decide
theorem test_wf_interrupt_ring : Instr.wf (.interruptDelayExpiry 32768) = false := by decide
theorem test_wf_mq_ring : Instr.wf (.mqRecordWrite 32768) = false := by decide
theorem test_wf_drained_context : Instr.wf (.ctxOpsDrained 4096) = false := by decide
theorem test_wf_eq_context : Instr.wf (.eqRecordWrite 4096) = false := by decide
theorem test_wf_thermal_readings : Instr.wf (.thermalSample []) = false := by decide
theorem test_wf_underrun_clocks : Instr.wf (.awgUnderrun 0 0) = false := by decide
theorem test_wf_register_bytes : Instr.wf (.registerWrite 0 []) = false := by decide
theorem test_wf_calibration_entries (r : CalRes) (h : r.meas.length = 1409) :
    Instr.wf (.calRunDone 0 r) = false := by
  simp [Instr.wf, h]
theorem test_wf_doorbell_good : Instr.wf (.doorbell 0 2 3 0) = true := by decide

/-! ### The table gives no row bits -/

theorem test_decode_none : decodeTableWord 32 0 = none := rfl

/-! ### Witnesses: the hypotheses of the statements can be met -/

/-- Every opcode that a statement asks for can be given and can run. -/
theorem test_witness_given (opc : Nat) (h : opc < 256) (ws : List Word) :
    Given (tAt opc .dispatched ws) 0 opc (tOp opc .dispatched ws) ∧
    Running (tAt opc .running ws) 0 opc (tOp opc .running ws) := by
  have e (ph : OpPhase) : opcodeOf (tOp opc ph ws).cur = opc := by
    simp [opcodeOf, tOp, Op.cur, wd, bits]; omega
  exact ⟨⟨rfl, rfl, e _, rfl⟩, rfl, rfl, e _⟩

/-- A descriptor for an engine on a PE die while the block is in STANDBY. -/
theorem test_witness_barred : ∀ opc ∈ [0x39, 0x3B, 0x45, 0x50, 0x51, 0x54, 0x55, 0x60, 0x61, 0x62, 0x63, 0x64, 0x65, 0x7D],
    Barred { tAt opc .dispatched [0x80000000] with glb := { tUp.glb with pwr := .standby } } 0 opc
      (tOp opc .dispatched [0x80000000]) := by
  unfold Barred; decide

theorem test_witness_IdleStepCountsTime :
    tUp.pending = [] ∧ tUp.glb.lock = true ∧ tUp.glb.por = false ∧ tUp.glb.perst = false ∧
    State.reset.pending = [] ∧ State.reset.glb.por = true := by decide

theorem test_witness_InputPowerStartsTheRails :
    (State.reset.glb.por = true ∧ State.reset.glb.vinGood = false ∧ State.reset.pwr.starting = [] ∧
      State.reset.pwr.seqStopped = false ∧ railGood State.reset .vlich = false) ∧
    (∃ s : State, s.glb.por = true ∧ s.glb.vinGood = false ∧ s.pwr.starting = [] ∧ s.pwr.seqStopped = false ∧
      railGood s .vlich = true ∧ railGood s .vio = false ∧ s.glb.pwr ≠ .deepSleep) ∧
    Rail.vpen 7 ∈ ({ State.reset with pwr := { State.reset.pwr with starting := [.vpen 7] } } : State).pwr.starting :=
  ⟨by decide,
   ⟨{ State.reset with glb := { State.reset.glb with vinGood := false },
                       pwr := { State.reset.pwr with railUp := (Vector.replicate 31 false).set 0 true } }, by decide⟩,
   by decide⟩

theorem test_witness_PllLockEndsPowerOnReset :
    (∃ s : State, s.glb.vinGood = true ∧ s.glb.lock = false ∧ coreUp s = true ∧ s.glb.pwr ≠ .deepSleep ∧
      s.glb.por = true) ∧
    ∃ s : State, s.glb.vinGood = true ∧ s.glb.lock = false ∧ coreUp s = true ∧ s.glb.pwr ≠ .deepSleep ∧
      s.glb.por = false :=
  ⟨⟨{ tUp with glb := { tUp.glb with lock := false, por := true } }, by decide⟩,
   ⟨{ tUp with glb := { tUp.glb with lock := false } }, by decide⟩⟩

theorem test_witness_BootBeginsWhenReady :
    (∃ s : State, s.boot.stage = .reset ∧ s.glb.por = false ∧ s.glb.perst = false ∧ s.glb.lock = true ∧
      coreUp s = true ∧ s.glb.pwr ≠ .deepSleep) ∧ tUp.boot.stage ≠ .reset :=
  ⟨⟨{ tUp with boot := {} }, by decide⟩, by decide⟩

theorem test_witness_InputPowerFailureResets : tUp.glb.vinGood = true := rfl

/-- Rails of the least and of the greatest order at or below 5, and rails of a PE die. -/
theorem test_witness_RailsInOperation :
    tUp.glb.por = false ∧ tUp.glb.perst = false ∧ tUp.glb.pwr ≠ .deepSleep ∧ perstHolds tUp = false ∧
    perstHolds { tUp with glb := { tUp.glb with perst := true, pwr := .deepSleep } } = false ∧
    (∀ r ∈ [Rail.vlich, .vddq], railGood tUp r = true ∧ railOrder r ≤ 5) ∧
    (∀ r ∈ [Rail.vped 0, .vpep 7, .vpen 7], railGood tUp r = true) := by decide

theorem test_witness_PerstResetsAndReleases :
    (tUp.glb.perst = false ∧ tUp.glb.pwr ≠ .deepSleep) ∧
    (∃ s : State, s.glb.perst = false ∧ s.glb.pwr = .deepSleep) ∧
    (∃ s : State, s.glb.perst = true ∧ s.glb.por = true) ∧
    (∃ s : State, s.glb.perst = true ∧ s.glb.por = false ∧ s.glb.pwr ≠ .deepSleep) ∧
    ∃ s : State, s.glb.perst = true ∧ s.glb.por = false ∧ s.glb.pwr = .deepSleep :=
  ⟨by decide, ⟨{ tUp with glb := { tUp.glb with pwr := .deepSleep } }, by decide⟩,
   ⟨{ State.reset with glb := { State.reset.glb with perst := true } }, by decide⟩,
   ⟨{ tUp with glb := { tUp.glb with perst := true } }, by decide⟩,
   ⟨{ tUp with glb := { tUp.glb with perst := true, pwr := .deepSleep } }, by decide⟩⟩

theorem test_witness_BootStagesAdvance :
    (∃ s : State, s.boot.stage = .fwInit ∧ s.boot.trying = 2) ∧
    (∃ s : State, s.boot.stage = .fwInit ∧ s.boot.trying ≠ 2) ∧
    (∃ s : State, s.boot.stage = .fwInit ∧ peSampled s = false) ∧
    (∃ s : State, s.boot.stage = .fwInit ∧ peSampled s = true) ∧ (∃ s : State, s.boot.stage = .restarting) ∧
    ∃ s : State, s.boot.stage = .fwInit ∧ s.patch.st = 1 ∧ numAt s.boot.runMan 0x14 4 ≠ 0 :=
  ⟨⟨{ tUp with boot := { tUp.boot with stage := .fwInit, trying := 2 } }, by decide⟩,
   ⟨{ tUp with boot := { tUp.boot with stage := .fwInit, trying := 1 } }, by decide⟩,
   ⟨{ tUp with boot := { tUp.boot with stage := .fwInit } }, by decide⟩,
   ⟨{ tUp with boot := { tUp.boot with stage := .fwInit },
               thm := { tUp.thm with dies := Vector.replicate 10 { band := some 0 } } }, by decide⟩,
   ⟨{ tUp with boot := { tUp.boot with stage := .restarting } }, by decide⟩,
   ⟨{ tUp with patch := { tUp.patch with st := 1 },
               boot := { tUp.boot with stage := .fwInit, runMan := List.replicate 64 1 } }, by decide⟩⟩

theorem test_witness_ClockAndDieLinkFailures :
    (tUp.glb.por = false ∧ tUp.glb.perst = false ∧ tUp.glb.lock = true ∧ tUp.glb.pwr = .active ∧
      peGood tUp 7 = true) ∧
    ∃ s : State, s.glb.lock = true ∧ s.glb.pwr ≠ .active ∧ s.glb.pwr ≠ .idle :=
  ⟨by decide, ⟨{ tUp with glb := { tUp.glb with pwr := .standby } }, by decide⟩⟩

theorem test_witness_PowerRequestsAreActedOnOrHeld :
    barsOn tUp = true ∧ tUp.glb.busy = false ∧
    barsOn ({ tUp with glb := { tUp.glb with busy := true } } : State) = true := by decide

theorem test_witness_StandbyNeedsEveryEngineOff :
    (tUp.glb.pwr = .active ∧ ∀ e ∈ allEngs, isOff tUp e = true) ∧
    ((tEng .portM .on).glb.pwr ≠ .deepSleep ∧ ∃ e ∈ allEngs, isOff (tEng .portM .on) e = false) ∧
    ∀ p ∈ [PwrState.standby, .deepReq], ∃ s : State, s.glb.pwr = p ∧ s.glb.linkL23 = false ∧
      ∀ e ∈ allEngs, isOff s e = true := by
  have h : ∀ e : Eng, isOff tUp e = true := by intro e; cases e <;> decide +revert
  exact ⟨⟨rfl, fun e _ => h e⟩, ⟨by decide, .portM, by simp [allEngs], by decide⟩,
    fun p _ => ⟨{ tUp with glb := { tUp.glb with pwr := p } }, rfl, rfl, fun e _ => h e⟩⟩

theorem test_witness_PowerChangesEnd :
    (∃ s : State, s.glb.busy = true ∧ s.glb.target = .standby ∧ s.glb.heldReq = none) ∧
    (∃ s : State, s.glb.busy = true ∧ s.glb.target = .deepReq ∧ s.glb.heldReq = none ∧ s.glb.linkL23 = false) ∧
    (∃ s : State, s.glb.busy = true ∧ s.glb.target = .active ∧ upReady s = true ∧ s.glb.heldReq = none) ∧
    (∃ s : State, awake s = true ∧ s.glb.pwr = .deepReq ∧ s.glb.busy = false ∧ s.glb.linkL23 = false) ∧
    (awake tUp = true ∧ tUp.glb.pwr ≠ .deepReq) ∧ ∃ s : State, s.glb.pwr = .deepSleep :=
  ⟨⟨{ tUp with glb := { tUp.glb with busy := true, target := .standby } }, by decide⟩,
   ⟨{ tUp with glb := { tUp.glb with busy := true, target := .deepReq } }, by decide⟩,
   ⟨{ tUp with glb := { tUp.glb with busy := true, target := .active },
               thm := { tUp.thm with dies := Vector.replicate 10 { band := some 0 } } }, by decide⟩,
   ⟨{ tUp with glb := { tUp.glb with pwr := .deepReq } }, by decide⟩, by decide,
   ⟨{ tUp with glb := { tUp.glb with pwr := .deepSleep } }, rfl⟩⟩

/-- Every row of the Enable column is met, and a start is blocked in STANDBY. -/
theorem test_witness_EnableFollowsTheStateTable :
    (∀ st ∈ [EngState.off, .starting, .on, .stopping, .pendingOn, .fault],
      barsOn (tEng (.re 3) st) = true ∧ isMember (tEng (.re 3) st) (.re 3) = false ∧
      alwaysBlocked (tEng (.re 3) st) (.re 3) = false ∧ (getEng (tEng (.re 3) st) (.re 3)).offCycle = false ∧
      (getEng (tEng (.re 3) st) (.re 3)).st = st) ∧
    startBlocked tUp (.re 3) = false ∧
    (∃ s : State, barsOn s = true ∧ alwaysBlocked s (.re 3) = false ∧ (getEng s (.re 3)).st = .off ∧
      startBlocked s (.re 3) = true) ∧
    (∀ o : Bool, (getEng (modEng tUp (.re 3) fun c => { c with offCycle := o }) (.re 3)).offCycle = o) ∧
    (∃ x ∈ together { tUp with cal := { tUp.cal with running := [{ op := 0, key := .dps 31 }] } } (.dps 31),
      calibrating { tUp with cal := { tUp.cal with running := [{ op := 0, key := .dps 31 }] } } x = true) ∧
    throttled tHot (.re 3) = true ∧
    ∃ s : State, barsOn s = true ∧ s.boot.stage = .recovery :=
  ⟨by decide, by decide, ⟨{ tUp with glb := { tUp.glb with pwr := .standby } }, by decide⟩, by decide, by decide, by decide,
   { tUp with boot := { tUp.boot with stage := .recovery } }, by decide⟩

theorem test_witness_DisableFollowsTheStateTable :
    (∀ st ∈ [EngState.off, .starting, .on, .stopping, .pendingOn, .fault],
      barsOn (tEng (.dps 31) st) = true ∧ isMember (tEng (.dps 31) st) (.dps 31) = false ∧
      (getEng (tEng (.dps 31) st) (.dps 31)).offCycle = false ∧ (getEng (tEng (.dps 31) st) (.dps 31)).st = st) ∧
    (getEng (modEng tUp (.dps 31) fun c => { c with offCycle := true }) (.dps 31)).offCycle = true ∧
    ((modPlz tUp 15 fun P => { P with cfg := { P.cfg with linked := true } }).plz[15]).cfg.linked = true := by decide

theorem test_witness_StartsAndStopsEnd :
    ((getEng (tEng (.awg 15) .starting) (.awg 15)).st = .starting ∧
      startReady (tEng (.awg 15) .starting) (.awg 15) = true) ∧
    (∃ s : State, (getEng s (.dps 31)).st = .starting ∧ startReady s (.dps 31) = true) ∧
    (∀ st ∈ [EngState.stopping, .pendingOn], stopReady (tEng (.awg 15) st) (.awg 15) = true ∧
      (getEng (tEng (.awg 15) st) (.awg 15)).st = st ∧ (getEng (tEng (.awg 15) st) (.awg 15)).offCycle = false) ∧
    (∃ s : State, (getEng s (.awg 15)).offCycle = true ∧ startBlocked s (.awg 15) = false) ∧
    ∃ s : State, (getEng s (.awg 15)).offCycle = true ∧ startBlocked s (.awg 15) = true :=
  ⟨by decide, ⟨modDps (tEng (.dps 31) .starting) 31 fun D => { D with stage := .settle }, by decide⟩, by decide,
   ⟨modEng tUp (.awg 15) (fun c => { c with offCycle := true }), by decide⟩,
   modEng { tUp with park := { tUp.park with stands := true } } (.awg 15) (fun c => { c with offCycle := true }),
   by decide⟩

theorem test_witness_EngineTimeoutsFault :
    isMember (tEng (.tmu 63) .starting) (.tmu 63) = false ∧
    (getEng (tEng (.tmu 63) .starting) (.tmu 63)).st = .starting ∧
    (getEng (tEng (.tmu 63) .pendingOn) (.tmu 63)).st = .pendingOn := by decide

/-- Plaza 14 leads Plaza 15, both in a state. -/
def tSet (st : EngState) : State :=
  modPlz (modPlz { tUp with
    patch := { tUp.patch with st := 2 },
    thm := { tUp.thm with dies := Vector.replicate 10 { band := some 0 } } } 14
    fun P => { P with eng := { P.eng with st := st } }) 15
    fun P => { P with eng := { P.eng with st := st }, cfg := { P.cfg with linked := true, leader := 14 } }

/-- A link set in each state that its statement asks for; its start is free, or its widths differ. -/
theorem test_witness_EngineTimeoutsFault_set :
    (∀ st ∈ [EngState.off, .starting, .on, .stopping], barsOn (tSet st) = true ∧
      ((tSet st).plz[14]).cfg.linked = false ∧ setOf (tSet st) 14 = [14, 15] ∧
      (getEng (tSet st) (.plaza 14)).st = st ∧ (getEng (tSet st) (.plaza 15)).st = st ∧
      (getEng (tSet st) (.plaza 14)).offCycle = false) ∧
    startBlocked (tSet .off) (.plaza 14) = false ∧
    setBad (modPlz (tSet .off) 15 fun P => { P with cfg := { P.cfg with width := 3 } }) 14 = true := by decide +kernel

theorem test_witness_EngineDescriptorsRequest :
    throttled tUp .portM = false ∧
    throttled tHot .portM = true ∧ alwaysBlocked tHot .portM = true ∧
    isMember (tEng (.re 3) .fault) (.re 3) = false ∧ (getEng (tEng (.re 3) .fault) (.re 3)).st = .fault ∧
    bits (wd (tOp 0x90 .dispatched [0x40000000]).cur 2) 31 30 = 1 ∧
    bits (wd (tOp 0x90 .dispatched [0x80000000]).cur 2) 31 30 = 2 ∧
    bits (wd (tOp 0x90 .dispatched [0xC0000000]).cur 2) 31 30 = 3 ∧
    ((wd (tOp 0x55 .dispatched [0x4100003F]).cur 2).getLsbD 24 = true ∧
      bits (wd (tOp 0x55 .dispatched [0x4100003F]).cur 2) 5 0 = 63) := by decide

/-- A ring table whose three admin entries hold, and an empty one. -/
theorem test_witness_FormatAgreementAndAdminContext :
    barsOn tUp = true ∧ tUp.hif.adminEn = false ∧ (tRings (tRing 0 .sq 0)).hif.adminEn = true ∧
    ({ tUp with hif := { tUp.hif with agreedF2 := true } } : State).hif.agreedF2 = true ∧
    adminRings tUp = none ∧
    (adminRings { tUp with hostMem := [⟨9, 0x04⟩, ⟨14, 1⟩, ⟨40, 1⟩, ⟨41, 0x04⟩, ⟨72, 4⟩, ⟨73, 0x04⟩] }).isSome =
      true := by decide

theorem test_witness_AdminEnNeedsAnAgreedFormat :
    barsOn tUp = true ∧ tUp.hif.adminEn = false ∧ tUp.hif.agreedF1 = false ∧ tUp.hif.agreedF2 = false := by decide

theorem test_witness_LinkResetsDetachEverything :
    awake tUp = true ∧ barsOn (tRings (tRing 1 .cq 0)) = true ∧ (tRings (tRing 1 .cq 0)).hif.adminEn = true := by
  decide

/-- A full advance of an empty SQ, and the release of every entry of a full CQ; each case that ignores a doorbell. -/
theorem test_witness_DoorbellsMoveOwnRings :
    barsOn (tRings (tRing 3 .sq 0)) = true ∧ (tRings (tRing 3 .sq 0)).hif.adminOn = true ∧
    ring? (tRings (tRing 3 .sq 0)) 3 = some (tRing 3 .sq 0) ∧ isOpen (tRings (tRing 3 .sq 0)) 0 = true ∧
    ((15 + (tRing 3 .sq 0).size - (tRing 3 .sq 0).tail) % (tRing 3 .sq 0).size ≤
      (tRing 3 .sq 0).size - 1 - (tRing 3 .sq 0).used) ∧
    ((15 + (tRing 4 .cq 15).size - (tRing 4 .cq 15).head) % (tRing 4 .cq 15).size ≤ (tRing 4 .cq 15).used) ∧
    (tRing 3 .sq 0).size ≤ 16 ∧ isOpen (tRings (tRing 3 .sq 0)) 0xFFF = false ∧ (tRing 3 .sq 0).ctx ≠ 0xFFF ∧
    ring? (tRings (tRing 3 .sq 0)) 4 = none ∧ tUp.hif.adminOn = false := by decide

theorem test_witness_FetchTakesDescriptorsInOrder :
    ring? (tRings (tRing 3 .sq 8)) 3 = some (tRing 3 .sq 8) ∧ fetches (tRings (tRing 3 .sq 8)) (tRing 3 .sq 8) = true ∧
    8 ≤ (tRing 3 .sq 8).used ∧ (tRing 3 .sq 8).retries < (tRings (tRing 3 .sq 8)).hif.retries.toNat ∧
    (tRings (tRing 3 .sq 8)).hif.retries.toNat ≤ ({ tRing 3 .sq 8 with retries := 3 } : Ring).retries := by decide

theorem test_witness_DispatchAndTimeouts :
    (∃ s o, op? s 0 = some o ∧ dispatchable s o = true ∧ o.id = 0 ∧ o.phase = .waiting ∧
      tooHot s o.cur = false ∧ chainRsv s o = false) ∧
    (∃ s o, op? s 0 = some o ∧ dispatchable s o = true ∧ o.id = 0 ∧ o.phase = .waiting ∧ tooHot s o.cur = false ∧
      chainRsv s o = true) ∧
    tooHot tHot (tOp 0x64 .waiting [15]).cur = true ∧
    (∃ s o, op? s 0 = some o ∧ dispatchable s o = true ∧ o.id = 0 ∧ (standingBy s && onPeDie o.cur) = true) ∧
    (∃ s o, op? s 0 = some o ∧ o.phase = .dispatched ∧ usesHost (opcodeOf o.cur) = true) ∧
    ∀ c ∈ [0x52, 0x62, 0x71, 0x7C, 0x91], op? (tAt c .running []) 0 = some (tOp c .running []) ∧
      opcodeOf (tOp c .running []).cur = c :=
  ⟨⟨{ tRings (tRing 0 .sq 0) with ops := [tOp 0 .waiting []] }, tOp 0 .waiting [], by decide⟩,
   ⟨{ tRings (tRing 0 .sq 0) with
      ops := [{ tOp 0 .waiting [] with descs := [[0], [0x45]] }], hostMem := [⟨8, 1⟩] },
    { tOp 0 .waiting [] with descs := [[0], [0x45]] }, by decide⟩, by decide,
   ⟨{ tRings (tRing 0 .sq 0) with glb := { tUp.glb with pwr := .standby }, ops := [tOp 0x39 .waiting []] },
    tOp 0x39 .waiting [], by decide⟩,
   ⟨tAt 0x38 .dispatched [], tOp 0x38 .dispatched [], by decide⟩, by decide⟩

theorem test_witness_EndedDescriptorCompletesOnce :
    op? (tAt 0 .running []) 0 = some (tOp 0 .running []) ∧ (tOp 0 .running []).live = true ∧
    (tOp 0 .running []).descs.length ≤ 1 ∧
    1 < ({ tOp 0 .running [] with descs := [[], []] } : Op).descs.length ∧
    (tOp 0 (.completed { status := 0 }) []).live = false ∧
    (∀ c ∈ [0x39, 0x64], 1 < ({ tOp 0 .running [] with descs := [[], [c]] } : Op).descs.length) ∧
    onPeDie [0x39] = true ∧ standingBy { tUp with glb := { tUp.glb with pwr := .standby } } = true ∧
    standingBy tUp = false ∧ tooHot tHot [0x64] = true :=
  ⟨by decide, by decide, by decide, by decide, by decide, fun _ _ => by simp, by decide, by decide, by decide, by decide⟩

theorem test_witness_CompletionsGoToTheCq :
    (∃ s o r, op? s 0 = some o ∧ o.phase = .completed { status := 0 } ∧ ring? s o.cq = some r ∧ r.ty = .cq ∧
      r.ctx = o.ctx ∧ r.full = false) ∧
    (∃ s o r, op? s 0 = some o ∧ o.phase = .completed { status := 0 } ∧ ring? s o.cq = some r ∧ r.ty = .cq ∧
      r.ctx = o.ctx ∧ r.full = true) ∧
    (∃ s o, op? s 0 = some o ∧ o.phase = .completed { status := 0 } ∧ ring? s o.cq = none) ∧
    ∃ s r, ring? s 7 = some r ∧ r.intEn = true ∧ 0 < r.intCount :=
  ⟨⟨{ tRings (tRing 0 .cq 14) with ops := [tOp 0 (.completed { status := 0 }) []] },
    tOp 0 (.completed { status := 0 }) [], tRing 0 .cq 14, by decide⟩,
   ⟨{ tRings (tRing 0 .cq 15) with ops := [tOp 0 (.completed { status := 0 }) []] },
    tOp 0 (.completed { status := 0 }) [], tRing 0 .cq 15, by decide⟩,
   ⟨tAt 0 (.completed { status := 0 }) [], _, rfl, rfl, by decide⟩,
   ⟨tRings { tRing 7 .fq 0 with intEn := true, intCount := 1 }, _, rfl, rfl, by decide⟩⟩

theorem test_witness_RingEntriesAreWrittenInOrder :
    ring? (tRings (tRing 7 .fq 15)) 7 = some (tRing 7 .fq 15) ∧
    (tRing 7 .fq 15).base + entrySize .fq * (tRing 7 .fq 15).tail + entrySize .fq ≤ 2 ^ 64 ∧
    (tRing 7 .fq 15).tail + 1 = (tRing 7 .fq 15).size ∧ memoriesWf (tRings (tRing 7 .fq 15)) = true := by decide

theorem test_witness_ContextsOpenAndAnswer :
    (∃ n, lowestFree (begun (tAt 0x01 .dispatched []) 0) = some n) ∧
    (wd (tOp 0x01 .dispatched [0x80000000]).cur 2).getLsbD 31 = true ∧
    isOpen (begun (tAt 0x01 .dispatched [0xFFF]) 0) (bits (wd (tOp 0x01 .dispatched [0xFFF]).cur 2) 11 0) = false ∧
    ctx? (begun { tRings (tRing 0 .sq 0) with ops := [tOp 0x08 .dispatched []] } 0) 0 = some { num := 0 } :=
  ⟨Option.isSome_iff_exists.1 (by
      rw [lowestFree, List.find?_isSome]; exact ⟨1, by simp, by decide⟩), by decide, by decide, by decide⟩

theorem test_witness_ContextsAbortAndClose :
    targetOpen (begun { tUp with ops := [tOp 0x03 .dispatched [5]], ctxs := [{ num := 5 }] } 0) 5 = true ∧
    bits (wd (tOp 0x03 .dispatched [5]).cur 2) 11 0 ≠ 0 ∧
    targetOpen (begun (tAt 0x03 .dispatched [0xFFF]) 0) 0xFFF = false ∧
    (∃ s x, ctx? s 5 = some x ∧ (∀ y ∈ s.ops, y.ctx ≠ 5) ∧ x.phase = .aborting (some 0)) ∧
    ∃ s x, ctx? s 5 = some x ∧ (∀ y ∈ s.ops, y.ctx ≠ 5) ∧ x.phase = .closing none :=
  ⟨by decide, by decide, by decide,
   ⟨{ tUp with ctxs := [{ num := 5, phase := .aborting (some 0) }] }, _, rfl, by decide, rfl⟩,
   ⟨{ tUp with ctxs := [{ num := 5, phase := .closing none }] }, _, rfl, by decide, rfl⟩⟩

theorem test_witness_ContextsOpenAndAnswer_full :
    lowestFree { tUp with ctxs := (List.range 4096).map fun n => { num := n } } = none := by
  rw [lowestFree, List.find?_eq_none]
  intro x hx
  simpa [isOpen, ctx?] using hx

theorem test_witness_ResourceClaimIsAllOrNothing :
    targetOpen { tAt 0x04 .dispatched [5] with ctxs := [{ num := 5 }] } 5 = true ∧
    claimedBy (tOp 0x04 .dispatched [5, 0x8001, 0, 0, 0, 0, 0, 0]).cur ≠ [] ∧
    holder (setHolder tUp (.plaza 15) (some 4)) (.plaza 15) = some 4 ∧ holder tUp (.plaza 15) = none := by decide

theorem test_witness_ResourceReleaseNeedsOff :
    claimCheck (setHolder tUp (.plaza 15) (some 4)) 5 [.plaza 15] = some eOwned ∧
    claimCheck (setHolder tUp (.plaza 15) (some 5)) 5 [.plaza 15] = none ∧
    (∃ e ∈ engsOf (.plaza 15), isOff (tEng (.plaza 15) .on) e = false) ∧
    ∀ e ∈ engsOf (.plaza 15), isOff tUp e = true := by decide

/-- A ring's entry that holds and may be attached, one for an SQ whose CQ is missing, and the cases of a detach. -/
theorem test_witness_RingsAttachAndDetach :
    (∃ r, ringEntry { tUp with hostMem := [⟨104, 1⟩, ⟨105, 4⟩] } 3 0 = some r ∧ attachCheck tUp 0 (some r) = none) ∧
    attachCheck tUp 0 (some (tRing 3 .sq 0)) = some eArg ∧ ringEntry tUp 3 0 = none ∧
    targetOpen (begun { tRings (tRing 3 .sq 0) with ops := [tOp 0x07 .dispatched [0, 3]] } 0) 0 = true ∧
    ring? (tRings (tRing 3 .sq 0)) 3 = some (tRing 3 .sq 0) ∧
    detachBarred (begun (tRings (tRing 3 .sq 0)) 0) (tRing 3 .sq 0) = false ∧ (tRing 3 .sq 0).detach = none ∧
    detachBarred { tUp with rings := [{ tRing 3 .sq 0 with cqring := 4 }] } (tRing 4 .cq 0) = true ∧
    ring? (tRings (tRing 3 .sq 0)) 4 = none :=
  ⟨⟨{ num := 3, ctx := 0, ty := .cq, log2 := 4, base := 0 }, by decide⟩, by decide, by decide, by decide, by decide,
   by decide, by decide, by decide, by decide⟩

/-- On Plazas of width 4: a level set and a timing set that hold, and empty ones. -/
theorem test_witness_LevelAndTimingSetsAreTakenWhole :
    plazasOf (BitVec.ofNat 16 (bits (wd (tOp 0x38 .dispatched [0x8001]).cur 2) 15 0)) = [0, 15] ∧
    (∃ q ∈ [(0 : Fin 16), 15], lvlOk tUp [] 0 q = false) ∧ (∃ q ∈ [(0 : Fin 16), 15], tsOk tUp [] 0 q = false) ∧
    (∃ s : State, lvlOk s ([1, 0, 4, 0] ++ List.replicate 12 0 ++ (List.replicate 4
      (List.replicate 28 0 ++ [0x20, 0xA1, 0x07, 0] ++ List.replicate 16 0)).flatten) 208 15 = true) ∧
    (∃ s : State, tsOk s ([1, 0, 4, 0, 0x40, 0x42, 0x0F, 0] ++ List.replicate 136 0) 144 15 = true) ∧
    dskOk [] = false ∧ dskOk (1 :: List.replicate 527 0) = true ∧
    (∃ s : State, targetBand s 15 ≠ (s.plz[15]).tim.applied ∧ (s.plz[15]).tim.stale = false) ∧
    quietThroughout tUp (leaderOf tUp 15) = true ∧
    ∃ s : State, (s.plz[leaderOf s 15]).run.phase = .running ∧ (s.plz[leaderOf s 15]).run.cyc = 0 :=
  ⟨by decide, ⟨0, by decide, by decide⟩, ⟨15, by decide, by decide⟩,
   ⟨modPlz tUp 15 fun P => { P with cfg := { P.cfg with width := 0 } }, by decide +kernel⟩,
   ⟨modPlz tUp 15 fun P => { P with cfg := { P.cfg with width := 0 } }, by decide +kernel⟩,
   by decide, by decide +kernel,
   ⟨modTim tUp 15 (fun t => { t with forceEn := true, band := 7 }), by decide⟩, by decide,
   modRun tUp 15 fun r => { r with phase := .running }, by decide⟩

theorem test_witness_ChannelsAreConfiguredAndProtected :
    (∃ s : State, (getChan s 1023).sDrv = true ∧ (getChan s 1023).drvOn = true ∧ (getChan s 1023).mode = .pe) ∧
    (∃ s : State, (s.plz[chPlaza 1023]).psup.getLsbD (chIx 1023).val = true ∧ (getChan s 1023).mode = .pmuFv) ∧
    (∀ p ∈ [(0 : Fin 16), 15], (tUp.plz[p]).pin.selftest = none ∧ isOff tUp (.plaza p) = true) ∧
    (∃ s : State, (s.plz[15]).pin.selftest ≠ none) ∧ isOff (tEng (.plaza 15) .on) (.plaza 15) = false ∧
    (∃ s : State, ((s.plz[15]).chans[63]).mode = .pmuFv ∧ ((s.plz[15]).chans[63]).leader = none) ∧
    ((tUp.plz[15]).chans[63]).mode ≠ .pmuFv ∧
    (cfgRoles (tUp.plz[15]) (1#64 <<< 63) (fun k => cfgEnt [] k)).getLast? = some (63, .own) ∧
    cfgOk tUp 15 63 (cfgEnt (List.replicate 1024 0) 63) = true ∧
    cfgOk tUp 15 63 (cfgEnt (List.replicate 1024 0xFF) 63) = false :=
  ⟨⟨modChan tUp 1023 fun ch => { ch with mode := .pe, sDrv := true, drvOn := true }, by decide⟩,
   ⟨modPlz (modChan tUp 1023 fun ch => { ch with mode := .pmuFv }) 15 fun P => { P with psup := 1#64 <<< 63 },
    by decide⟩, by decide, ⟨modPin tUp 15 fun n => { n with selftest := some 0 }, by decide⟩, by decide,
   ⟨modChan tUp 1023 fun ch => { ch with mode := .pmuFv }, by decide⟩, by decide, by decide +kernel,
   by decide +kernel, by decide +kernel⟩

/-- The CRC register over some bytes, each value forced before the next byte. -/
def tCrc : BitVec 32 → List Byte → BitVec 32
  | c, [] => c
  | c, b :: r => if crcByte c b = 0 then tCrc 0 r else tCrc (crcByte c b) r

theorem tCrc_eq (bs : List Byte) : ∀ c, tCrc c bs = bs.foldl crcByte c := by
  induction bs with
  | nil => intro c; rfl
  | cons b r ih =>
    intro c
    rw [tCrc, ih, ih, List.foldl_cons]
    split
    · next h => rw [h]
    · rfl

/-- An image that holds: FORMAT 1, then zeros, and their CRC. -/
def tPark : Mem := [(0, 1), (0xFFC, 0xAA), (0xFFD, 0x2C), (0xFFE, 0x9C), (0xFFF, 0xCC)]

theorem test_witness_ParkStoreIsReadAndWritten :
    (tOp 0x83 .dispatched []).ctx = 0 ∧ tUp.park.writes < 1000 ∧
    1000 ≤ ({ tUp with park := { tUp.park with writes := 1000 } } : State).park.writes ∧
    parkGood (parkImage []) = false ∧ parkGood tPark = true := by
  have h : crc32c (Mem.readBytes 0 tPark 0 0xFFC) = 0xCC9C2CAA := by
    rw [crc32c, ← tCrc_eq]; decide +kernel
  refine ⟨by decide, by decide, by decide, ?_, ?_⟩
  · simp [parkGood, show imgNum (parkImage []) 0 2 = 0 by decide]
  · rw [parkGood, h]
    decide +kernel

/-- A program of one HALT, of 72 bytes; a slot that is active; a fill in progress, replaced and not. -/
theorem test_witness_SequencerDescriptorsAct :
    plzIx (tOp 0x15 .dispatched [15]).cur = 15 ∧ runBusy tUp 15 = false ∧ segHeld tUp 0 = false ∧
    slotActive (tUp.plz[15]) 63 = false ∧
    (∃ s : State, runAllowed s 15 (tOp 0x15 .dispatched [15]).cur = true ∧ (s.plz[15]).run.phase = .none ∧
      (s.plz[15]).runQ = []) ∧
    runAllowed tUp 15 (tOp 0x15 .dispatched [15]).cur = false ∧ parseImage tUp.dram.segCount 0 [] = none ∧
    (parseImage tUp.dram.segCount 72 ([1, 0, 0, 0, 1] ++ List.replicate 66 0 ++ [0x78])).isSome = true ∧
    (∃ s : State, slotActive (s.plz[15]) 63 = true ∧ segHeld s 7 = true ∧ runBusy s 15 = true) ∧
    (∃ s : State, (s.plz[15]).seq.fillQ = [(63, 4)] ∧ (s.plz[15]).seq.slots[63].filling = some (7, 4)) ∧
    ∃ s : State, (s.plz[15]).seq.fillQ = [(63, 4), (63, 5)] ∧ (s.plz[15]).seq.slots[63].filling = some (7, 5) :=
  ⟨by decide, by decide, by decide, by decide,
   ⟨modSeq (tEng (.plaza 15) .on) 15 fun q => { q with imem := [0] }, by decide⟩, by decide, by decide,
   by decide +kernel,
   ⟨modRun (modSeq tUp 15 fun q => { q with slots := q.slots.set 63 { seg := some 7 } }) 15 fun r =>
      { r with phase := .running, fifo := [{ id := 0, vaddr := 7 * 2048, reps := 1 }] }, by decide +kernel⟩,
   ⟨modSeq tUp 15 fun q => { q with slots := q.slots.set 63 { filling := some (7, 4) }, fillQ := [(63, 4)] },
    by decide +kernel⟩,
   ⟨modSeq tUp 15 fun q =>
      { q with slots := q.slots.set 63 { filling := some (7, 5) }, fillQ := [(63, 4), (63, 5)] }, by decide +kernel⟩⟩

theorem test_witness_RunsPlayHoldAndTurn :
    (∃ s : State, ((s.plz[0]).run.phase = .armed ∧ (s.plz[0]).run.arm = 0)) ∧
    (∃ (s : State) (e : Entry), (s.plz[0]).run.phase = .running ∧ testDue (s.plz[0]).run = false ∧
      waitDue (s.plz[0]).run = false ∧ jumpDue (s.plz[0]).run = false ∧ (s.plz[0]).run.cur = some e ∧
      fillShadow s 0 = s) ∧
    (∃ (s : State) (w : WaitM), (s.plz[0]).run.phase = .running ∧ testDue (s.plz[0]).run = false ∧
      waitDue (s.plz[0]).run = false ∧ jumpDue (s.plz[0]).run = false ∧ (s.plz[0]).run.cur = none ∧
      (s.plz[0]).run.fifo = [] ∧ (s.plz[0]).run.waitm = some w ∧ fillShadow s 0 = s) ∧
    (∃ (s : State) (y : SyncW), (s.plz[0]).run.phase = .running ∧ (s.plz[0]).run.cur = none ∧
      (s.plz[0]).run.fifo = [] ∧ (s.plz[0]).run.waitm = none ∧ (s.plz[0]).run.sync = some y ∧ y.ready = false ∧
      fillShadow s 0 = s) ∧
    (∃ (s : State) (m : MatchTest) (x : Played), (s.plz[0]).run.on = true ∧ testDue (s.plz[0]).run = true ∧
      (s.plz[0]).run.test = some m ∧ ((judgeTo s 0 m.entry).plz[0]).run.test = some m ∧ m.m = some x) ∧
    (∃ (s : State) (w : WaitM), (s.plz[0]).run.on = true ∧ testDue (s.plz[0]).run = false ∧
      waitDue (s.plz[0]).run = true ∧ (s.plz[0]).run.waitm = some w) ∧
    (∃ (s : State) (j : JumpReq), (s.plz[0]).run.on = true ∧ (s.plz[0]).run.jump = some j ∧
      jumpDue (s.plz[0]).run = true) ∧
    (∃ s : State, (s.plz[0]).run.phase = .running ∧ canPlay s 0 = false ∧ testDue (s.plz[0]).run = false ∧
      jumpDue (s.plz[0]).run = false ∧ (s.plz[0]).run.ending = none ∧ (s.plz[0]).run.straight = false) ∧
    (∃ s : State, (s.plz[0]).run.phase = .hold ∧ canPlay s 0 = false ∧ runsOn s 0 = false) ∧
    (∀ n : Nat, ∃ s : State, (s.plz[0]).run.phase = .hold ∧ (s.plz[0]).run.holdLen = n ∧ canPlay s 0 = true) ∧
    tUp.plz[0].run.on = false ∧
    (∃ (s : State) (t : MatchTest), fillDue s 0 = true ∧ (s.plz[0]).run.test = some t ∧
      0 < recPeriod s 0 (s.plz[0]).seq.holdVec) ∧
    ∀ b m, ∃ (s : State) (y : SyncW), (s.plz[0]).run.sync = some y ∧ y.micro = m ∧ y.ready = b :=
  ⟨⟨modRun tUp 0 fun r => { r with phase := .armed }, by decide⟩,
   ⟨tRun 0 fun r => { r with cur := some { id := 0, vaddr := 0, reps := 1 } }, { id := 0, vaddr := 0, reps := 1 },
    by decide, by decide, by decide, by decide, by decide, rfl⟩,
   ⟨tRun 0 fun r => { r with waitm := some { id := 0, cond := 0, vaddr := 0, limit := 1 } }, _, by decide, by decide,
    by decide, by decide, by decide, by decide, rfl, rfl⟩,
   ⟨tRun 0 fun r => { r with sync := some { id := 0, src := 2, line := 0, vaddr := 0 } }, _, by decide, by decide,
    by decide, by decide, rfl, rfl, rfl⟩,
   ⟨tRun 0 fun r => { r with
      ps := 40000, test := some { cond := 0, target := 0, entry := 0, m := some { id := 0 }, played := 4 } }, _, _,
    by decide, by decide, rfl, by rfl, rfl⟩,
   ⟨tRun 0 fun r => { r with
      ps := 40000, waitm := some { id := 0, cond := 0, vaddr := 0, limit := 1, played := 5, hit := some true, shadow := 4 } },
    _, by decide, by decide, by decide, rfl⟩,
   ⟨tRun 0 fun r => { r with lastAddr := some 0, lastRpt := true, jump := some { target := 0, op := none } }, _,
    by decide, rfl, by decide⟩,
   ⟨tRun 0 fun r => r, by decide⟩, ⟨modRun tUp 0 fun r => { r with phase := .hold }, by decide⟩,
   fun n => ⟨modRun tUp 0 fun r => { r with phase := .hold, holdLen := n, fifo := [{ id := 0, vaddr := 0, reps := 1 }] },
    rfl, rfl, rfl⟩, by decide,
   ⟨tRun 0 fun r => { r with test := some { cond := 0, target := 0, entry := 0, m := some { id := 0 } } }, _, by decide,
    rfl, by decide⟩,
   fun b m => ⟨tRun 0 fun r => { r with
     sync := some { id := 0, src := 2, line := 0, vaddr := 0, ready := b, micro := m } }, _, rfl, rfl, rfl⟩⟩

/-- Each opcode from LOOP to HALT may be the one at the program counter of a run that plays; each outcome of LOOP's
check, and of ENDL, CALL and RET, with and without a level. -/
theorem test_witness_FlowInstructionsMoveTheProgram :
    (∀ o ∈ [3, 4, 5, 6, 7, 8, 15], canBegin (tRun (BitVec.ofNat 64 (o * 2 ^ 59)) fun r => r) 0 = true ∧
      inRom (tRun (BitVec.ofNat 64 (o * 2 ^ 59)) fun r => r) o = true ∧
      opOf (instrAt ((tRun (BitVec.ofNat 64 (o * 2 ^ 59)) fun r => r).plz[0])
        ((tRun (BitVec.ofNat 64 (o * 2 ^ 59)) fun r => r).plz[0]).run.pc) = o) ∧
    loopCheck ((tRun 0 fun r => r).plz[0]) 0 0 = .enter [] ∧
    loopCheck (({ tRun 0 fun r => r with plz := (modSeq (tRun 0 fun r => r) 0 fun q => { q with sset := [9] }).plz }
      : State).plz[0]) 0 1 = .wait ∧
    (∀ l : LoopLvl, loopCheck ((tRun 0 fun r => { r with loops := List.replicate 8 l }).plz[0]) 0 0 = .stack) ∧
    loopCheck ((tRun 0 fun r => { r with
      loops := [{ start := 0, endPc := 0, count := 1, segs := List.range 61, depth := 0 }] }).plz[0]) 0 0 = .limit ∧
    (∀ c : CallLvl, ∃ r : Run, r.calls = c :: r.calls.tail ∧ 16 ≤ r.calls.length ∧
      canBegin (tRun (BitVec.ofNat 64 (5 * 2 ^ 59)) fun x => { x with calls := r.calls }) 0 = true) :=
  ⟨by decide, by decide, by decide, fun _ => rfl, by decide +kernel,
   fun c => ⟨{ calls := List.replicate 16 c }, rfl, by simp, by rfl⟩⟩

theorem test_witness_StreamInstructionsIssue :
    (∀ o ∈ [1, 2, 9, 10, 11, 12, 13, 14], canBegin (tRun (BitVec.ofNat 64 (o * 2 ^ 59)) fun r => r) 0 = true ∧
      inRom (tRun (BitVec.ofNat 64 (o * 2 ^ 59)) fun r => r) o = true ∧
      opOf (instrAt ((tRun (BitVec.ofNat 64 (o * 2 ^ 59)) fun r => r).plz[0])
        ((tRun (BitVec.ofNat 64 (o * 2 ^ 59)) fun r => r).plz[0]).run.pc) = o) ∧
    (∃ s : State, (s.plz[15]).run.issue.isSome = true) ∧ idleReady tUp 15 0 = false ∧
    ∃ s : State, idleReady s 15 (2 ^ 31 - 1) = true :=
  ⟨by decide, ⟨modRun tUp 15 fun r => { r with issue := some { vaddr := 0, count := 1, rpt := true, instr := true } },
    by decide⟩, by decide,
   modSeq tUp 15 fun q => { q with slots := q.slots.set 63 { seg := some (2 ^ 20 - 1) } }, by decide⟩

/-- Without an upset word no parity disagrees (R207). -/
theorem parityBad_clean {s : State} {p : Fin 16} {a : BitVec 12} (h : (s.plz[p]).uc.upset = []) :
    parityBad s p a = false := by
  simp only [parityBad, h]; simp

/-- A patched instruction has no longest path (R208). -/
theorem pathOk_patched {s : State} {p : Fin 16} {w : Word}
    (h : inRom s (opOf (curInstr (s.plz[p]))) = false) : pathOk s p w = true := by
  simp only [pathOk, h]; rfl

/-- A microword of a free microaddress may run between the instructions; one of a patched page may be upset, or
illegal; a microword that waits, with its issue in progress and done. -/
theorem test_witness_MicrowordsActOnTheirPlaza :
    (∀ w : Word, illegalWord w = false → ∃ s : State, canUword s 0 = true ∧
      parityBad s 0 (nextUaddr (s.plz[0])) = false ∧ illegalAt s (nextUaddr (s.plz[0])) = false ∧
      ((enterUword s 0).plz[0]).uc.count < ((enterUword s 0).plz[0]).uc.limit ∧
      wordFits s (nextUaddr (s.plz[0])) w = true ∧ pathOk (enterUword s 0) 0 w = true ∧
      endFits (enterUword s 0) 0 w = true) ∧
    (∃ s : State, canUword s 0 = true ∧ parityBad s 0 (nextUaddr (s.plz[0])) = true) ∧
    (∃ s : State, canUword s 0 = true ∧ parityBad s 0 (nextUaddr (s.plz[0])) = false ∧
      illegalAt s (nextUaddr (s.plz[0])) = true ∧
      ((enterUword s 0).plz[0]).uc.count < ((enterUword s 0).plz[0]).uc.limit) ∧
    (∃ s : State, (s.plz[0]).uc.busy = true ∧ (s.plz[0]).uc.limit ≤ (s.plz[0]).uc.count) ∧
    (∃ s : State, pageOf s (nextUaddr (s.plz[0])) ≠ 0) ∧
    ∀ h : UHdr, (∃ t : State, (t.plz[0]).uc.wait.isSome = true ∧ (t.plz[0]).run.issue.isSome = true) ∧
      ∀ w : Word, ∃ t : State, (t.plz[0]).uc.wait = some h ∧ (t.plz[0]).run.issue = none ∧ (t.plz[0]).run.test = none ∧
        (t.plz[0]).run.waitm = none ∧ (t.plz[0]).run.sync = none ∧ wordFits t (nextUaddr (t.plz[0])) w = true := by
  let s := modUc (tRun 0 fun r => r) 0 fun u => { u with busy := true, uaddr := 0x800 }
  let z (w : Word) := { s with patch := { s.patch with pageMap := List.replicate 64 1, ram := List.replicate 64 w } }
  let q := z 0x0F000000
  have U : nextUaddr (s.plz[0]) = 0x800 := by decide
  have L : (s.plz[0]).uc.count < (s.plz[0]).uc.limit := by decide
  have B : (s.plz[0]).uc.busy = true := by decide
  have O : opOf (curInstr (s.plz[0])) = 0 := by decide
  have E (w : Word) : enterUword (z w) 0 = z w := by unfold enterUword; exact if_pos B
  have G (w : Word) : pathOk (enterUword (z w) 0) 0 w = true := by
    have I : inRom (z w) (opOf (curInstr ((z w).plz[0]))) = false := by
      rw [show opOf (curInstr ((z w).plz[0])) = 0 from O]; rfl
    rw [E]; exact pathOk_patched I
  have A (w : Word) : nextUaddr ((z w).plz[0]) = 0x800 := U
  have P (w : Word) : pageOf (z w) (nextUaddr ((z w).plz[0])) = 1 := by rw [A]; rfl
  have K (w : Word) : endFits (enterUword (z w) 0) 0 w = true := by rw [E]; simp only [endFits, show pageOf (z w) (nextUaddr ((z w).plz[(0 : Fin 16)])) = 1 from P w]; rfl
  have H (w : Word) : (z w).patch.ram.getD (ramIx (z w) (nextUaddr ((z w).plz[0]))) 0 = w := by rw [A]; rfl
  have M : (s.plz[0]).uc.upset = [] := by decide
  have N (w : Word) : parityBad (z w) 0 (nextUaddr ((z w).plz[0])) = false := parityBad_clean M
  have F (w : Word) : wordFits (z w) (nextUaddr ((z w).plz[0])) w = true := by simp only [wordFits, P, H]; simp
  refine ⟨fun w h => ⟨z w, rfl, N w, by simp only [illegalAt, P, H, h]; rfl, by rw [E]; exact L, F w, G w, K w⟩,
    ⟨modUc q 0 fun u => { u with upset := [0] }, by decide, by decide⟩,
    ⟨q, by decide, by decide, by decide, by decide⟩, ⟨modUc s 0 fun u => { u with count := 64 }, by decide⟩,
    ⟨q, by decide⟩, fun h => ⟨?_, fun w =>
      ⟨modUc (z w) 0 fun u => { u with wait := some h }, rfl, rfl, rfl, rfl, rfl, F w⟩⟩⟩
  exact ⟨modRun (modUc s 0 fun u => { u with wait := some h }) 0 fun r =>
    { r with issue := some { vaddr := 0, count := 1, rpt := true, instr := false } }, rfl, rfl⟩

/-- An empty step of Plaza p. -/
def tStep (p : Fin 16) (closing : Option OpId) : TStep :=
  { num := 0, ctx := 0, group := false, plazas := 1#16 <<< p.val, since := 0, limits := [], passHard := 0, passSoft := 0,
    noHard := 0, noSoft := 0, sites := [], closing := closing }

theorem test_witness_CaptureRecordsAndStepsProceed :
    (∀ cnt ∈ [14, 15], ∃ (s : State) (r : FqRec) (rest : List FqRec) (x : Ring), (s.plz[15]).cap.buf = r :: rest ∧
      ring? s r.ring = some x ∧ x.full = (cnt == 15)) ∧
    (∀ cnt ∈ [14, 15], ∃ (s : State) (m : MqPend) (x : Ring), s.mqPend.find? (fun m => m.ring == 7) = some m ∧
      ring? s 7 = some x ∧ x.full = (cnt == 15)) ∧
    ringIs (tRings (tRing 7 .fq 0)) 7 0 .fq = true ∧ ringIs tUp 7 0 .fq = false ∧
    stepOf tUp 15 = none ∧ limitTable [] 0 = none ∧
    (limitTable ([1, 0, 1] ++ List.replicate 45 0) 48).isSome = true ∧
    (∃ s : State, stepOf s 15 = none ∧ (mqOf s 15).isSome = true ∧ widthOf s 15 = 64) ∧
    (∃ (s : State) (x : TStep), stepOf s 15 = some x ∧ x.closing = none ∧ (closer s x).map (·.id) = some 0 ∧
      Given s 0 0x43 { tOp 0x43 .dispatched [15, 0] with seq := 1 }) ∧
    (∃ (s : State) (x : TStep), Running s 0 0x43 { tOp 0x43 .running [15, 0] with seq := 1 } ∧
      s.steps.find? (fun t => t.closing == some 0) = some x ∧ ∀ y ∈ s.ops, feeds s x y = false) ∧
    mqsBound { tOp 0x44 .dispatched [] with mqs := [(15, 7)] } [15] = true ∧
    mqsBound (tOp 0x44 .dispatched []) [15] = false ∧
    maskTable [] 0 = none ∧ (maskTable ([1, 0, 0, 0, 1] ++ List.replicate 19 0) 24).isSome = true ∧
    (tUp.dg[15]).mask = none :=
  ⟨fun cnt h => ⟨modCap (tRings (tRing 7 .fq cnt)) 15 fun c =>
      { c with buf := [{ ring := 7, typ := 1, seqNo := 0, site := 0, cycle := 0 }] }, _, _, tRing 7 .fq cnt, rfl, rfl,
      by fin_cases h <;> decide⟩,
   fun cnt h => ⟨{ tRings (tRing 7 .mq cnt) with mqPend := [{ ring := 7, op := 0, rec_ :=
        { typ := 1, hi := 0, plaza := 0, site := 0, stale := false, words := [] } }] }, _, tRing 7 .mq cnt, rfl, rfl,
      by fin_cases h <;> decide⟩,
   by decide, by decide, by decide, by decide, by decide +kernel,
   ⟨modCap tUp 15 fun c => { c with cur := { c.cur with mqEn := true, mq := 7 } }, by decide⟩,
   ⟨{ tUp with ops := [{ tOp 0x43 .dispatched [15, 0] with seq := 1 }], steps := [tStep 15 none] }, tStep 15 none,
    by decide, rfl, by decide, rfl, rfl, by decide⟩,
   ⟨{ tUp with ops := [{ tOp 0x43 .running [15, 0] with seq := 1 }], steps := [tStep 15 (some 0)] }, tStep 15 (some 0),
    ⟨rfl, rfl, by decide⟩, rfl, by decide⟩,
   by decide, by decide, by decide, by decide +kernel, rfl⟩

/-- A record of context 0 with two samples. -/
def tRec (complete : Bool) (readers : List OpId) (freeing : Option OpId) : Rec :=
  { slot := 0, gen := 1, ctx := 0, kind := 0, data := .samples [⟨1, false⟩, ⟨2, false⟩], bytes := 8,
    complete := complete, readers := readers, freeing := freeing }

/-- An acquisition of digitizer 15 with room for one sample. -/
def tAcq (at_ : Option Nat) : Acq :=
  { op := 0, madc := false, plaza := 15, chan := 1023, range := 0, trig := 0, mid := 0, ofs := 0, level := 0, n := 1,
    pre := 0, dec := 1, slot := 0, trigAt := at_ }

theorem test_witness_MeasurementsEndWithTheirRecords :
    (∀ f ∈ [none, some 4], ∀ rs ∈ [[], [3]], ∀ c ∈ [true, false],
      recOf { tUp with dram := { tUp.dram with recs := [tRec c rs f] } } 0 0x1000 = some (tRec c rs f)) ∧
    recOf tUp 0 0 = none ∧ recRange (tRec true [] none) 0 2 = some 2 ∧ recRange (tRec true [] none) 0 3 = none ∧
    acqEnds tUp (tAcq (some 0)) .full = false ∧ acqEnds tUp (tAcq none) .senseOpened = true ∧
    acqEnds (tEng (.dg 15) .pendingOn) (tAcq none) .stopped = true ∧
    acqCode (tAcq none) (-2048) = true ∧ acqCode (tAcq none) 2048 = false ∧
    pmuArgs tUp (tOp 0x50 .dispatched [0x8000, 0x3F0000, 1000]).cur = true ∧
    (∃ s : State, pmuArgs s (tOp 0x50 .dispatched [0x8000, 0x040000, 1000]).cur = false) ∧
    pmuOk 1 { chan := 0, codes := [131071], compliance := false } = true ∧
    (∃ s : State, acqArgs s (tOp 0x51 .dispatched [0x3FF000F, 0, 0, 0, 1]).cur = true) ∧
    acqArgs tUp (tOp 0x51 .dispatched [0x3FF000F]).cur = false ∧
    (∃ s : State, tmuArgs s (tOp 0x54 .dispatched [63, 0, 63, 63, 0, 0, 0, 0, 240]).cur = true) ∧
    tmuArgs tUp (tOp 0x54 .dispatched [63]).cur = false ∧
    (∀ a ∈ [TmuArm.waitRef, .measuring, .done], ∃ (s : State) (m : TmuMeas), (s.tmu[63]).meas = some m ∧ m.arm = a ∧
      bits (wd (tmuDesc s 63) 4) 31 30 = 0) := by
  exact ⟨by decide, by decide, by decide, by decide, by decide, by decide, by decide, by decide, by decide,
    by decide, ⟨modPlz tUp 15 fun P => { P with cfg := { P.cfg with width := 0 } }, by decide⟩, by decide,
    ⟨modChan (tEng (.dg 15) .on) 1023 fun ch => { ch with sSns := true }, by decide⟩, by decide,
    ⟨modChan (modEng (tEng (.tmu 63) .on) (.plaza 15) fun c => { c with st := .on }) 1023 fun ch =>
      { ch with mode := .pe }, by decide +kernel⟩, by decide,
    fun a _ => ⟨modTmu (tAt 0x54 .running [63]) 63 fun T => { T with meas := some { op := 0, arm := a, slot := 0 } }, _,
      rfl, rfl, by cases a <;> decide⟩⟩

/-- The empty record area takes a record that fills it, and no larger one. -/
theorem test_witness_MeasurementsEndWithTheirRecords_room (b : Nat) :
    (allocRec tUp 0 0 b).isSome = decide (b ≤ 2 ^ 30) := by
  have h (m : Nat) : (List.range (m + 1)).find? (fun n => tUp.dram.recs.all fun r => r.slot != n) = some 0 := by
    rw [List.range_succ_eq_map]; rfl
  have g : recBytes tUp = 0 := rfl
  unfold allocRec
  rw [h 4095]
  by_cases hb : b ≤ 2 ^ 30 <;> simp only [g, Nat.zero_add, hb] <;> rfl

/-- A sequence entry that stops, and one that goes on with itself. -/
def tEnt (stop : Bool) : SeqEnt :=
  { stop := stop, evt := false, next := 0, wseg := 0, rep := 0, ftw := 0, phase := 0 }

/-- AWG 15 in the play of its only entry. -/
def tPlay (stop : Bool) (pre : Option (Fin 256 × Nat × Nat)) : State :=
  modAwg tUp 15 fun A =>
    { A with seq := [tEnt stop], run := { A.run with phase := .playing, play := some (0, 0, 64), pre := pre } }

/-- With no calibration set taken, the offset of R286's bound converts. -/
theorem test_awg_offset_converts (s : State) (a : Fin 16)
    (h : (if isOff s (.awg a) then (awgCal s a)[3]? else (s.awg[a]).corr[3]?).getD (0, 0) = (0, 0)) :
    awgOfsOk s a 4000000 = true := by
  have g : (corrected 10 4000000 (0, 0)).natAbs = 4000000 * (10 * 2 ^ 31) := by norm_num [corrected]
  have g' : (corrected 10 4000000 (0, 0)).natAbs ≤ awgOffsetScale * (10 * 2 ^ 31) := by
    rw [g]; exact Nat.mul_le_mul_right _ (by unfold awgOffsetScale; omega)
  unfold awgOfsOk
  simp only [h]
  exact decide_eq_true g'

theorem test_witness_WaveformRunsPlayTheirSequence :
    wsegActive tUp.awg[15] 255 = false ∧ rangeActive tUp.awg[15] 100663232 64 = false ∧
    wsegActive (tPlay true none).awg[15] 0 = true ∧ (tUp.awg[15]).run.busy = false ∧
    (tPlay true none).awg[15].run.busy = true ∧ awgOfsOk tUp 15 4000000 = true ∧
    Int.natAbs (-4000000) + awgFs 1 ≤ 7000000 ∧
    (List.range 1).mapM (fun i => parseSeqEnt tUp.awg[15] 1 (sliceB (List.replicate 16 0) (16 * i) 16)) = none ∧
    ((List.range 1).mapM fun i => parseSeqEnt { tUp.awg[15] with wsegs := (Vector.replicate 256 { len := 64 }) } 1
      (sliceB (List.replicate 16 0) (16 * i) 16)).isSome = true ∧
    (∃ s : State, awgReady s 15 (tOp 0x64 .dispatched [15, 0]).cur = true) ∧
    (∀ g ∈ [none, some ((0 : Fin 256), 0, 64)], ∃ s : State,
      (s.awg[15]).run.phase = .armed ∧ (s.awg[15]).run.fired = true ∧ (s.awg[15]).run.pre = g) ∧
    (∃ s : State, (s.awg[15]).run.phase = .playing ∧ (s.awg[15]).run.decided = false) ∧
    ∀ stop : Bool, ∀ g ∈ [none, some ((0 : Fin 256), 0, 64)], ∃ (s v : State), v = modAwg s 15 decideNow ∧
      (v.awg[15]).run.phase = .playing ∧ (v.awg[15]).run.play = some (0, 0, 64) ∧
      nextEntry v.awg[15] = (if stop then none else some 0) ∧ (v.awg[15]).run.pre = g :=
  ⟨by decide, by decide, by decide, by decide, by decide, test_awg_offset_converts _ _ (by decide), by decide,
   by decide, by decide, ⟨modAwg (tEng (.awg 15) .on) 15 fun A => { A with seq := [tEnt true] }, by decide⟩,
   fun g _ => ⟨modAwg tUp 15 fun A => { A with run := { A.run with phase := .armed, fired := true, pre := g } },
    rfl, rfl, rfl⟩,
   ⟨modAwg tUp 15 fun A => { A with run := { A.run with phase := .playing } }, rfl, rfl⟩,
   fun stop g h => ⟨modAwg (tPlay stop g) 15 fun A => { A with run := { A.run with decided := true } }, _, rfl, by rfl,
    by rfl, by cases stop <;> rfl, by rfl⟩⟩

/-- The image part at its last byte and one past it; a layer at its greatest width; a map of SRC 0 and a bad one. -/
theorem test_witness_RasterRunsFollowTheirSetUp :
    (tUp.re[3]).run.busy = false ∧ partSize tUp < 0 + 4 ∧
    (∃ s : State, 0 + 4 ≤ partSize s ∧
      Layer.ok s { width := 8192, height := 1, stride := 32768, x := 8191, y := 8191 } = true) ∧
    Layer.ok tUp { width := 8193, height := 1 } = false ∧
    (∀ c < 64, mapEntryOk 64 (List.replicate 64 0x8000) c = true) ∧ mapEntryOk 64 [0x40] 0 = false ∧
    (∃ s : State, (s.re[3]).run.busy = false ∧ (s.re[3]).eng.st = .on ∧ (streamOf s 3).isSome = true ∧
      (s.re[3]).committed = true) ∧
    streamOf tUp 3 = none ∧ (∃ s : State, barsOn s = true ∧ (s.re[3]).run.busy = true) ∧
    (∀ hs ∈ [[], [4]], ∃ s : State, (s.re[3]).run.vblankDue = true ∧ (s.re[3]).run.halts = hs) ∧
    (∃ s : State, (s.re[3]).run.frameDue = true ∧ (s.re[3]).run.frames ≠ 0 ∧
      (s.re[3]).run.frames ≤ (s.re[3]).run.done + 1) ∧
    (∃ s : State, (s.re[3]).run.frameDue = true ∧ (s.re[3]).run.done + 1 < (s.re[3]).run.frames) :=
  ⟨by decide, by decide,
   ⟨{ tUp with dram := { tUp.dram with segCount := 0xB0000 } }, by decide, by decide⟩, by decide, by decide, by decide,
   ⟨modPlz (modRe (tEng (.re 3) .on) 3 fun R => { R with committed := true }) 15 fun P =>
      { P with rmap := P.rmap.set 0 0x8000 }, by decide +kernel⟩, by decide,
   ⟨modRe tUp 3 fun R => { R with run := { R.run with phase := .running } }, by decide⟩,
   fun hs _ => ⟨modRe tUp 3 fun R => { R with run := { R.run with vblankDue := true, halts := hs } }, rfl, rfl⟩,
   ⟨modRe tUp 3 fun R => { R with run := { R.run with frameDue := true, frames := 1 } }, by decide⟩,
   ⟨modRe tUp 3 fun R => { R with run := { R.run with frameDue := true, frames := 2 } }, by decide⟩⟩

/-- DPS 31 with a set-up at its greatest, and each state and step of a supply; a crossing that acts, one blanked, and
one during a trip test; the budget at 90 and at 100 percent of its limit and above. -/
theorem test_witness_SuppliesAreConfiguredWatchedAndTripped :
    peUp tUp = true ∧ isOn (tEng (.dps 31) .on) (.dps 31) = true ∧
    checkCodes {} ⟨31, [], [], [], [], true⟩ = true ∧
    checkCodes { vEn := true } ⟨31, List.replicate 16 0, List.replicate 16 1023, [], [], true⟩ = true ∧
    dpsIx (tOp 0x7A .dispatched [31, 0, 1000]).cur = 31 ∧ bits (wd (tOp 0x7A .dispatched [31, 0, 1000]).cur 4) 9 0 = 1000 ∧
    (∃ (s : State) (c : DpsCfg), c.inRange = true ∧ c.vset ≤ dpsTop s ∧ c.converts (dpsCal s 31) = true ∧
      c.vset ≤ 1000 * c.slew * dpsStartMs s ∧ c.vset = 15000000) ∧
    DpsCfg.inRange { vset := 15000001 } = false ∧ Mon.ok {} = true ∧ Mon.ok { vhi := 16380001 } = false ∧
    (∀ x ∈ [(EngState.on, DpsStage.none), (.starting, .ramp), (.starting, .discharge), (.stopping, .ramp),
        (.pendingOn, .discharge)], ∃ s : State, (s.dps[31]).eng.st = x.1 ∧ (s.dps[31]).stage = x.2 ∧
      (s.dps[31]).ramping = true ∧ (s.dps[31]).live.sense = true ∧ (s.dps[31]).pkgSense = false) ∧
    (∃ s : State, (s.dps[31]).eng.st = .fault ∧ (s.dps[31]).sink = true) ∧
    (∃ s : State, (s.dps[31]).eng.st = .on ∧ (s.dps[31]).mon.en = true ∧ (s.dps[31]).blanked = false ∧
      (s.dps[31]).tripped = false ∧ tripPathOpen s 31 = false ∧ monCause (s.dps[31]) 20000000 0 = some 1) ∧
    (∃ s : State, (s.dps[31]).eng.st = .on ∧ (s.dps[31]).blanked = true ∧ monCause (s.dps[31]) 20000000 0 = some 1) ∧
    monCause (tUp.dps[31]) 20000000 0 = none ∧
    (∀ b, ∃ s : State, isOff s (.dps 31) = true ∧ (s.dps[31]).mon.en = true ∧ (s.dps[31]).mon.offWatch = true ∧
      (s.dps[31]).blanked = false ∧ s.pwr.evt.extV = b) ∧
    (∀ mw ∈ [3200001, 3200000, 2880001, 2880000], ((mw :: tUp.pwr.samples).take 100).foldl (· + ·) 0 = mw) ∧
    100 * tUp.pwr.limitMw.toNat = 3200000 ∧ 90 * tUp.pwr.limitMw.toNat = 2880000 ∧ tUp.pwr.warnArmed = true := by
  let m : Mon := { en := true, vEn := true, vhi := 1000000, offWatch := true }
  refine ⟨by decide, by decide, by decide, by decide, by decide, by decide,
    ⟨{ tUp with pwr := { tUp.pwr with vin := 1750 } }, { vset := 15000000 }, by decide +kernel⟩, by decide, by decide,
    by decide, ?_, ⟨modDps (tEng (.dps 31) .fault) 31 fun D => { D with sink := true }, by decide⟩,
    ⟨modDps (tEng (.dps 31) .on) 31 fun D => { D with mon := m }, by decide +kernel⟩,
    ⟨modDps (tEng (.dps 31) .on) 31 fun D => { D with mon := m, blankCount := true }, by decide +kernel⟩, by decide,
    fun b => ⟨modDps { tUp with pwr := { tUp.pwr with evt := { tUp.pwr.evt with extV := b } } } 31 fun D =>
      { D with mon := m }, by cases b <;> decide, rfl, rfl, by cases b <;> decide, rfl⟩, by decide, by decide, by decide, rfl⟩
  exact fun x h => ⟨modDps (tEng (.dps 31) x.1) 31 fun D => { D with stage := x.2, ramping := true, live :=
    { D.live with sense := true } }, rfl, rfl, rfl, rfl, rfl⟩

/-- The first, the last and a busy consumer of the tasks; the boundary words of Table LAN-4. -/
theorem test_witness_LanesCarryEventsToTheirTasks :
    (∃ f, ({ tUp with fired := [(0x22, 7)] } : State).fired.find? (fun x => x.1 == 0x22) = some f) ∧
    (∀ p : Fin 16, (tTrig (BitVec.ofNat 8 (0x01 + p.val))).triggers ≠ []) ∧
    laneCfgOk tUp 63 0x800001FF = false ∧ laneCfgOk tUp 62 0x80000121 = true ∧ barsOn tUp = true ∧
    taskOfZero 0xE5 = true ∧ taskOfZero 0xF0 = true ∧ taskOfZero 0xE4 = false ∧ taskOfZero 0xF1 = false ∧
    syncWaits tUp 15 2 = false ∧ acqWaits tUp 15 = false ∧ tmuWaits tUp 15 63 = false ∧
    (∃ s : State, syncWaits s 15 2 = true) ∧ (∃ s : State, (s.plz[15]).run.on = true) ∧
    (∃ s : State, acqWaits s 15 = true) ∧ (∃ s : State, tmuWaits s 15 63 = true) ∧
    (∃ s : State, (s.awg[15]).run.phase = .armed ∧ (s.awg[15]).run.trig = 1) ∧
    (∀ halt : Bool, ∃ s : State, (s.awg[15]).run.phase = .playing ∧ (s.awg[15]).jHalt = halt ∧
      (s.awg[15]).seq.length ≤ (s.awg[15]).jTgt.toNat) ∧
    (∃ s : State, (s.awg[15]).run.phase = .playing ∧ (s.awg[15]).jTgt.toNat < (s.awg[15]).seq.length) ∧
    (∃ s : State, (s.re[3]).run.phase = .armed ∧ (s.re[3]).run.trig = 2) ∧
    inReset tUp = false ∧ inReset State.reset = true ∧
    (∃ s : State, s.cm.master = true) ∧ cmAsleep tUp = false ∧ tUp.cm.fireDriven = false ∧ tUp.cm.haltDriven = false ∧
    (∃ s : State, sendable s 7 = true ∧ onLine s 7 = false) ∧ (∃ s : State, sendable s 7 = true ∧ onLine s 7 = true) :=
  ⟨⟨_, rfl⟩, by decide, by decide, by decide, by decide, by decide, by decide, by decide, by decide, by decide,
   by decide, by decide,
   ⟨modRun tUp 15 fun r => { r with phase := .waiting, sync := some { id := 0, src := 2, line := 0, vaddr := 0 } },
    by decide⟩,
   ⟨modRun tUp 15 fun r => { r with phase := .running }, by decide⟩,
   ⟨{ tUp with dram := { tUp.dram with acqs := [{ tAcq none with trig := 1 }] } }, by decide⟩,
   ⟨modTmu (tAt 0x54 .running [63, 0x20000000]) 63 fun T => { T with meas := some { op := 0, arm := .waitArm, slot := 0 } },
    by decide⟩,
   ⟨modAwg tUp 15 fun A => { A with run := { A.run with phase := .armed, trig := 1 } }, by decide⟩,
   fun h => ⟨modAwg tUp 15 fun A => { A with jHalt := h, run := { A.run with phase := .playing } }, rfl, rfl, Nat.le_refl 0⟩,
   ⟨tPlay true none, by decide⟩,
   ⟨modRe tUp 3 fun R => { R with run := { R.run with phase := .armed, trig := 2 } }, by decide⟩,
   by decide, by decide, ⟨{ tUp with cm := { tUp.cm with master := true } }, rfl⟩, by decide, rfl, rfl,
   ⟨{ tUp with av := { tUp.av with st := .trained, ver := 2, own := 0x80 } }, by decide⟩,
   ⟨{ tUp with av := { tUp.av with st := .trained, ver := 2, own := 0x80, sending := [(7, none)] } }, by decide⟩⟩

theorem test_witness_CommonsArmFireAndHalt :
    (∀ m, ∃ s : State, s.cm.en = true ∧ s.cm.master = m ∧ cmAsleep s = false ∧ s.cm.armDriven = false) ∧
    (∃ s : State, s.cm.en = false ∧ s.cm.master = true) ∧ (tOp 0xA3 .dispatched [3]).ctx = 0 ∧
    (∀ a < 4, bits (wd (tOp 0xA3 .dispatched [BitVec.ofNat 32 a]).cur 2) 1 0 = a) ∧ barsOn tUp = true ∧
    tUp.cm.armDriven = false ∧ tUp.cm.en = false ∧ tUp.cm.master = false ∧
    (∃ s : State, s.cm.armDriven = true ∧ s.cm.en = true) ∧
    (∃ s : State, s.cm.autoDue = true ∧ s.cm.autodisarm = true) ∧ tUp.cm.autoDue = false :=
  ⟨fun m => ⟨{ tUp with cm := { tUp.cm with en := true, master := m } }, rfl, rfl, rfl, rfl⟩,
   ⟨{ tUp with cm := { tUp.cm with master := true } }, by decide⟩, rfl, by decide, by decide, by decide, by decide,
   by decide, ⟨{ tUp with cm := { tUp.cm with en := true, armDriven := true } }, by decide⟩,
   ⟨{ tUp with cm := { tUp.cm with autoDue := true } }, by decide⟩, by decide⟩

/-- An answer of unit 1 that owns some lines. -/
def tUnit (own : BitVec 8) (ver : Nat) : AvUnit := { chipid := 1, version := ver, own := own, sumT21 := 0, sumT43 := 0 }

theorem test_witness_AvenueTrainsSendsAndTakesEffect :
    (∀ st ∈ [AvState.off, .training], ∃ s : State, s.av.master = true ∧ s.av.en = true ∧ s.av.st = st) ∧
    (∃ s : State, s.av.master = false ∧ s.av.en = true) ∧
    (∀ op ∈ [none, some 0], ∃ s : State, s.av.st = .training ∧ s.av.trainOp = op ∧ s.av.master = false ∧
      ownClash s.av.own ([tUnit 1 2].filter fun u => u.chipid.val != s.glb.chipid.toNat) = false ∧
      [tUnit 1 2].foldl (fun v u => min v u.version) 2 ≠ 0) ∧
    ownClash 1 [tUnit 1 2] = true ∧ [tUnit 1 0].foldl (fun v u => min v u.version) 2 = 0 ∧ tUp.av.st ≠ .trained ∧
    (∀ v ∈ [1, 2], ∃ s : State, s.av.st = .trained ∧ s.av.ver = v ∧ s.av.master = false) ∧
    (∃ s : State, s.av.st = .trained ∧ sendable s 7 = false) ∧
    (∃ (s : State) (x : Op), s.av.waiting.find? (fun w => w.1 == 7) = some (7, 0) ∧ op? s 0 = some x ∧ x.live = true) ∧
    (∃ f : BitVec 40, bits f 3 0 = 5 ∧ frameCrc f ≠ BitVec.ofNat 8 (bits f 39 32)) ∧
    (∃ f : BitVec 40, bits f 3 0 = 5 ∧ frameCrc f = BitVec.ofNat 8 (bits f 39 32) ∧
      extendEffect (avTime tUp) (bits f 31 12) < avTime tUp + 64) ∧
    (∃ f : BitVec 40, bits f 3 0 = 5 ∧ frameCrc f = BitVec.ofNat 8 (bits f 39 32) ∧
      extendEffect (avTime tUp) (bits f 31 12) = avTime tUp + 64) ∧
    (∃ (s : State) (e : AvEv), s.av.events.find? (fun x => x.line == 7) = some e ∧ s.av.st = .trained) :=
  ⟨fun st _ => ⟨{ tUp with av := { tUp.av with master := true, en := true, st := st } }, rfl, rfl, rfl⟩,
   ⟨{ tUp with av := { tUp.av with en := true } }, by decide⟩,
   fun op _ => ⟨{ tUp with av := { tUp.av with st := .training, trainOp := op } }, rfl, rfl, rfl,
     by show ownClash 0 ([tUnit 1 2].filter fun u => u.chipid.val != 0) = false; decide, by decide⟩,
   by decide, by decide, by decide,
   fun v _ => ⟨{ tUp with av := { tUp.av with st := .trained, ver := v } }, rfl, rfl, rfl⟩,
   ⟨{ tUp with av := { tUp.av with st := .trained, ver := 2 } }, by decide⟩,
   ⟨{ tAt 0xA5 .running [7] with av := { tUp.av with waiting := [(7, 0)] } }, _, rfl, rfl, by decide⟩,
   ⟨0x0100000005, by decide +kernel⟩, ⟨0x0000000005, by decide +kernel⟩, ⟨avFrame 0xFF 64, by decide +kernel⟩,
   ⟨{ tUp with av := { tUp.av with st := .trained, events := [⟨7, 0, 0, none⟩] } }, _, rfl, rfl⟩⟩

/-- Readings of REF_GND and REF_IN that fit the declared 5 V exactly. -/
def tCal (refin : Int) : CalRes := { meas := [.reference 0 50000000], refin := refin, spreadBad := false }

/-- MON 7 may be calibrated; its procedure is accepted, rejected for REF_IN, or has not measured all; images that name
a set and that do not. -/
theorem test_witness_CalibrationIsTakenWhole :
    calNamed (tOp 0x80 .dispatched [0x00050007]).cur = some (.mon 7) ∧
    calNamed (tOp 0x80 .dispatched [0x00FF0000]).cur = none ∧
    calRunFields (.mon 7) (tOp 0x80 .dispatched [0x00050007, 4990000]).cur = true ∧
    calRunFields (.mon 7) (tOp 0x80 .dispatched [0x00050007, 4989999]).cur = false ∧
    calPrereq tUp (.mon 7) = true ∧ calRefOk tUp (.mon 7) = true ∧ calRefOk tUp (.dps 31) = false ∧
    calPrereq (tEng (.plaza 0) .on) (.chDc 0) = false ∧
    calEntries tUp (.mon 7) (tOp 0x80 .running [0x00050007]).cur { tCal 0 with meas := [] } = none ∧
    (∃ es, calEntries tUp (.mon 7) (tOp 0x80 .running [0x00050007]).cur (tCal 5000000) = some es ∧
      (entryChecks tUp (.mon 7) true es).filter (· != 0) = [] ∧
      procCheck { key := .mon 7, op := 0 } (tCal 5000000) = 0 ∧
      refBad tUp (.mon 7) (tOp 0x80 .running [0x00050007]).cur (tCal 5000000) = false ∧
      refBad tUp (.mon 7) (tOp 0x80 .running [0x00050007]).cur (tCal 4490000) = true) ∧
    imgKey [] 0 = none ∧ calClaim tUp 0 (.dps 31) = some eArg ∧
    calClaim (setHolder tUp (.dps 31) (some 0)) 0 (.dps 31) = none ∧
    imgKey ([1, 0, 5, 0, 7] ++ List.replicate 7 0 ++ [1] ++ List.replicate 59 0) 72 = some (.mon 7) ∧
    imgRsv (.mon 7) [(0, 0)] = true ∧ imgRsv (.chDc 0) (List.replicate 22 (0, 1)) = false ∧ absCheck (.mon 7) 0 (0, 0) = 0 ∧ absCheck (.mon 7) 0 (0x7FFFFFFF, 0) ≠ 0 :=
  ⟨by decide, by decide, by decide, by decide, by decide, by decide, by decide, by decide, by decide,
   ⟨_, rfl, by decide +kernel, by decide +kernel, by decide +kernel, by decide +kernel⟩, by decide, by decide, by decide,
   by decide +kernel, by decide, by decide, by decide +kernel, by decide +kernel⟩

theorem test_witness_TemperatureSamplesAct :
    inReset tUp = false ∧ inReset State.reset = true ∧ sampled tUp 7 = true ∧
    (∃ s : State, sampled s 7 = false ∧ sampled s 8 = true) ∧ (tUp.thm.dies[9]).trip = false ∧
    (∃ s : State, (s.thm.dies[9]).trip = true ∧
      throttleClears (s.thm.lims[dieClass 9]) (fewGood s 9) (s.thm.dies[9]).hist = true) :=
  ⟨rfl, rfl, by decide, ⟨{ tUp with glb := { tUp.glb with pwr := .standby } }, by decide⟩, by decide,
   ⟨{ tUp with thm := { tUp.thm with dies := Vector.replicate 10 { trip := true, hist := [12000] } } }, by decide⟩⟩

/-- The limits at their ceiling, and one above it. -/
theorem test_witness_ThermalLimitsAreOrderedOrIgnored :
    barsOn tUp = true ∧
    (∃ l : ThmLim, l = { warn := 100, throttle := 110, trip := 130 } ∧ l.warn < l.throttle ∧ l.throttle < l.trip ∧
      l.trip.toNat ≤ 130) ∧
    dieClass 9 = 2 ∧ tempReaches (600 * 130) 130 = true ∧
    ∃ l : ThmLim, l = { warn := 100, throttle := 110, trip := 131 } ∧ ¬l.trip.toNat ≤ 130 :=
  ⟨by decide, ⟨_, rfl, by decide, by decide, by decide⟩, by decide, by decide, _, rfl, by decide⟩

/-- One unit that sends a byte, and one that waits for its ready line. -/
def tSend (wait : Bool) : PmUnit := { wait := wait, kind := 0, width := 0, len := 8, count := 1, mask := 0, match_ := 0 }

theorem test_witness_PortMTransfersAndServesTheView :
    isOn (tEng .portM .on) .portM = true ∧ isOn tUp .portM = false ∧ barsOn tUp = true ∧
    barsOn State.reset = false ∧
    (∃ s : State, Running s 0 0x91 (tOp 0x91 .running []) ∧ s.pm.xfer = some 0 ∧ s.pm.doom = none ∧
      s.pm.met = { units := 0 } ∧ (pmRun s.pm.prog 0 (some 0) []).left = true ∧ (pmRun s.pm.prog 0 (some 0) []).miss = false ∧
      (s.pm.prog[(pmRun s.pm.prog 0 (some 0) []).next]?).map (·.wait) = some true) ∧
    (pmRun [tSend false] 0 (some 1) []).left = false ∧
    (∃ s : State, barsOn s = true ∧ isOn s .portM = true ∧ s.pm.xblock = false ∧ 64 < pmBytes s ∧
      pmBytes s ≤ 2 ^ 28 - 4 ∧ s.pm.lines.contains (64 / 64) = true ∧ s.pm.lines.contains (128 / 64) = false) ∧
    (∃ s : State, s.pm.eng.st ≠ .off ∧ isOn s .portM = false) ∧ tUp.pm.eng.st = .off ∧
    (∃ off : BitVec 26, 2 ^ 25 ≤ off.toNat / 4 * 4) ∧
    (∃ off : BitVec 26, off.toNat / 4 * 4 < 2 ^ 25 ∧ fillWord tUp (off.toNat / 4 * 4) = none) ∧
    (∃ s : State, (fillWord s 0x4FFFFC).isSome = true) ∧
    (∃ s : State, s.pm.fill = some (1, 1)) ∧
    (∃ (s : State) (r : ViewRead), s.pm.fill = none ∧ s.pm.reads.find? (fun r => !r.core) = some r) :=
  ⟨by decide, by decide, by decide, by decide,
   ⟨{ tAt 0x91 .running [] with pm := { tUp.pm with xfer := some 0, prog := [tSend true] } }, ⟨rfl, rfl, by decide⟩, rfl,
    rfl, rfl, by decide, by decide, by decide⟩, by decide,
   ⟨{ tEng .portM .on with pm := { (tEng .portM .on).pm with densKib := 8, lines := [1] } }, by decide⟩,
   ⟨tEng .portM .starting, by decide⟩, by decide, ⟨0x3FFFFFF, by decide⟩, ⟨0x1FFFFFF, by decide⟩,
   ⟨modSeq { tUp with glb := { tUp.glb with diagView := 2 } } 0 fun q =>
     { q with slots := Vector.replicate 64 { filling := some (0, 0) } }, by decide +kernel⟩,
   ⟨{ tUp with pm := { tUp.pm with fill := some (1, 1) } }, rfl⟩,
   ⟨{ tUp with pm := { tUp.pm with reads := [{ addr := 0, core := false }] } }, _, rfl, rfl⟩⟩

theorem test_witness_PortSFramesActAtTheirEnd :
    railGood tUp .vlich = true ∧ tUp.ps.inFrame = false ∧ tUp.glb.psChain = false ∧ psReady tUp = true ∧
    tUp.ps.toHostFull = false ∧ railGood State.reset .vlich = false ∧ barsOn tUp = true ∧
    (∃ s : State, railGood s .vlich = true ∧ s.ps.inFrame = false ∧ s.glb.psChain = true) ∧
    (∀ a c, ∃ s : State, railGood s .vlich = true ∧ s.ps.inFrame = true ∧ s.ps.abandoned = a ∧ s.glb.psChain = c ∧
      s.ps.taken = none) ∧
    (∃ s : State, psReady s = true ∧ s.ps.toHostFull = true) :=
  ⟨by decide, by decide, by decide, by decide, by decide, by decide, by decide,
   ⟨{ tUp with glb := { tUp.glb with psChain := true } }, by decide⟩,
   fun a c => ⟨{ tUp with ps := { tUp.ps with inFrame := true, abandoned := a }, glb := { tUp.glb with psChain := c } },
     (by decide : railGood tUp .vlich = true), rfl, rfl, rfl, rfl⟩,
   ⟨{ tUp with ps := { tUp.ps with toHostFull := true } }, by decide⟩⟩

theorem test_witness_FloorsRiseAndKeysAreRevoked :
    (∃ s : State, s.patch.st ≠ 1) ∧ tUp.patch.st = 1 ∧
    (∃ s : State, numAt s.boot.runMan 0x18 1 = 5 ∧ 5 ≤ bits s.glb.fwVer 31 24 ∧
      numAt s.boot.runMan 0x19 1 ≤ bits s.patch.ver 31 24) ∧
    (∃ s : State, numAt s.boot.runMan 0x18 1 = 5 ∧ bits s.glb.fwVer 31 24 < 5) ∧
    (3 ≠ tUp.boot.keyslot.toNat ∧ lastSlot tUp 3 = false) ∧ tUp.boot.keyslot.toNat = 0 ∧
    (∃ s : State, lastSlot s 3 = true) :=
  ⟨⟨{ tUp with patch := { tUp.patch with st := 2 } }, by decide⟩, by decide,
   ⟨{ tUp with glb := { tUp.glb with fwVer := 0x05000000 },
               boot := { tUp.boot with runMan := List.replicate 24 0 ++ [5, 0] } }, by decide⟩,
   ⟨{ tUp with boot := { tUp.boot with runMan := List.replicate 24 0 ++ [5, 0] } }, by decide⟩, by decide, by decide,
   ⟨{ tUp with boot := { tUp.boot with revoked := #v[true, true, true, false] } }, by decide⟩⟩

/-- A report of source n at tick 5. -/
def tReport (n : BitVec 8) : Report := { src := n, code := 1, stamp := 5 }

theorem test_witness_FaultsAreCollectedAndReported :
    tUp.boot.stage = .running ∧ restartRecent tUp = false ∧
    restartRecent { tUp with boot := { tUp.boot with restartAt := some 0 } } = true ∧ barsOn tUp = true ∧
    awake tUp = true ∧ awake State.reset = false ∧
    (∃ s : State, s.boot.stage = .restarting) ∧ (∃ s : State, s.boot.stage = .running ∧ s.boot.restartDue = some true) ∧
    (∃ (s : State) (r : Report), s.fag.inFlight.find? (fun r => r.src == 3) = some r ∧ s.fag.window = none) ∧
    ranks (tReport 3) (tReport 3) = false ∧ ranks (tReport 3) (tReport 4) = true ∧
    (∃ (s : State) (w : Window), s.fag.window = some w ∧ eqRoom (eqPendOf s (eqTarget s none)) true = true) ∧
    (∃ (s : State) (w : Window), s.fag.window = some w ∧ eqRoom (eqPendOf s (eqTarget s none)) true = false) ∧
    (∀ x : EqRec, ∃ (s : State) (r : Ring), eqOf s 0 = some r ∧ (eqPendOf s 0).recs = [x] ∧ r.full = false) ∧
    (∃ (s : State) (r : Ring), eqOf s 0 = some r ∧ (eqPendOf s 0).recs = [] ∧ (eqPendOf s 0).lost ≠ 0 ∧ r.full = false) ∧
    (∃ (s : State) (r : Ring), eqOf s 0 = some r ∧ r.full = true) ∧ eqOf tUp 4095 = none := by
  let w : State := { tUp with fag := { tUp.fag with window := some { first := tReport 3, opened := 0 } } }
  let x : EqRec := { code := 1, index := 0, time := 0 }
  exact ⟨rfl, by decide, by decide, by decide, by decide, by decide,
    ⟨{ tUp with boot := { tUp.boot with stage := .restarting } }, rfl⟩,
    ⟨{ tUp with boot := { tUp.boot with restartDue := some true } }, rfl, rfl⟩,
    ⟨{ tUp with fag := { tUp.fag with inFlight := [tReport 3] } }, _, rfl, rfl⟩, by decide, by decide,
    ⟨w, _, rfl, by decide⟩, ⟨{ w with eqPend := [{ ctx := 0, recs := List.replicate 64 x }] }, _, rfl, by decide⟩,
    fun x => ⟨{ tRings (tRing 7 .eq 14) with eqPend := [{ ctx := 0, recs := [x] }] }, _, rfl, rfl, by decide⟩,
    ⟨{ tRings (tRing 7 .eq 14) with eqPend := [{ ctx := 0, lost := 1 }] }, _, rfl, rfl, by decide, by decide⟩,
    ⟨tRings (tRing 7 .eq 15), _, rfl, by decide⟩, by decide⟩

theorem test_witness_RegistersAreReadAndWritten :
    (∀ r, served tUp r = true) ∧ (∀ r, served State.reset r = false) ∧ railGood State.reset .vlich = false ∧
    served { tUp with glb := { tUp.glb with pwr := .deepSleep } } .portS = false ∧ railGood tUp .vlich = true ∧ snapOf tUp .host .time = none ∧
    barsOn tUp = true ∧ barsOn State.reset = false ∧
    (readReg tUp 0).isSome = true ∧ (0 : BitVec 18).toNat = 4 * 0 ∧
    readReg tUp 0x3FFFC = none ∧ (0x3FFFC : BitVec 18).toNat = 4 * 0xFFFF ∧
    (tOp 0xF0 .dispatched [0x50000000]).ctx = 0 ∧ bits (wd (tOp 0xF0 .dispatched [0x50000000]).cur 2) 31 28 = 5 ∧
    bits (wd (tOp 0xF0 .dispatched [0x60000000]).cur 2) 31 28 = 6 ∧
    bits (wd (tOp 0xF1 .dispatched [0, 49152]).cur 3) 16 0 = 49152 ∧
    bits (wd (tOp 0xF1 .dispatched [1, 49152]).cur 2) 15 0 + 49152 = 49153 :=
  ⟨by intro r; cases r <;> decide, by intro r; cases r <;> decide, by decide⟩

/-- The memories of the state after reset are in their canonical form. -/
theorem test_witness_MemoriesStayCanonical : memoriesWf State.reset = true := by decide

/-- A command leaves the queue behind it as it is. -/
theorem test_witness_everyCommand : ∃ t, exec (.nop 0) { tUp with pending := [.nop 0] } = .next t ∧ t.pending = [.nop 0] :=
  ⟨_, rfl, rfl⟩

theorem test_witness_everyStep : step tUp = .next { tUp with now := 1 } := rfl

/-! ### Single steps, with results worked out from the spec's tables -/

/-- R41: an enable of port M in OFF enters STARTING; Table ARC-7. -/
theorem test_enable_starts :
    (match exec (.ctlEnable .portM .alone) tUp with | .next t => (getEng t .portM).st | _ => .off) = .starting := by
  decide

/-- R41: a disable in FAULT enters OFF. -/
theorem test_disable_fault :
    (match exec (.ctlDisable (.dg 0) .alone) (tEng (.dg 0) .fault) with | .next t => (getEng t (.dg 0)).st | _ => .on) =
      .off := by decide

/-- R384: the limits of the head above the ceiling of 130 degrees are ignored. -/
theorem test_limits_above_ceiling :
    (match exec (.thmLimWrite 2 0x00836E64) tUp with
      | .next t => (t.thm.limBad, t.thm.lims[(2 : Fin 3)].trip)
      | _ => (false, 0)) = (true, 125) := by decide

/-- R62: ADMIN_EN without an agreed format. -/
theorem test_admin_en_without_format :
    (match exec (.adminEnSet false) tUp with | .next t => (t.hif.adminEn, t.hif.fmtNone) | _ => (true, false)) =
      (false, true) := by decide

/-- R248: half of full scale in range 0 is 250 mV, and an end code is over range. -/
theorem test_acq_sample :
    ((tAcq none).take (0, 0) [1024]).got = [⟨250000, false⟩] ∧
    ((tAcq none).take (0, 0) [2047]).got.map (·.ovr) = [true] := by decide

/-- R93, R94: a write of a wrong form only sets DB_FORMAT. -/
theorem test_doorbell_form :
    (match exec (.doorbell 0 4 8 0) (tRings (tRing 3 .sq 0)) with
      | .next t => (t.hif.dbFormat, t.hif.dbForeign, t.rings == [tRing 3 .sq 0])
      | _ => (false, false, false)) = (true, false, true) := by decide

/-- R202: IMM writes its value; the carry of ADD is lost. -/
theorem test_alu_add_wraps :
    (aluOf (modUc tUp 0 fun u => { u with k := u.k.set 0 0xFFFFFFFF }) 0 0xFFFFFFFF 1).1 = 0 := by decide

end Sys2Proof.Machine
end

section
/-! SUPPORT. The proofs of the host interface's statements: the admin context's enable, and how resources are
claimed (02_host_rings). -/

namespace Sys2Proof.Machine

/-! ### ADMIN_EN without an agreement -/

/-- With no format agreed ADMIN_EN = 1 opens nothing, whatever the ring table says (R62). -/
theorem adminOpen_noFormat {s : State} (readError : Bool) (hEn : s.hif.adminEn = false)
    (h1 : s.hif.agreedF1 = false) (h2 : s.hif.agreedF2 = false) :
    adminOpen s readError = { s with hif := { s.hif with fmtNone := true } } := by
  simp [adminOpen, hEn, h1, h2]

/-- The write does what `adminOpen` says wherever the BARs are served. -/
theorem exec_adminEnSet_barsOn {s : State} (readError : Bool) (h : barsOn s = true) :
    exec (.adminEnSet readError) s = .next (adminOpen s readError) :=
  congrArg Host.Outcome.next (if_pos h)

/-- Settles O21, by the branch of `adminOpen` that no agreement takes. -/
theorem adminEnNeedsAnAgreedFormat : Obligations.AdminEnNeedsAnAgreedFormat := by
  intro s readError hBars hEn h1 h2
  rw [exec_adminEnSet_barsOn readError hBars, adminOpen_noFormat readError hEn h1 h2]

/-! ### Who holds a resource -/

@[simp] theorem holder_modOp (s : State) (id : OpId) (f : Op → Op) (r : Res) :
    holder (modOp s id f) r = holder s r := by
  cases r <;> rfl

@[simp] theorem holder_begun (s : State) (id : OpId) (r : Res) : holder (begun s id) r = holder s r :=
  holder_modOp s id _ r

@[simp] theorem holder_setHolder_same (s : State) (r : Res) (c : Option CtxId) :
    holder (setHolder s r c) r = c := by
  cases r <;> simp [holder, setHolder]

/-- Two kinds of resource lie in two fields of the owners, two resources of one kind at two indices. -/
theorem holder_setHolder_ne (s : State) {q r : Res} (c : Option CtxId) (h : q ≠ r) :
    holder (setHolder s r c) q = holder s q := by
  cases r <;> cases q <;> simp_all [holder, setHolder, Fin.ext_iff, eq_comm]

/-! ### A claim of several resources -/

/-- Context c takes each of some resources in turn: what a RES_CLAIM that succeeds does. -/
def claimAll (s : State) (c : CtxId) (rs : List Res) : State :=
  rs.foldl (fun s r => setHolder s r (some c)) s

@[simp] theorem claimAll_nil (s : State) (c : CtxId) : claimAll s c [] = s := rfl

@[simp] theorem claimAll_cons (s : State) (c : CtxId) (r : Res) (rs : List Res) :
    claimAll s c (r :: rs) = claimAll (setHolder s r (some c)) c rs := rfl

/-- A claim touches the owners alone. -/
theorem claimAll_own_only (s : State) (c : CtxId) (rs : List Res) :
    claimAll s c rs = { s with own := (claimAll s c rs).own } := by
  induction rs generalizing s with
  | nil => rfl
  | cons r rs ih =>
    rw [claimAll_cons, ih]
    rfl

theorem holder_claimAll (s : State) (c : CtxId) (rs : List Res) (q : Res) :
    holder (claimAll s c rs) q = if q ∈ rs then some c else holder s q := by
  induction rs generalizing s with
  | nil => simp
  | cons r rs ih =>
    rw [claimAll_cons, ih]
    by_cases hq : q = r
    · simp [hq]
    · simp [hq, holder_setHolder_ne s _ hq]

theorem heldElsewhere_iff (s : State) (c : CtxId) (rs : List Res) :
    heldElsewhere s c rs = true ↔ ∃ r ∈ rs, ∃ x, holder s r = some x ∧ x ≠ c := by
  rw [heldElsewhere, List.any_eq_true]
  refine exists_congr fun r => and_congr_right fun _ => ?_
  cases holder s r <;> simp

theorem heldElsewhere_eq_false_iff (s : State) (c : CtxId) (rs : List Res) :
    heldElsewhere s c rs = false ↔ ∀ r ∈ rs, holder s r = none ∨ holder s r = some c := by
  rw [heldElsewhere, List.any_eq_false]
  refine forall₂_congr fun r _ => ?_
  cases holder s r <;> simp

/-- The row of RES_CLAIM for a target that is open: the one check, then the claim (R81). -/
theorem exec_resClaim_targetOpen {s : State} {id : OpId} {o : Op} (h : Given s id 0x04 o)
    (hOpen : targetOpen (begun s id) (targetOf o.cur) = true) :
    exec (.resClaim id) s = .next
      (if heldElsewhere (begun s id) (targetOf o.cur) (claimedBy o.cur) then finishOp (begun s id) id eOwned []
       else finishOp (claimAll (begun s id) (targetOf o.cur) (claimedBy o.cur)) id stOk []) := by
  change execResClaim id s = _
  simp [execResClaim, runDesc_given h, hOpen, claimAll]

/-- Settles O31: the check comes before the first change of an owner, and the claim is a fold whose holders
`holder_claimAll` gives. -/
theorem resourceClaimIsAllOrNothing : Obligations.ResourceClaimIsAllOrNothing := by
  intro s id o hGiven hOpen
  have hRow := exec_resClaim_targetOpen hGiven hOpen
  refine ⟨fun hTaken => ?_, fun hFree => ?_, fun p => ⟨rfl, rfl⟩⟩
  · have hElse : heldElsewhere (begun s id) (targetOf o.cur) (claimedBy o.cur) = true := by
      simpa [heldElsewhere_iff, targetOf] using hTaken
    rw [hRow, if_pos hElse]
  · have hElse : heldElsewhere (begun s id) (targetOf o.cur) (claimedBy o.cur) = false := by
      simpa [heldElsewhere_eq_false_iff, targetOf] using hFree
    refine ⟨claimAll (begun s id) (targetOf o.cur) (claimedBy o.cur), ?_, claimAll_own_only _ _ _, ?_, ?_⟩
    · simp [hRow, hElse]
    · intro r hr
      simp [holder_claimAll, hr, targetOf]
    · intro r hr
      simp [holder_claimAll, hr]

end Sys2Proof.Machine
end

section
/-! SUPPORT. The proofs of the thermal statements: the limits of a die class (13_calibration_thermal). -/

namespace Sys2Proof.Machine

/-! ### A write of THM_LIM -/

/-- The three limits that a word of THM_LIM spells (Table CAL-19). -/
def thmLimOf (w : Word) : ThmLim :=
  { warn := BitVec.ofNat 8 (bits w 7 0), throttle := BitVec.ofNat 8 (bits w 15 8),
    trip := BitVec.ofNat 8 (bits w 23 16) }

/-- The order that R384 asks of the limits of class c. -/
def LimitsOrdered (c : Fin 3) (l : ThmLim) : Prop :=
  l.warn < l.throttle ∧ l.throttle < l.trip ∧ l.trip.toNat ≤ thmCeil c

/-- Limits in order are stored. -/
theorem writeThmLim_ordered (s : State) {c : Fin 3} {w : Word} (h : LimitsOrdered c (thmLimOf w)) :
    writeThmLim s c w = { s with thm := { s.thm with lims := s.thm.lims.set c (thmLimOf w) } } := by
  obtain ⟨hWarn, hThrottle, hTrip⟩ := h
  exact if_pos (by simpa [and_assoc] using ⟨hWarn, hThrottle, hTrip⟩)

/-- Limits out of order leave LIM_BAD as their one trace. -/
theorem writeThmLim_unordered (s : State) {c : Fin 3} {w : Word} (h : ¬LimitsOrdered c (thmLimOf w)) :
    writeThmLim s c w = { s with thm := { s.thm with limBad := true } } :=
  if_neg fun hGuard => h (by simpa [LimitsOrdered, thmLimOf, and_assoc] using hGuard)

/-- The write does what `writeThmLim` says wherever the BARs are served. -/
theorem exec_thmLimWrite_barsOn {s : State} (c : Fin 3) (w : Word) (h : barsOn s = true) :
    exec (.thmLimWrite c w) s = .next (writeThmLim s c w) :=
  congrArg Host.Outcome.next (if_pos h)

/-- A die at its trip limit reaches trip, whatever its sensors and its rate (R382). -/
theorem levels3_trip_of_tempReaches {lim : ThmLim} (few : Bool) {h : List Int}
    (hReach : tempReaches (h.headD 0) lim.trip.toNat = true) : (levels3 lim few h).2.2 = true := by
  simp only [levels3, hReach, Bool.or_true, Bool.true_or]

/-- Settles O52, by the two branches of `writeThmLim`: the stored limits are those that `levels3` reads. -/
theorem thermalLimitsAreOrderedOrIgnored : Obligations.ThermalLimitsAreOrderedOrIgnored := by
  rintro s c w l hBars rfl
  rw [exec_thmLimWrite_barsOn c w hBars]
  refine ⟨fun hOrdered => ?_, fun hUnordered => ?_⟩
  · rw [writeThmLim_ordered s hOrdered]
    have hStored : (s.thm.lims.set c (thmLimOf w))[c] = thmLimOf w := Vector.getElem_set_self c.isLt
    refine ⟨_, rfl, rfl, hStored, fun e hne => ?_, ?_⟩
    · exact Vector.getElem_set_ne c.isLt e.isLt (Fin.val_ne_of_ne hne.symm)
    · rintro d few h rfl hReach
      have hLevels := levels3_trip_of_tempReaches few hReach
      exact (congrArg (fun lim => (levels3 lim few h).2.2) hStored).trans hLevels
  · rw [writeThmLim_unordered s hUnordered]

end Sys2Proof.Machine
end

section
/-! SUPPORT. The proofs of the statements about every command and every step: which commands complete, and what a step
keeps of the queue, the eFuses and the memories. Each row's own lemma stands in Laws/KeptExec. -/

namespace Sys2Proof.Machine

/-- From s to t the queue stays, the eFuses only rise, and memories in canonical form stay so. -/
structure Keeps (s t : State) : Prop where
  rise : (kept s).1.rise (kept t).1
  mems : (kept s).2.wf = true → (kept t).2.wf = true

theorem Keeps.of_kept {s t : State} (h : kept t = kept s) : Keeps s t :=
  ⟨by rw [h]; exact Roots.rise_refl _, mems_of_kept h⟩

theorem Keeps.of_roots {s t : State} (hRoots : (kept t).1 = (kept s).1)
    (hMems : (kept s).2.wf = true → (kept t).2.wf = true) : Keeps s t :=
  ⟨by rw [hRoots]; exact Roots.rise_refl _, hMems⟩

/-- Every command keeps the queue, the blown fuses and the canonical form, by the lemma of its row. -/
theorem exec_keeps {c : Instr} {s t : State} (h : exec c s = .next t) : Keeps s t := by
  cases c with
  | coldStart => exact .of_kept (execColdStart_kept _ _ _ h)
  | pllLock => exact .of_roots (execPllLock_roots _ _ _ _ h) (execPllLock_mems _ _ _ _ h)
  | railGood => exact .of_roots (execRailGood_roots _ _ _ h) (execRailGood_mems _ _ _ h)
  | railStartTimeout => exact .of_kept (execRailStartTimeout_kept _ _ _ h)
  | railOutOfTolerance => exact .of_roots (execRailOutOfTolerance_roots _ _ _ h) (execRailOutOfTolerance_mems _ _ _ h)
  | firmwareRunning => exact .of_kept (execFirmwareRunning_kept _ _ h)
  | bootManifestTimeout => exact .of_kept (execBootManifestTimeout_kept _ _ h)
  | patchLoadTimeout => exact .of_kept (execPatchLoadTimeout_kept _ _ h)
  | perstNAssert => exact .of_roots (execPerstNAssert_roots _ _ h) (execPerstNAssert_mems _ _ h)
  | perstNDeassert => exact .of_roots (execPerstNDeassert_roots _ _ _ _ h) (execPerstNDeassert_mems _ _ _ _ h)
  | vinUndervoltage => exact .of_roots (execVinUndervoltage_roots _ _ h) (execVinUndervoltage_mems _ _ h)
  | vinOvervoltage => exact .of_roots (execVinOvervoltage_roots _ _ h) (execVinOvervoltage_mems _ _ h)
  | vinRestored => exact .of_kept (execVinRestored_kept _ _ _ h)
  | lichenPowerLoss => exact .of_roots (execLichenPowerLoss_roots _ _ h) (execLichenPowerLoss_mems _ _ h)
  | vinSample => exact .of_kept (execVinSample_kept _ _ _ _ h)
  | pllLockLoss => exact .of_kept (execPllLockLoss_kept _ _ h)
  | dieLinkCrcFail => exact .of_kept (execDieLinkCrcFail_kept _ _ _ h)
  | pwrReqActive => exact .of_roots (execPwrReqActive_roots _ _ h) (execPwrReqActive_mems _ _ h)
  | pwrReqStandby => exact .of_roots (execPwrReqStandby_roots _ _ h) (execPwrReqStandby_mems _ _ h)
  | pwrReqDeepSleep => exact .of_roots (execPwrReqDeepSleep_roots _ _ h) (execPwrReqDeepSleep_mems _ _ h)
  | powerStateChangeDone => exact .of_roots (execPowerStateChangeDone_roots _ _ h) (execPowerStateChangeDone_mems _ _ h)
  | linkL2L3Entry => exact .of_roots (execLinkL2L3Entry_roots _ _ h) (execLinkL2L3Entry_mems _ _ h)
  | deepSleepRequestTimeout => exact .of_kept (execDeepSleepRequestTimeout_kept _ _ h)
  | wakeNLow => exact .of_roots (execWakeNLow_roots _ _ h) (execWakeNLow_mems _ _ h)
  | ctlEnable => exact .of_kept (execCtlEnable_kept _ _ _ _ h)
  | ctlDisable => exact .of_kept (execCtlDisable_kept _ _ _ _ h)
  | engineStartDone => exact .of_kept (execEngineStartDone_kept _ _ _ h)
  | engineStopDone => exact .of_kept (execEngineStopDone_kept _ _ _ h)
  | heldEnableTakesEffect => exact .of_kept (execHeldEnableTakesEffect_kept _ _ _ h)
  | startTimeout => exact .of_kept (execStartTimeout_kept _ _ _ h)
  | stopTimeout => exact .of_kept (execStopTimeout_kept _ _ _ h)
  | flr => exact .of_roots (execFlr_roots _ _ h) (execFlr_mems _ _ h)
  | dlDown => exact .of_roots (execDlDown_roots _ _ h) (execDlDown_mems _ _ h)
  | hifVerOfferWrite => exact .of_kept (execHifVerOfferWrite_kept _ _ _ h)
  | adminEnSet => exact .of_kept (execAdminEnSet_kept _ _ _ h)
  | adminEnClear => exact .of_roots (execAdminEnClear_roots _ _ h) (execAdminEnClear_mems _ _ h)
  | doorbell => exact .of_kept (execDoorbell_kept _ _ _ _ _ _ h)
  | sqFetchComplete => exact .of_kept (execSqFetchComplete_kept _ _ _ _ _ h)
  | sqFetchTimeout => exact .of_kept (execSqFetchTimeout_kept _ _ _ h)
  | descriptorDispatch => exact .of_kept (execDescriptorDispatch_kept _ _ _ h)
  | executionTimeout => exact .of_roots (execExecutionTimeout_roots _ _ _ h) (execExecutionTimeout_mems _ _ _ h)
  | queueWaitTimeout => exact .of_kept (execQueueWaitTimeout_kept _ _ _ h)
  | hostReadError => exact .of_roots (execHostReadError_roots _ _ _ h) (execHostReadError_mems _ _ _ h)
  | completionWrite => exact .of_roots (execCompletionWrite_roots _ _ _ h) (execCompletionWrite_mems _ _ _ h)
  | interruptDelayExpiry => exact .of_kept (execInterruptDelayExpiry_kept _ _ _ h)
  | nop => exact .of_kept (execNop_kept _ _ _ h)
  | ctxOpen op => exact .of_kept (execCtxOpen_kept op s t h)
  | ctxClose => exact .of_roots (execCtxClose_roots _ _ _ h) (execCtxClose_mems _ _ _ h)
  | ctxAbort => exact .of_roots (execCtxAbort_roots _ _ _ h) (execCtxAbort_mems _ _ _ h)
  | ctxOpsDrained => exact .of_kept (execCtxOpsDrained_kept _ _ _ h)
  | resClaim => exact .of_kept (execResClaim_kept _ _ _ h)
  | resRelease => exact .of_kept (execResRelease_kept _ _ _ h)
  | ringAttach => exact .of_kept (execRingAttach_kept _ _ _ h)
  | ringDetach => exact .of_kept (execRingDetach_kept _ _ _ h)
  | ctxQuery => exact .of_kept (execCtxQuery_kept _ _ _ h)
  | lvlLoad => exact .of_kept (execLvlLoad_kept _ _ _ h)
  | chCfg => exact .of_kept (execChCfg_kept _ _ _ h)
  | parkRead => exact .of_roots (execParkRead_roots _ _ _ h) (execParkRead_mems _ _ _ h)
  | cmpSelftest => exact .of_kept (execCmpSelftest_kept _ _ _ h)
  | cmpSelftestDone => exact .of_roots (execCmpSelftestDone_roots _ _ _ _ h) (execCmpSelftestDone_mems _ _ _ _ h)
  | settleEnd => exact .of_kept (execSettleEnd_kept _ _ _ h)
  | driverOvercurrent => exact .of_kept (execDriverOvercurrent_kept _ _ _ h)
  | tsLoad => exact .of_kept (execTsLoad_kept _ _ _ h)
  | dskLoad => exact .of_kept (execDskLoad_kept _ _ _ h)
  | dskRead => exact .of_roots (execDskRead_roots _ _ _ h) (execDskRead_mems _ _ _ h)
  | quietPoint => exact .of_kept (execQuietPoint_kept _ _ _ h)
  | bandHoldExpiry => exact .of_kept (execBandHoldExpiry_kept _ _ _ h)
  | plzEnable => exact .of_kept (execPlzEnable_kept _ _ _ _ h)
  | plzDisable => exact .of_kept (execPlzDisable_kept _ _ _ _ h)
  | seqLoad => exact .of_kept (execSeqLoad_kept _ _ _ h)
  | segWrite => exact .of_roots (execSegWrite_roots _ _ _ h) (execSegWrite_mems _ _ _ h)
  | segFill => exact .of_kept (execSegFill_kept _ _ _ h)
  | segFillDone => exact .of_kept (execSegFillDone_kept _ _ _ _ h)
  | seqRun => exact .of_kept (execSeqRun_kept _ _ _ h)
  | runTimingZero => exact .of_kept (execRunTimingZero_kept _ _ _ h)
  | seqJump => exact .of_kept (execSeqJump_kept _ _ _ h)
  | jumpTakesEffect => exact .of_kept (execJumpTakesEffect_kept _ _ _ h)
  | sitedataLoad => exact .of_kept (execSitedataLoad_kept _ _ _ h)
  | maskLoad => exact .of_kept (execMaskLoad_kept _ _ _ h)
  | holdLoad => exact .of_kept (execHoldLoad_kept _ _ _ h)
  | slotQuery => exact .of_roots (execSlotQuery_roots _ _ _ h) (execSlotQuery_mems _ _ _ h)
  | vec => exact .of_kept (execVec_kept _ _ _ h)
  | rpt => exact .of_kept (execRpt_kept _ _ _ h)
  | loop => exact .of_kept (execLoop_kept _ _ _ h)
  | endl => exact .of_kept (execEndl_kept _ _ _ h)
  | call => exact .of_kept (execCall_kept _ _ _ h)
  | ret => exact .of_kept (execRet_kept _ _ _ h)
  | jmp => exact .of_kept (execJmp_kept _ _ _ h)
  | jmpm => exact .of_kept (execJmpm_kept _ _ _ h)
  | waitm => exact .of_kept (execWaitm_kept _ _ _ h)
  | sync => exact .of_kept (execSync_kept _ _ _ h)
  | evt => exact .of_kept (execEvt_kept _ _ _ h)
  | stepSd => exact .of_kept (execStepSd_kept _ _ _ h)
  | mark => exact .of_kept (execMark_kept _ _ _ h)
  | clrf => exact .of_kept (execClrf_kept _ _ _ h)
  | halt => exact .of_kept (execHalt_kept _ _ _ h)
  | vectorPlay => exact .of_kept (execVectorPlay_kept _ _ _ _ _ h)
  | matchDecision => exact .of_kept (execMatchDecision_kept _ _ _ h)
  | underrun => exact .of_kept (execUnderrun_kept _ _ _ h)
  | holdExit => exact .of_kept (execHoldExit_kept _ _ _ h)
  | holdTimeout => exact .of_kept (execHoldTimeout_kept _ _ _ h)
  | syncEvent => exact .of_kept (execSyncEvent_kept _ _ _ h)
  | syncTimeout => exact .of_kept (execSyncTimeout_kept _ _ _ h)
  | microNop => exact .of_kept (execMicroNop_kept _ _ _ _ h)
  | fld => exact .of_kept (execFld_kept _ _ _ _ _ _ _ h)
  | imm => exact .of_kept (execImm_kept _ _ _ _ _ _ h)
  | alu => exact .of_kept (execAlu_kept _ _ _ _ _ _ _ _ h)
  | iss => exact .of_kept (execIss_kept _ _ _ _ _ _ _ h)
  | act => exact .of_kept (execAct_kept _ _ _ _ _ _ h)
  | stk => exact .of_kept (execStk_kept _ _ _ _ _ _ _ _ h)
  | lchk => exact .of_kept (execLchk_kept _ _ _ _ _ _ h)
  | br => exact .of_kept (execBr_kept _ _ _ _ _ _ h)
  | pcUpd => exact .of_kept (execPcUpd_kept _ _ _ _ _ _ h)
  | mtch => exact .of_kept (execMtch_kept _ _ _ _ _ _ _ _ h)
  | syn => exact .of_kept (execSyn_kept _ _ _ _ _ _ _ h)
  | trap => exact .of_kept (execTrap_kept _ _ _ _ _ h)
  | endRun => exact .of_kept (execEndRun_kept _ _ _ _ _ h)
  | microcodeWatchdog => exact .of_kept (execMicrocodeWatchdog_kept _ _ _ h)
  | ucodeParityError => exact .of_kept (execUcodeParityError_kept _ _ _ h)
  | capCfg => exact .of_kept (execCapCfg_kept _ _ _ h)
  | trigLoad => exact .of_kept (execTrigLoad_kept _ _ _ h)
  | fqRecordWrite => exact .of_roots (execFqRecordWrite_roots _ _ _ h) (execFqRecordWrite_mems _ _ _ h)
  | mqRecordWrite => exact .of_roots (execMqRecordWrite_roots _ _ _ h) (execMqRecordWrite_mems _ _ _ h)
  | stepOpen => exact .of_kept (execStepOpen_kept _ _ _ h)
  | stepClose => exact .of_kept (execStepClose_kept _ _ _ h)
  | stepCloseEvaluate => exact .of_kept (execStepCloseEvaluate_kept _ _ _ h)
  | recMeas => exact .of_kept (execRecMeas_kept _ _ _ h)
  | maskArm => exact .of_kept (execMaskArm_kept _ _ _ h)
  | pmuMeas => exact .of_kept (execPmuMeas_kept _ _ _ h)
  | pmuMeasDone => exact .of_kept (execPmuMeasDone_kept _ _ _ _ h)
  | acq => exact .of_kept (execAcq_kept _ _ _ h)
  | acqTrigger => exact .of_kept (execAcqTrigger_kept _ _ _ _ h)
  | acqEnd => exact .of_kept (execAcqEnd_kept _ _ _ _ _ h)
  | recRead => exact .of_kept (execRecRead_kept _ _ _ h)
  | recFree => exact .of_kept (execRecFree_kept _ _ _ h)
  | tmuMeas => exact .of_kept (execTmuMeas_kept _ _ _ h)
  | tmuGateRise => exact .of_kept (execTmuGateRise_kept _ _ _ h)
  | tmuStampReference => exact .of_kept (execTmuStampReference_kept _ _ _ h)
  | tmuStopEdge => exact .of_kept (execTmuStopEdge_kept _ _ _ _ h)
  | tmuMeasDone => exact .of_kept (execTmuMeasDone_kept _ _ _ h)
  | meaEngine => exact .of_kept (execMeaEngine_kept _ _ _ _ h)
  | awgEngine => exact .of_kept (execAwgEngine_kept _ _ _ _ h)
  | awgCfg => exact .of_kept (execAwgCfg_kept _ _ _ h)
  | awgWrite => exact .of_kept (execAwgWrite_kept _ _ _ h)
  | awgSeq => exact .of_kept (execAwgSeq_kept _ _ _ h)
  | awgRun => exact .of_kept (execAwgRun_kept _ _ _ h)
  | awgTrigger => exact .of_kept (execAwgTrigger_kept _ _ _ h)
  | awgPlayEnd => exact .of_kept (execAwgPlayEnd_kept _ _ _ h)
  | awgDecisionPoint => exact .of_kept (execAwgDecisionPoint_kept _ _ _ h)
  | awgUnderrun => exact .of_kept (execAwgUnderrun_kept _ _ _ _ h)
  | awgJump => exact .of_kept (execAwgJump_kept _ _ _ h)
  | reEngine => exact .of_kept (execReEngine_kept _ _ _ _ h)
  | reWrite => exact .of_kept (execReWrite_kept _ _ _ h)
  | reLayer => exact .of_kept (execReLayer_kept _ _ _ h)
  | reMap => exact .of_kept (execReMap_kept _ _ _ h)
  | reRun => exact .of_kept (execReRun_kept _ _ _ h)
  | reHalt => exact .of_kept (execReHalt_kept _ _ _ h)
  | reCommitWrite => exact .of_kept (execReCommitWrite_kept _ _ _ h)
  | verticalBlanking => exact .of_kept (execVerticalBlanking_kept _ _ _ h)
  | frameComplete => exact .of_kept (execFrameComplete_kept _ _ _ h)
  | dpsEngine => exact .of_kept (execDpsEngine_kept _ _ _ _ h)
  | dpsCfg => exact .of_kept (execDpsCfg_kept _ _ _ h)
  | dpsRampEnd => exact .of_kept (execDpsRampEnd_kept _ _ _ h)
  | dpsMeas => exact .of_kept (execDpsMeas_kept _ _ _ h)
  | senseLost => exact .of_kept (execSenseLost_kept _ _ _ h)
  | monCfg => exact .of_kept (execMonCfg_kept _ _ _ h)
  | monCheck => exact .of_kept (execMonCheck_kept _ _ _ h)
  | windowMonitorTrip => exact .of_kept (execWindowMonitorTrip_kept _ _ _ _ _ h)
  | blankEnd => exact .of_kept (execBlankEnd_kept _ _ _ h)
  | offWatchCrossing => exact .of_kept (execOffWatchCrossing_kept _ _ _ h)
  | budgetSample => exact .of_kept (execBudgetSample_kept _ _ _ h)
  | psupCfg => exact .of_kept (execPsupCfg_kept _ _ _ h)
  | psupTrip => exact .of_kept (execPsupTrip_kept _ _ _ h)
  | laneSourceEvent => exact .of_kept (execLaneSourceEvent_kept _ _ _ h)
  | plzEn => exact .of_kept (execPlzEn_kept _ _ _ _ h)
  | plzDis => exact .of_kept (execPlzDis_kept _ _ _ _ h)
  | seqSync => exact .of_kept (execSeqSync_kept _ _ _ h)
  | taskSeqJump => exact .of_kept (execTaskSeqJump_kept _ _ _ h)
  | measTrig => exact .of_kept (execMeasTrig_kept _ _ _ h)
  | tmuArm => exact .of_kept (execTmuArm_kept _ _ _ h)
  | awgStart => exact .of_kept (execAwgStart_kept _ _ _ h)
  | taskAwgJump => exact .of_kept (execTaskAwgJump_kept _ _ _ h)
  | dpsEn => exact .of_kept (execDpsEn_kept _ _ _ _ h)
  | dpsDis => exact .of_kept (execDpsDis_kept _ _ _ _ h)
  | dpsBlank => exact .of_kept (execDpsBlank_kept _ _ _ h)
  | reStart => exact .of_kept (execReStart_kept _ _ _ h)
  | cmArmOut => exact .of_kept (execCmArmOut_kept _ _ h)
  | cmFireOut => exact .of_kept (execCmFireOut_kept _ _ h)
  | cmHaltOut => exact .of_kept (execCmHaltOut_kept _ _ h)
  | avOut => exact .of_kept (execAvOut_kept _ _ _ h)
  | wake => exact .of_kept (execWake_kept _ _ h)
  | host => exact .of_kept (execHost_kept _ _ _ h)
  | andGate => exact .of_kept (execAndGate_kept _ _ _ h)
  | laneCfg => exact .of_kept (execLaneCfg_kept _ _ _ h)
  | laneFire => exact .of_kept (execLaneFire_kept _ _ _ h)
  | laneAck => exact .of_kept (execLaneAck_kept _ _ _ h)
  | lanCfgWrite => exact .of_kept (execLanCfgWrite_kept _ _ _ _ h)
  | lanFireWrite => exact .of_kept (execLanFireWrite_kept _ _ _ h)
  | lanAckWrite => exact .of_kept (execLanAckWrite_kept _ _ _ h)
  | cmCtlArm => exact .of_kept (execCmCtlArm_kept _ _ _ h)
  | cmCtlDisarm => exact .of_kept (execCmCtlDisarm_kept _ _ _ h)
  | cmCtlFire => exact .of_kept (execCmCtlFire_kept _ _ _ h)
  | cmCtlHalt => exact .of_kept (execCmCtlHalt_kept _ _ _ h)
  | cmPulseEnd => exact .of_kept (execCmPulseEnd_kept _ _ _ h)
  | cmArmDetect => exact .of_kept (execCmArmDetect_kept _ _ h)
  | cmFireDetect => exact .of_kept (execCmFireDetect_kept _ _ _ h)
  | cmHaltDetect => exact .of_kept (execCmHaltDetect_kept _ _ h)
  | autodisarm => exact .of_kept (execAutodisarm_kept _ _ h)
  | avTrain => exact .of_kept (execAvTrain_kept _ _ _ _ h)
  | avTrainTimeout => exact .of_kept (execAvTrainTimeout_kept _ _ h)
  | avSend => exact .of_kept (execAvSend_kept _ _ _ h)
  | avFrameReceive => exact .of_kept (execAvFrameReceive_kept _ _ _ _ h)
  | avPulseReceive => exact .of_kept (execAvPulseReceive_kept _ _ _ h)
  | avEffect => exact .of_kept (execAvEffect_kept _ _ _ h)
  | avLinkLost => exact .of_kept (execAvLinkLost_kept _ _ h)
  | avCfgEnClear => exact .of_kept (execAvCfgEnClear_kept _ _ h)
  | calRun => exact .of_kept (execCalRun_kept _ _ _ h)
  | calRunDone => exact .of_kept (execCalRunDone_kept _ _ _ _ h)
  | calLoad => exact .of_kept (execCalLoad_kept _ _ _ h)
  | calRead => exact .of_roots (execCalRead_roots _ _ _ h) (execCalRead_mems _ _ _ h)
  | parkWrite => exact .of_roots (execParkWrite_roots _ _ _ h) (execParkWrite_mems _ _ _ h)
  | thermalSample => exact .of_kept (execThermalSample_kept _ _ _ h)
  | thermalTripClear => exact .of_kept (execThermalTripClear_kept _ _ _ h)
  | thmLimWrite => exact .of_kept (execThmLimWrite_kept _ _ _ _ h)
  | pmEngine => exact .of_kept (execPmEngine_kept _ _ _ _ h)
  | pmXfer => exact .of_kept (execPmXfer_kept _ _ _ h)
  | pmXferWaitTimeout => exact .of_roots (execPmXferWaitTimeout_roots _ _ h) (execPmXferWaitTimeout_mems _ _ h)
  | pmInfo => exact .of_roots (execPmInfo_roots _ _ _ h) (execPmInfo_mems _ _ _ h)
  | flashViewRead => exact .of_kept (execFlashViewRead_kept _ _ _ _ h)
  | lineFillDone => exact .of_kept (execLineFillDone_kept _ _ h)
  | flashViewReadTimeout => exact .of_kept (execFlashViewReadTimeout_kept _ _ h)
  | psFrameStart => exact .of_kept (execPsFrameStart_kept _ _ h)
  | psFrameEnd => exact .of_roots (execPsFrameEnd_roots _ _ _ _ h) (execPsFrameEnd_mems _ _ _ _ h)
  | psNop => exact .of_roots (execPsNop_roots _ _ h) (execPsNop_mems _ _ h)
  | psRead => exact .of_roots (execPsRead_roots _ _ _ h) (execPsRead_mems _ _ _ h)
  | psWrite => exact .of_roots (execPsWrite_roots _ _ _ _ h) (execPsWrite_mems _ _ _ _ h)
  | psWake => exact .of_roots (execPsWake_roots _ _ h) (execPsWake_mems _ _ h)
  | psFrameAbandon => exact .of_kept (execPsFrameAbandon_kept _ _ h)
  | psMbTomcWrite => exact .of_kept (execPsMbTomcWrite_kept _ _ _ h)
  | attest => exact .of_roots (execAttest_roots _ _ _ h) (execAttest_mems _ _ _ h)
  | idRead => exact .of_roots (execIdRead_roots _ _ _ h) (execIdRead_mems _ _ _ h)
  | floorCommit => exact ⟨execFloorCommit_rise _ _ _ h, execFloorCommit_mems _ _ _ h⟩
  | keyRevoke => exact ⟨execKeyRevoke_rise _ _ _ h, execKeyRevoke_mems _ _ _ h⟩
  | fwWatchdogExpiry => exact .of_roots (execFwWatchdogExpiry_roots _ _ h) (execFwWatchdogExpiry_mems _ _ h)
  | firmwareRestart => exact .of_roots (execFirmwareRestart_roots _ _ _ h) (execFirmwareRestart_mems _ _ _ h)
  | selfResetWrite => exact .of_roots (execSelfResetWrite_roots _ _ _ h) (execSelfResetWrite_mems _ _ _ h)
  | chipLevelSelfReset => exact .of_roots (execChipLevelSelfReset_roots _ _ _ h) (execChipLevelSelfReset_mems _ _ _ h)
  | internalConsistencyFailure => exact .of_roots (execInternalConsistencyFailure_roots _ _ h) (execInternalConsistencyFailure_mems _ _ h)
  | faultReport => exact .of_kept (execFaultReport_kept _ _ _ h)
  | stormWindowClose => exact .of_kept (execStormWindowClose_kept _ _ h)
  | eqRecordWrite => exact .of_roots (execEqRecordWrite_roots _ _ _ h) (execEqRecordWrite_mems _ _ _ h)
  | diagView => exact .of_kept (execDiagView_kept _ _ _ h)
  | regDump => exact .of_roots (execRegDump_roots _ _ _ h) (execRegDump_mems _ _ _ h)
  | snapshotLoRead => exact .of_kept (execSnapshotLoRead_kept _ _ _ _ h)
  | snapshotHiRead => exact .of_kept (execSnapshotHiRead_kept _ _ _ _ h)
  | peakRead => exact .of_kept (execPeakRead_kept _ _ _ h)
  | registerWrite => exact .of_roots (execRegisterWrite_roots _ _ _ _ h) (execRegisterWrite_mems _ _ _ _ h)
  | awgWriteDone => exact .of_roots (execAwgWriteDone_roots _ _ _ h) (execAwgWriteDone_mems _ _ _ h)
  | reWriteDone => exact .of_roots (execReWriteDone_roots _ _ _ h) (execReWriteDone_mems _ _ _ h)
  | pmXferDone => exact .of_roots (execPmXferDone_roots _ _ _ h) (execPmXferDone_mems _ _ _ h)
  | monCheckDone => exact .of_roots (execMonCheckDone_roots _ _ _ _ h) (execMonCheckDone_mems _ _ _ _ h)
  | dpsMeasDone => exact .of_kept (execDpsMeasDone_kept _ _ _ _ _ h)
  | recReadDone => exact .of_roots (execRecReadDone_roots _ _ _ h) (execRecReadDone_mems _ _ _ h)
  | avFrameSent => exact .of_kept (execAvFrameSent_kept _ _ _ h)
  | dpsDropout => exact .of_kept (execDpsDropout_kept _ _ _ h)
  | dpsDropoutEnd => exact .of_kept (execDpsDropoutEnd_kept _ _ _ h)
  | dpsDischarged => exact .of_kept (execDpsDischarged_kept _ _ _ h)

/-- Every command completes: most rows answer `next` at their head, and the others in each branch of what they ask of
the state first. -/
theorem exec_completes (c : Instr) (s : State) : ∃ t, exec c s = .next t := by
  cases c with
  | tmuStampReference | tmuStopEdge | tmuMeasDone | awgTrigger | awgPlayEnd | awgDecisionPoint | awgUnderrun
  | reCommitWrite | windowMonitorTrip | offWatchCrossing | psupTrip =>
    simp only [exec, execTmuStampReference, execTmuStopEdge, execTmuMeasDone, execAwgTrigger, execAwgPlayEnd,
      execAwgDecisionPoint, execAwgUnderrun, execReCommitWrite, execWindowMonitorTrip, execOffWatchCrossing,
      execPsupTrip]
    (repeat' split) <;> exact ⟨_, rfl⟩
  | _ => exact ⟨_, rfl⟩

/-- A step keeps the blown fuses and the canonical form: the command it runs does, and a tick touches neither. -/
theorem step_keeps {s t : State} (h : step s = .next t) :
    (kept s).1.fwFloor ≤ (kept t).1.fwFloor ∧ (kept s).1.patchFloor ≤ (kept t).1.patchFloor ∧
      (∀ n : Fin 4, (kept s).1.revoked[n] = true → (kept t).1.revoked[n] = true) ∧
      ((kept s).2.wf = true → (kept t).2.wf = true) := by
  unfold step at h
  split at h
  · cases h
    have hTick : kept (idleTick s) = kept s := by unfold idleTick; split <;> rfl
    rw [hTick]
    exact ⟨le_rfl, le_rfl, fun _ h => h, fun h => h⟩
  · obtain ⟨⟨_, hFw, hPatch, hRevoked⟩, hMems⟩ := exec_keeps h
    exact ⟨hFw, hPatch, hRevoked, hMems⟩

/-- Settles O58: each row completes, and its lemma says that it keeps the queue. -/
theorem execLeavesTheQueue : Obligations.ExecLeavesTheQueue := by
  intro c s
  obtain ⟨t, h⟩ := exec_completes c s
  exact ⟨t, h, (exec_keeps h).rise.1⟩

/-- Settles O59: `FLOOR_COMMIT` and `KEY_REVOKE` only raise, and every other row keeps the eFuses. -/
theorem eFusesOnlyRise : Obligations.EFusesOnlyRise := by
  intro s t h
  obtain ⟨hFw, hPatch, hRevoked, -⟩ := step_keeps h
  exact ⟨hFw, hPatch, hRevoked⟩

/-- Settles O60: a row writes a memory only by the writes of Laws/Mem, which keep the canonical form. -/
theorem memoriesStayCanonical : Obligations.MemoriesStayCanonical := by
  intro s t h
  obtain ⟨-, -, -, hMems⟩ := step_keeps h
  exact hMems

/-- Settles O1: `step` looks at the queue alone. -/
theorem stepRunsTheFrontCommand : Obligations.StepRunsTheFrontCommand := by
  intro c r s
  rfl

theorem step_idle {s : State} (h : s.pending = []) : step s = .next (idleTick s) := by
  unfold step
  rw [h]

/-- Settles O2, by the two branches of `idleTick`. -/
theorem idleStepCountsTime : Obligations.IdleStepCountsTime := by
  intro s hQueue
  rw [step_idle hQueue]
  unfold idleTick
  refine ⟨fun hLock hPor hPerst => ?_, fun hStopped => ?_⟩
  · rw [if_pos (by simp [hLock, hPor, hPerst])]
  · rw [if_neg (by rcases hStopped with h | h | h <;> simp [h])]

end Sys2Proof.Machine
end

section
/-! SUPPORT. The proofs of the statements about start-up, resets and input power (01_architecture, 11_power,
15_boot_security_recovery): what rails, resets and the boot's begin touch. -/

namespace Sys2Proof.Machine

/-! ### A fold whose steps leave something as it is -/

/-- What each step of a fold leaves as it is, the fold leaves. -/
theorem foldl_keeps {α β : Type} (π : State → β) {g : State → α → State} (h : ∀ s a, π (g s a) = π s) (l : List α)
    (s : State) : π (l.foldl g s) = π s := by
  induction l generalizing s with
  | nil => rfl
  | cons a r ih => rw [List.foldl_cons, ih, h]

theorem park_foldl {α : Type} (g : State → α → State) (h : ∀ s a, (g s a).park = s.park) (l : List α)
    (s : State) : (l.foldl g s).park = s.park :=
  foldl_keeps State.park h l s

/-! ### Rails -/

/-- `bringUp` changes which rails are starting, and nothing else. -/
theorem bringUp_eq (s : State) :
    bringUp s = { s with pwr := { s.pwr with starting := (bringUp s).pwr.starting } } := by
  unfold bringUp
  split <;> rfl

@[simp] theorem bringUp_boot (s : State) : (bringUp s).boot = s.boot := by rw [bringUp_eq]
@[simp] theorem bringUp_pm (s : State) : (bringUp s).pm = s.pm := by rw [bringUp_eq]
@[simp] theorem bringUp_park (s : State) : (bringUp s).park = s.park := by rw [bringUp_eq]
theorem mem_allRails (r : Rail) : r ∈ allRails := by
  cases r <;> simp [allRails]

theorem railIx_injective : Function.Injective railIx := by
  intro a b h
  have hVal := congrArg Fin.val h
  cases a <;> cases b <;> simp [railIx] at hVal ⊢ <;> omega

theorem railGood_setRail (s : State) (q r : Rail) (b : Bool) :
    railGood (setRail s q b) r = if r = q then b else railGood s r := by
  have hIx : (railIx q).val = (railIx r).val ↔ r = q := by
    rw [← Fin.ext_iff, railIx_injective.eq_iff, eq_comm]
  simp [railGood, setRail, Vector.getElem_set, hIx]

theorem railGood_setRails (s : State) (qs : List Rail) (r : Rail) :
    railGood (qs.foldl (fun s q => setRail s q false) s) r = (!decide (r ∈ qs) && railGood s r) := by
  induction qs generalizing s with
  | nil => simp
  | cons q qs ih =>
    rw [List.foldl_cons, ih, railGood_setRail]
    by_cases hq : r = q <;> simp [hq]

/-- `railsDown` touches the rails alone. -/
theorem railsDown_eq (s : State) (o : Nat) :
    railsDown s o = { s with pwr := { s.pwr with
      railUp := (railsDown s o).pwr.railUp, starting := (railsDown s o).pwr.starting } } := by
  have h : ∀ (qs : List Rail) (t : State), qs.foldl (fun s r => setRail s r false) t =
      { t with pwr := { t.pwr with railUp := (qs.foldl (fun s r => setRail s r false) t).pwr.railUp } } := by
    intro qs
    induction qs with
    | nil => exact fun _ => rfl
    | cons q qs ih =>
      intro t
      rw [List.foldl_cons, ih]
      rfl
  unfold railsDown
  rw [h]

theorem railGood_railsDown (s : State) (o : Nat) (r : Rail) :
    railGood (railsDown s o) r = (decide (railOrder r ≤ o) && railGood s r) := by
  have h := railGood_setRails s (allRails.filter fun r => o < railOrder r) r
  simp only [List.mem_filter, mem_allRails, true_and, decide_eq_true_eq] at h
  refine h.trans ?_
  by_cases hr : railOrder r ≤ o <;> simp [hr, Nat.not_lt.2]

/-! ### The boot begins -/

@[simp] theorem pmStarting_park (s : State) : (pmStarting s).park = s.park := rfl
@[simp] theorem mapChans_park (s : State) (p : Fin 16) (f : Fin 1024 → Chan → Chan) :
    (mapChans s p f).park = s.park := rfl
@[simp] theorem modTim_park (s : State) (p : Fin 16) (f : Tim → Tim) : (modTim s p f).park = s.park := rfl
@[simp] theorem modPin_park (s : State) (p : Fin 16) (f : Pin → Pin) : (modPin s p f).park = s.park := rfl
@[simp] theorem modEng_park (s : State) (e : Eng) (f : EngCore → EngCore) : (modEng s e f).park = s.park := by
  cases e <;> rfl

@[simp] theorem loadDacs_park (s : State) (p : Fin 16) (restore : Bool) : (loadDacs s p restore).park = s.park := by
  unfold loadDacs
  extract_lets raw t1 t2 t3
  have h : t3.park = s.park := calc
    t3.park = t2.park := park_foldl _ (by intros; exact mapChans_park _ _ _) _ _
    _ = s.park := by rw [modPin_park, mapChans_park]
  split
  · rw [applyLevels, mapChans_park, h]
  · exact h

@[simp] theorem firstCodes_park (s : State) (restore : Bool) : (firstCodes s restore).park = s.park := by
  unfold firstCodes
  extract_lets s1 s2
  calc
    _ = s2.park := park_foldl _ (by intros; exact modDps_park _ _ _) _ _
    _ = s1.park := park_foldl _ (by intros; exact modAwg_park _ _ _) _ _
    _ = s.park := park_foldl _ (by intros; rw [modTim_park, loadDacs_park]) _ _

theorem postEq_park (s : State) (c : Option CtxId) (r : EqRec) : (postEq s c r).park = s.park := by
  unfold postEq
  extract_lets e t
  split <;> rfl

theorem parkLoad_loaded (s : State) : (parkLoad s).park.loaded = true := by
  unfold parkLoad
  extract_lets ok t
  split
  · rfl
  · rw [postEq_park]
    rfl

theorem bootBegin_marks (s : State) :
    (bootBegin s).boot.stage = .rom ∧ (bootBegin s).boot.trying = 1 ∧ (bootBegin s).pm.eng.st = .starting ∧
      (bootBegin s).park.loaded = true := by
  unfold bootBegin
  extract_lets s1 s2
  rw [bringUp_boot, bringUp_pm, bringUp_park]
  refine ⟨rfl, rfl, rfl, ?_⟩
  change s2.park.loaded = true
  rw [pmStarting_park, modEng_park, firstCodes_park, parkLoad_loaded]

/-- Everything that the boot waits for is there. -/
def BootReady (s : State) : Prop :=
  s.boot.stage = .reset ∧ s.glb.por = false ∧ s.glb.perst = false ∧ s.glb.lock = true ∧ coreUp s = true ∧
    s.glb.pwr ≠ .deepSleep

theorem resume_ready {s : State} (h : BootReady s) : resume s = bootBegin s := by
  obtain ⟨hStage, hPor, hPerst, hLock, hCore, hPwr⟩ := h
  simp [resume, hStage, hPor, hPerst, hLock, hCore, hPwr]

theorem resume_notReady {s : State} (h : ¬BootReady s) : resume s = bringUp s :=
  if_neg fun hAll => h (by simpa [BootReady, and_assoc] using hAll)

/-- Settles O6, by the two branches of `resume`. -/
theorem bootBeginsWhenReady : Obligations.BootBeginsWhenReady := by
  intro s
  refine ⟨fun hStage hPor hPerst hLock hCore hPwr => ?_, fun hNot => ?_⟩
  · rw [resume_ready ⟨hStage, hPor, hPerst, hLock, hCore, hPwr⟩]
    exact bootBegin_marks s
  · have h : ¬BootReady s := by
      rintro ⟨hStage, hPor, hPerst, hLock, hCore, hPwr⟩
      simp_all
    rw [resume_notReady h]
    exact bringUp_eq s

/-! ### Whole resets -/

/-- What a power-on reset through a loss of VIN does: the core's fields fresh, the Lichen domain's kept. -/
theorem porNow_true (s : State) :
    porNow s true = keepFrame s (keepLichen s (railsDown (porMarks (freshCore s)) 1)) := rfl

theorem porNow_false (s : State) : porNow s false = railsDown (lichenLost (porMarks (freshCore s))) 0 := rfl

/-- Settles O7: a loss of VIN is `porNow` with the Lichen domain, a loss of VLICH without it. -/
theorem inputPowerFailureResets : Obligations.InputPowerFailureResets := by
  intro s
  refine ⟨fun hVin => ?_, porNow s false, rfl, ?_⟩
  · have h (f : PwrEvt → PwrEvt) : vinFails s f =
        { porNow s true with pwr := { (porNow s true).pwr with evt := f (porNow s true).pwr.evt } } := if_pos hVin
    refine ⟨_, _, rfl, rfl, ?_, ?_, ?_⟩
    · rw [h, porNow_true, railsDown_eq]
      rfl
    · rw [h, porNow_true, railsDown_eq]
      rfl
    · intro v hv
      have hv' : ∃ f, v = vinFails s f := by
        simp only [List.mem_cons, List.not_mem_nil, or_false] at hv
        exact hv.elim (fun h => ⟨_, h⟩) fun h => ⟨_, h⟩
      obtain ⟨f, rfl⟩ := hv'
      rw [h, porNow_true, railsDown_eq]
      refine ⟨rfl, rfl, rfl, rfl, rfl, rfl, rfl, rfl, rfl, rfl, rfl, fun n => ?_, rfl, fun n => ?_⟩
      · simp [keepFrame, keepLichen, keepLanes, keepMon]
      · simp [keepFrame, keepLichen, keepLanes, keepMon, eventWaits]
  · have hRails (r : Rail) : railGood (porNow s false) r = false := by
      rw [porNow_false, railGood_railsDown]
      cases r <;> rfl
    have hEq := porNow_false s
    rw [railsDown_eq] at hEq
    refine ⟨?_, ?_, ?_, ?_, ?_, ?_, ?_, ?_, ?_, ?_, ?_, ?_, ?_, hRails⟩ <;> rw [hEq] <;> rfl

/-- What PERST_N makes of the block. -/
theorem perstNow_eq (s : State) : perstNow s = bringUp (keepFrame s (railsDown (perstMarks (freshCore s)) 5)) := rfl

/-- Settles O9, by the branches of the two rows. -/
theorem perstResetsAndReleases : Obligations.PerstResetsAndReleases := by
  intro s
  refine ⟨fun hOff hAwake => ⟨perstNow s, ?_, ?_⟩, fun hOff hSleep => ?_, fun chipid chain hOn => ⟨fun hPor => ?_,
    fun hPor u hu => ⟨fun hAwake => ?_, fun hSleep => ?_⟩⟩⟩
  · simp [exec, execPerstNAssert, hOff, hAwake]
  · rw [perstNow_eq, bringUp_eq, railsDown_eq]
    exact ⟨rfl, rfl, rfl, rfl, rfl, rfl, rfl, rfl, rfl, rfl, rfl, rfl, rfl, rfl⟩
  · simp [exec, execPerstNAssert, hOff, hSleep]
  · simp [exec, execPerstNDeassert, hOn, hPor]
  · simp [exec, execPerstNDeassert, hOn, hPor, hAwake, hu]
  · simp [exec, execPerstNDeassert, hOn, hPor, hSleep, hu]

/-! ### Reset -/

/-- Settles O3: each clause reads a field of the empty state. -/
theorem resetState : Obligations.ResetState := by
  have hRails (r : Rail) : railGood State.reset r = false := by simp [railGood, State.reset]
  have hEngs (e : Eng) : isOff State.reset e = true := by cases e <;> simp [isOff, getEng, State.reset]
  have hPlz (p : Fin 16) : State.reset.plz[p].cfg.linked = false ∧ widthOf State.reset p = 64 := by
    simp [widthOf, State.reset]
  refine ⟨rfl, rfl, rfl, rfl, hRails, rfl, rfl, rfl, rfl, rfl, rfl, rfl, rfl, fun n => ?_, fun e _ => hEngs e, hPlz, rfl,
    rfl, fun n => ?_, rfl, rfl, rfl, rfl⟩
  · simp [State.reset]
  · simp [State.reset]

/-! ### Rails start in their order -/

/-- The first rail that is down starts alone, where the others that are down come later in the order. -/
theorem bringUp_first {s : State} {r : Rail} {rest : List Rail} (hStarting : s.pwr.starting = [])
    (hStopped : s.pwr.seqStopped = false) (hVin : s.glb.vinGood = true)
    (hDown : (allRails.filter fun q => railOrder q ≤ railsWanted s && !railGood s q) = r :: rest)
    (hOrder : railOrder r ≤ 8) (hLater : ∀ q ∈ rest, railOrder r < railOrder q) :
    bringUp s = { s with pwr := { s.pwr with starting := [r] } } := by
  have hMin : ((r :: rest).map railOrder).foldl min 8 = railOrder r := by
    have h : ∀ l : List Rail, (∀ q ∈ l, railOrder r < railOrder q) →
        (l.map railOrder).foldl min (railOrder r) = railOrder r := by
      intro l
      induction l with
      | nil => exact fun _ => rfl
      | cons q l ih =>
        intro hl
        obtain ⟨hq, hl⟩ := List.forall_mem_cons.1 hl
        rw [List.map_cons, List.foldl_cons, Nat.min_eq_left hq.le, ih hl]
    rw [List.map_cons, List.foldl_cons, Nat.min_eq_right hOrder, h rest hLater]
  have hOnly : (r :: rest).filter (fun q => railOrder q == railOrder r) = [r] := by
    rw [List.filter_cons_of_pos (by simp), List.filter_eq_nil_iff.2]
    intro q hq
    have hLt := hLater q hq
    simp only [beq_iff_eq]
    omega
  unfold bringUp
  rw [if_neg (by simp [hStarting, hStopped, hVin])]
  dsimp only
  rw [hDown, hMin, hOnly]

/-- The rails but VLICH and VIO. -/
def laterRails : List Rail := allRails.drop 2

theorem allRails_eq : allRails = .vlich :: .vio :: laterRails := rfl

theorem railOrder_laterRails {q : Rail} (h : q ∈ laterRails) : 2 < railOrder q := by
  cases q <;> simp_all [laterRails, allRails, railOrder]

theorem railsWanted_pos (s : State) : 1 ≤ railsWanted s := by
  unfold railsWanted
  (repeat' split) <;> omega

theorem two_le_railsWanted {s : State} (h : s.glb.pwr ≠ .deepSleep) : 2 ≤ railsWanted s := by
  unfold railsWanted
  rw [if_neg h]
  (repeat' split) <;> omega

theorem bringUp_vlich {s : State} (hStarting : s.pwr.starting = []) (hStopped : s.pwr.seqStopped = false)
    (hVin : s.glb.vinGood = true) (hDown : railGood s .vlich = false) :
    bringUp s = { s with pwr := { s.pwr with starting := [.vlich] } } := by
  refine bringUp_first (rest := (Rail.vio :: laterRails).filter fun q => railOrder q ≤ railsWanted s && !railGood s q)
    hStarting hStopped hVin ?_ (by decide) ?_
  · rw [allRails_eq, List.filter_cons_of_pos (by simp [hDown, railOrder, railsWanted_pos])]
  · intro q hq
    rcases List.mem_cons.1 (List.mem_filter.1 hq).1 with rfl | h
    · decide
    · exact Nat.lt_of_succ_lt (railOrder_laterRails h)

theorem bringUp_vio {s : State} (hStarting : s.pwr.starting = []) (hStopped : s.pwr.seqStopped = false)
    (hVin : s.glb.vinGood = true) (hUp : railGood s .vlich = true) (hDown : railGood s .vio = false)
    (hPwr : s.glb.pwr ≠ .deepSleep) :
    bringUp s = { s with pwr := { s.pwr with starting := [.vio] } } := by
  refine bringUp_first (rest := laterRails.filter fun q => railOrder q ≤ railsWanted s && !railGood s q)
    hStarting hStopped hVin ?_ (by decide) ?_
  · rw [allRails_eq, List.filter_cons_of_neg (by simp [hUp]),
      List.filter_cons_of_pos (by simp [hDown, railOrder, two_le_railsWanted hPwr])]
  · intro q hq
    exact railOrder_laterRails (List.mem_filter.1 hq).1

/-- VIN in range starts the rails, and samples REFSEL where the Lichen domain was lost. -/
theorem powerUp_por {s : State} (sample refsel : Bool) (hPor : s.glb.por = true) (hVin : s.glb.vinGood = false) :
    powerUp s sample refsel = bringUp { s with
      glb := { s.glb with vinGood := true, refsel := if sample then refsel else s.glb.refsel } } :=
  if_pos (by simp [hPor, hVin])

/-- Settles O4: the first rail that is down starts, and a rail's end is the branch of its row. -/
theorem inputPowerStartsTheRails : Obligations.InputPowerStartsTheRails := by
  refine ⟨fun s refsel hPor hVin hStarting hStopped c hc => ?_, fun s r hr => ⟨?_, ?_⟩⟩
  · have hRow : exec c s = .next (powerUp s (!railGood s .vlich) refsel) := by
      simp only [List.mem_cons, List.not_mem_nil, or_false] at hc
      rcases hc with rfl | rfl <;> rfl
    rw [hRow, powerUp_por _ _ hPor hVin]
    refine ⟨fun hLich => ?_, fun hLich hVio hPwr => ?_⟩
    · rw [hLich]
      exact congrArg _ (bringUp_vlich hStarting hStopped rfl hLich)
    · rw [hLich]
      exact congrArg _ (bringUp_vio hStarting hStopped rfl hLich hVio hPwr)
  · simp [exec, execRailGood, hr, setRail]
  · simp [exec, execRailStartTimeout, hr]

/-- Settles O5, by the branches of the row. -/
theorem pllLockEndsPowerOnReset : Obligations.PllLockEndsPowerOnReset := by
  intro s chipid chain hVin hLock hCore hPwr
  refine ⟨fun hPor => ?_, fun hPor => ?_⟩
  · simp [exec, execPllLock, hVin, hLock, hCore, hPwr, hPor]
  · simp [exec, execPllLock, hVin, hLock, hCore, hPwr, hPor]

end Sys2Proof.Machine
end

section
/-! SUPPORT. The proofs of the statements about the boot, rails and clocks in operation, and power states
(01_architecture, 11_power, 15_boot_security_recovery): what parking and the loss of the PE dies touch. -/

namespace Sys2Proof.Machine

/-! ### Parking the outputs -/

/-- Parking writes Plazas, AWGs and DPSs and takes free values: what these leave, it leaves. -/
theorem parkAll_keeps {β : Type} (π : State → β) (hPlz : ∀ s p f, π (modPlz s p f) = π s)
    (hAwg : ∀ s a f, π (modAwg s a f) = π s) (hDps : ∀ s n f, π (modDps s n f) = π s)
    (hFree : ∀ (s : State) w, π (takeFree s w).2 = π s) (s : State) : π (parkAll s) = π s := by
  have hCode (s : State) (a : Fin 16) (r : Nat) (n : BitVec 16) : π (dacCode s a r n).2 = π s := by
    unfold dacCode
    (repeat' split) <;> simp only [hFree]
  have hAwgs (s : State) (a : Fin 16) : π (parkAwg s a) = π s := by
    unfold parkAwg holdCode
    extract_lets
    rw [hAwg, hCode, hAwg, hAwg]
  unfold parkAll
  extract_lets s1 s2
  calc
    _ = π s2 := foldl_keeps π (by intros; exact hDps _ _ _) _ _
    _ = π s1 := foldl_keeps π (by intros; exact hAwgs _ _) _ _
    _ = π s := foldl_keeps π (by intros; exact hPlz _ _ _) _ _

@[simp] theorem parkAll_glb (s : State) : (parkAll s).glb = s.glb :=
  parkAll_keeps State.glb (by intros; rfl) (by intros; rfl) (by intros; rfl) (by intros; rfl) s

@[simp] theorem parkAll_boot (s : State) : (parkAll s).boot = s.boot :=
  parkAll_keeps State.boot (by intros; rfl) (by intros; rfl) (by intros; rfl) (by intros; rfl) s

/-- IDLE is entered or not: the power state alone may move, from ACTIVE. -/
theorem idleCheck_cases (s : State) :
    idleCheck s = s ∨ (s.glb.pwr = .active ∧ idleCheck s = { s with glb := { s.glb with pwr := .idle } }) := by
  unfold idleCheck
  split_ifs with h
  · simp only [Bool.and_eq_true, decide_eq_true_eq] at h
    exact .inr ⟨h.1.1, rfl⟩
  · exact .inl rfl

@[simp] theorem idleCheck_boot (s : State) : (idleCheck s).boot = s.boot := by
  rcases idleCheck_cases s with h | ⟨-, h⟩ <;> rw [h]

@[simp] theorem idleCheck_fwVer (s : State) : (idleCheck s).glb.fwVer = s.glb.fwVer := by
  rcases idleCheck_cases s with h | ⟨-, h⟩ <;> rw [h]

@[simp] theorem idleCheck_busy (s : State) : (idleCheck s).glb.busy = s.glb.busy := by
  rcases idleCheck_cases s with h | ⟨-, h⟩ <;> rw [h]

@[simp] theorem idleCheck_heldReq (s : State) : (idleCheck s).glb.heldReq = s.glb.heldReq := by
  rcases idleCheck_cases s with h | ⟨-, h⟩ <;> rw [h]

@[simp] theorem idleCheck_linkL23 (s : State) : (idleCheck s).glb.linkL23 = s.glb.linkL23 := by
  rcases idleCheck_cases s with h | ⟨-, h⟩ <;> rw [h]

theorem idleCheck_pwr {s : State} (h : s.glb.pwr = .active) :
    (idleCheck s).glb.pwr = .active ∨ (idleCheck s).glb.pwr = .idle := by
  rcases idleCheck_cases s with hs | ⟨-, hs⟩
  · exact .inl (by rw [hs, h])
  · exact .inr (by rw [hs])

/-! ### The boot's stages -/

theorem postEq_boot (s : State) (c : Option CtxId) (r : EqRec) : (postEq s c r).boot = s.boot := by
  unfold postEq
  extract_lets e t
  split <;> rfl

@[simp] theorem failPatch_boot (s : State) (c : BitVec 4) : (failPatch s c).boot = s.boot := by
  rw [failPatch, postEq_boot]

@[simp] theorem loadPatch_boot (s : State) : (loadPatch s).boot = s.boot := by
  unfold loadPatch
  extract_lets off f t im
  (repeat' split) <;> simp only [failPatch_boot] <;> rfl

/-- Settles O10: what `fwRunning` and `recover` mark stands through the parking that follows. -/
theorem bootStagesAdvance : Obligations.BootStagesAdvance := by
  intro s
  refine ⟨fun hStage => ⟨fun hUnsampled => ?_, fun hSampled => ⟨fwRunning s, ?_, ?_⟩⟩, fun hStage => ?_,
    fun hStage => ⟨fun hSecond => ⟨recover { s with boot := { s.boot with failS := 7 } }, ?_, ?_⟩, fun hFirst => ?_⟩,
    fun hStage hLoading hNamed => ?_⟩
  · simp [exec, execFirmwareRunning, hStage, hUnsampled]
  · simp [exec, execFirmwareRunning, hStage, hSampled]
  · simp [fwRunning]
  · simp [exec, execFirmwareRunning, hStage]
  · simp only [exec, execBootManifestTimeout]
    rw [if_pos hStage, if_pos hSecond]
  · simp [recover]
  · simp only [exec, execBootManifestTimeout]
    rw [if_pos hStage, if_neg hFirst]
  · simp [exec, execPatchLoadTimeout, hStage, hLoading, hNamed, failPatch]

/-! ### Rails and clocks in operation -/

/-- A rail of orders 1 to 5 is none of a PE die. -/
theorem exec_railOutOfTolerance_core {s : State} {r : Rail} (hPor : s.glb.por = false)
    (hPerst : perstHolds s = false) (hGood : railGood s r = true) (hOrder : railOrder r ≤ 5) :
    exec (.railOutOfTolerance r) s = .next (selfReset s .rail) := by
  simp only [exec, execRailOutOfTolerance, hGood, hPor, hPerst, Bool.not_false, Bool.and_self, if_true]
  cases r with
  | vped n | vpep n | vpen n => simp [railOrder] at hOrder
  | _ => rfl

theorem exec_railOutOfTolerance_pe {s : State} {n : Fin 8} {r : Rail} (hPor : s.glb.por = false)
    (hPerst : perstHolds s = false) (hGood : railGood s r = true) (hRail : r ∈ [Rail.vped n, .vpep n, .vpen n]) :
    exec (.railOutOfTolerance r) s = .next (peRailFails (setRail s r false) n) := by
  simp only [List.mem_cons, List.not_mem_nil, or_false] at hRail
  rcases hRail with rfl | rfl | rfl <;> simp [exec, execRailOutOfTolerance, hGood, hPor, hPerst]

/-- Settles O8, by the branches of the two rows. -/
theorem railsInOperation : Obligations.RailsInOperation := by
  intro s hPor hPerst
  refine ⟨fun r hGood hOrder => exec_railOutOfTolerance_core hPor hPerst hGood hOrder,
    fun n r hRail hGood => exec_railOutOfTolerance_pe hPor hPerst hGood hRail, fun hOff hPwr v i u hu => ?_⟩
  have hRow : exec (.vinSample v i) s = .next (if 15000 < i then
      tripAll { u with pwr := { u.pwr with evt := { u.pwr.evt with vinOc := true } } } 6 else u) := by
    subst hu
    exact congrArg _ (if_neg (by simp [hPor, hOff, hPwr]))
  exact ⟨fun hLow => hRow.trans (by rw [if_neg hLow.not_gt]), fun hHigh => hRow.trans (by rw [if_pos hHigh])⟩

/-- Settles O11, by the branches of the two rows. -/
theorem clockAndDieLinkFailures : Obligations.ClockAndDieLinkFailures := by
  intro s
  refine ⟨fun hLock u hu => ⟨fun hPor hPerst hPwr => ?_, fun hElse => ?_⟩, fun n hGood hLock hPor hPerst => ?_⟩
  · subst hu
    rcases hPwr with hPwr | hPwr <;> simp [exec, execPllLockLoss, hLock, hPor, hPerst, hPwr]
  · subst hu
    rcases hElse with h | h | ⟨h1, h2⟩
    · simp [exec, execPllLockLoss, hLock, h]
    · simp [exec, execPllLockLoss, hLock, h]
    · simp [exec, execPllLockLoss, hLock, h1, h2]
  · simp [exec, execDieLinkCrcFail, hGood, hLock, hPor, hPerst]

/-! ### Power requests -/

/-- Settles O12: each of the three rows is `writePwrReq` with its number. -/
theorem powerRequestsAreActedOnOrHeld : Obligations.PowerRequestsAreActedOnOrHeld := by
  intro s hBars
  have hRow : ∀ x ∈ [(Instr.pwrReqActive, 0#2), (.pwrReqStandby, 1#2), (.pwrReqDeepSleep, 2#2)],
      exec x.1 s = .next (writePwrReq s x.2) := by
    intro x hx
    simp only [List.mem_cons, List.not_mem_nil, or_false] at hx
    rcases hx with rfl | rfl | rfl <;> exact congrArg _ (if_pos hBars)
  refine ⟨fun hBusy x hx => ?_, fun hBusy x hx => ?_⟩
  · rw [hRow x hx]
    simp [writePwrReq, hBusy]
  · rw [hRow x hx]
    simp [writePwrReq, hBusy]

theorem allOff_eq_true_iff (s : State) : allOff s = true ↔ ∀ e ∈ allEngs, isOff s e = true := List.all_eq_true

theorem allOff_eq_false_iff (s : State) : allOff s = false ↔ ∃ e ∈ allEngs, isOff s e = false := by
  simp [allOff, List.all_eq_false]

/-- What one change of a DPS brings about on each, a fold over DPSs brings about on those it names. -/
theorem dps_foldl_modDps {P : Dps → Prop} {f : Dps → Dps} (hf : ∀ D, P (f D)) (n : Fin 32) :
    ∀ (l : List (Fin 32)) (s : State), n ∈ l ∨ P s.dps[n] → P (l.foldl (fun s k => modDps s k f) s).dps[n] := by
  intro l
  induction l with
  | nil => exact fun s h => h.resolve_left (by simp)
  | cons k l ih =>
    intro s h
    refine ih _ ?_
    simp only [modDps_dps, Fin.getElem_fin, upd_get]
    by_cases hk : n = k
    · exact .inr (by simpa [hk] using hf _)
    · simpa [hk] using h

theorem harmless_dps (s : State) (n : Fin 32) :
    (harmless s).dps[n].sDps = false ∧ (harmless s).dps[n].sink = false := by
  unfold harmless
  extract_lets s1 s2
  have h : s2.dps[n].sDps = false ∧ s2.dps[n].sink = false :=
    dps_foldl_modDps (P := fun D => D.sDps = false ∧ D.sink = false) (by intro D; exact ⟨rfl, rfl⟩) n _ _
      (.inl (List.mem_finRange n))
  exact h

/-- A request for STANDBY or DEEP SLEEP from ACTIVE or IDLE. -/
theorem actOn_goDown {s : State} {r : BitVec 2} (hReq : r = 1 ∨ r = 2) (hPwr : s.glb.pwr = .active ∨ s.glb.pwr = .idle) :
    actOn s r = goDown s (if r = 1 then .standby else .deepReq) := by
  rcases hReq with rfl | rfl <;> rcases hPwr with h | h <;> simp [actOn, h]

/-- A request for STANDBY or DEEP SLEEP in STANDBY, or with DEEP SLEEP requested. -/
theorem actOn_stayDown {s : State} {r : BitVec 2} (hReq : r = 1 ∨ r = 2)
    (hPwr : s.glb.pwr = .standby ∨ s.glb.pwr = .deepReq) :
    actOn s r = stayDown s (if r = 1 then .standby else .deepReq) := by
  rcases hReq with rfl | rfl <;> rcases hPwr with h | h <;> simp [actOn, h]

theorem actOn_refused {s : State} {r : BitVec 2} (hReq : r = 1 ∨ r = 2) (hPwr : s.glb.pwr ≠ .deepSleep)
    (hOn : allOff s = false) : actOn s r = refuse s := by
  cases hCase : s.glb.pwr with
  | active | idle =>
    rw [actOn_goDown hReq (by simp [hCase]), goDown, hOn]
    rfl
  | standby | deepReq =>
    rw [actOn_stayDown hReq (by simp [hCase]), stayDown, hOn]
    rfl
  | deepSleep => exact absurd hCase hPwr

/-- Settles O13, by the power state the request meets. -/
theorem standbyNeedsEveryEngineOff : Obligations.StandbyNeedsEveryEngineOff := by
  intro s r hReq
  refine ⟨fun hPwr hOff => ?_, fun hPwr hLink hOff => ?_, fun hPwr hOn => ?_, fun id o m x hx hBarred => ?_⟩
  · have hAct : actOn s r = beginChange (harmless s) (if r = 1 then .standby else .deepReq) := by
      rw [actOn_goDown hReq hPwr, goDown, (allOff_eq_true_iff s).2 hOff, if_pos rfl]
    rw [hAct]
    exact ⟨rfl, fun n => harmless_dps s n, rfl, rfl, rfl, rfl⟩
  · rw [actOn_stayDown hReq hPwr, stayDown, (allOff_eq_true_iff s).2 hOff]
    simp [hLink]
  · exact actOn_refused hReq hPwr ((allOff_eq_false_iff s).2 hOn)
  · simp only [List.mem_cons, List.not_mem_nil, or_false] at hx
    rcases hx with rfl | rfl | rfl | rfl | rfl | rfl | rfl | rfl | rfl | rfl | rfl | rfl | rfl | rfl <;>
      exact congrArg Host.Outcome.next (runDesc_barred hBarred _)

/-! ### Changes of power state end -/

@[simp] theorem railsDown_glb (s : State) (o : Nat) : (railsDown s o).glb = s.glb := by rw [railsDown_eq]

@[simp] theorem mapChans_glb (s : State) (p : Fin 16) (f : Fin 1024 → Chan → Chan) :
    (mapChans s p f).glb = s.glb := rfl

theorem harmless_glb (s : State) : (harmless s).glb = s.glb := by
  unfold harmless
  extract_lets s1 s2
  have h : s2.glb = s.glb := calc
    s2.glb = s1.glb := foldl_keeps State.glb (by intros; exact modDps_glb _ _ _) _ _
    _ = s.glb := foldl_keeps State.glb (by intros; rw [modAwg_glb, mapChans_glb]) _ _
  clear_value s2
  exact h

theorem losePe_glb (s : State) : (losePe s).glb = s.glb := by
  have hUnsampled (s : State) (d : Fin 10) : (unsampled s d).glb = s.glb :=
    foldl_keeps State.glb (by intros; rfl) _ _
  unfold losePe
  extract_lets s1 s2
  calc
    _ = s2.glb := foldl_keeps State.glb (by intros; exact hUnsampled _ _) _ _
    _ = s1.glb := railsDown_glb s1 5
    _ = (harmless s).glb := foldl_keeps State.glb (by intros; rw [modPlz_glb, mapChans_glb]) _ _
    _ = s.glb := harmless_glb s

/-- The row where the change is due to end. -/
theorem exec_powerStateChangeDone {s : State} (hBusy : s.glb.busy = true)
    (hDue : s.glb.target ≠ .active ∨ upReady s = true) : exec .powerStateChangeDone s = .next (changeDone s) :=
  congrArg _ (if_pos (by simpa [hBusy] using hDue))

/-- With no request held a change ends in the state that parking, or the loss of the PE dies, leaves. -/
theorem changeDone_noHeld {s : State} (hHeld : s.glb.heldReq = none)
    (hLink : s.glb.target = .deepReq → s.glb.linkL23 = false) : ∀ u v : State,
    u = { s with glb := { s.glb with busy := false, pwr := s.glb.target } } →
    v = (if s.glb.target = .active then idleCheck (parkAll u) else losePe u) →
    changeDone s = { v with glb := { v.glb with heldReq := none } } := by
  rintro u v hu hv
  have hGlb : v.glb.heldReq = none ∧ v.glb.linkL23 = s.glb.linkL23 := by
    subst hv
    split
    · rw [idleCheck_heldReq, idleCheck_linkL23, parkAll_glb, hu]
      exact ⟨hHeld, rfl⟩
    · rw [losePe_glb, hu]
      exact ⟨hHeld, rfl⟩
  unfold changeDone
  extract_lets dest glb u' v' held glb' w
  have hv' : v' = v := by rw [hv, hu]
  have hNone : held = none := by simp only [held, hv', hGlb.1, Option.filter_none]
  have hLink' : w.glb.linkL23 = s.glb.linkL23 := by simp only [w, glb', hv', hGlb.2]
  have hw : w = { v with glb := { v.glb with heldReq := none } } := by simp only [w, glb', hv']
  rw [hNone]
  simp only [hLink']
  rw [if_neg (by simpa [dest] using hLink), hw]

/-- A change that goes down ends in the state it goes to. -/
theorem changeDone_down {s : State} (hDown : s.glb.target ≠ .active) (hHeld : s.glb.heldReq = none)
    (hLink : s.glb.target = .deepReq → s.glb.linkL23 = false) :
    (changeDone s).glb.busy = false ∧ (changeDone s).glb.pwr = s.glb.target := by
  have h := changeDone_noHeld hHeld hLink _ _ rfl rfl
  rw [if_neg hDown] at h
  rw [h]
  dsimp only
  rw [losePe_glb]
  exact ⟨rfl, rfl⟩

/-- The return to ACTIVE ends in ACTIVE, or in IDLE where every Plaza is OFF. -/
theorem changeDone_up {s : State} (hUp : s.glb.target = .active) (hHeld : s.glb.heldReq = none) :
    (changeDone s).glb.busy = false ∧ ((changeDone s).glb.pwr = .active ∨ (changeDone s).glb.pwr = .idle) := by
  have h := changeDone_noHeld hHeld (by simp [hUp]) _ _ rfl rfl
  rw [if_pos hUp] at h
  rw [h]
  dsimp only
  rw [idleCheck_busy, parkAll_glb]
  exact ⟨rfl, idleCheck_pwr (by rw [parkAll_glb]; exact hUp)⟩

/-- Settles O14, by the branches of the rows and of `changeDone`. -/
theorem powerChangesEnd : Obligations.PowerChangesEnd := by
  intro s
  refine ⟨fun hBusy hTarget hHeld => ?_, fun hBusy hTarget hHeld hLink => ?_, fun hBusy hTarget hReady hHeld => ?_,
    fun hAwake hPwr hBusy => ?_, fun hAwake hElse => ?_, fun hLink hBusy hPwr => ?_, fun hLink hBusy hTarget => ?_,
    fun hPwr => ?_⟩
  · refine ⟨_, exec_powerStateChangeDone hBusy (.inl (by simp [hTarget])), ?_⟩
    rw [← hTarget]
    exact changeDone_down (by simp [hTarget]) hHeld (by simp [hTarget])
  · refine ⟨_, exec_powerStateChangeDone hBusy (.inl (by simp [hTarget])), ?_⟩
    rw [← hTarget]
    exact changeDone_down (by simp [hTarget]) hHeld fun _ => hLink
  · exact ⟨_, exec_powerStateChangeDone hBusy (.inr hReady), changeDone_up hTarget hHeld⟩
  · have hUp : execLinkL2L3Entry.linkUp s = true := hAwake
    simp [exec, execLinkL2L3Entry, hUp, hPwr, hBusy]
  · have hUp : execLinkL2L3Entry.linkUp s = true := hAwake
    have hNot : ¬(s.glb.pwr = .deepReq ∧ s.glb.busy = false) := by
      rintro ⟨h1, h2⟩
      simp [h1, h2] at hElse
    simp [exec, execLinkL2L3Entry, hUp, hNot]
  · simp [exec, execDeepSleepRequestTimeout, hLink, hBusy, hPwr, refuse]
  · simp [exec, execDeepSleepRequestTimeout, hLink, hBusy, hTarget, refuse]
  · simp [exec, execWakeNLow, hPwr]

end Sys2Proof.Machine
end

section
/-! SUPPORT. The proofs of the statements about engine descriptors and the host link (01_architecture,
02_host_rings): the rows of descriptors on their occasions, and what an entry of the operation table or of a ring
looks up. -/

namespace Sys2Proof.Machine

/-! ### Rows on their occasions -/

/-- The row of a descriptor on its occasion gives what its meaning gives from the state in which it runs. -/
theorem exec_given {i : Instr} {s t : State} {id : OpId} {opc : Nat} {o : Op}
    {f : State → Op → List Word → State} (h : Given s id opc o) (hRow : exec i s = .next (runDesc s id opc f))
    (ht : f (begun s id) o o.cur = t) : exec i s = .next t := by
  rw [hRow, runDesc_given h, ht]

/-- What happens later to a running operation, on its occasion. -/
theorem exec_running {i : Instr} {s t : State} {id : OpId} {opc : Nat} {o : Op}
    {f : Op → List Word → State} (h : Running s id opc o) (hRow : exec i s = .next (onRunning s id opc f))
    (ht : f o o.cur = t) : exec i s = .next t := by
  rw [hRow, onRunning_running h, ht]

/-! ### Engine descriptors -/

theorem engAction_enables {s : State} {e : Eng} {id : OpId} {d : List Word} {m : Meet} (h : bits (wd d 2) 31 30 = 1) :
    engAction s e id d m = enableOp s e id m := by
  simp [engAction, h]

theorem engAction_disables {s : State} {e : Eng} {id : OpId} {d : List Word} {m : Meet}
    (h : bits (wd d 2) 31 30 = 2) : engAction s e id d m = disableEng s e (some id) m := by
  simp [engAction, h]

theorem engAction_invalid {s : State} {e : Eng} {id : OpId} {d : List Word} {m : Meet}
    (h : bits (wd d 2) 31 30 = 0 ∨ bits (wd d 2) 31 30 = 3) : engAction s e id d m = finishOp s id eArg [] := by
  rcases h with h | h <;> simp [engAction, h]

/-- An engine descriptor acts on its engine as its ACTION says. -/
theorem exec_engAction {i : Instr} {s : State} {id : OpId} {o : Op} {e : Eng} {m : Meet}
    (hRow : exec i s = .next (engAction (begun s id) e id o.cur m)) :
    (bits (wd o.cur 2) 31 30 = 1 → exec i s = .next (enableOp (begun s id) e id m)) ∧
    (bits (wd o.cur 2) 31 30 = 2 → exec i s = .next (disableEng (begun s id) e (some id) m)) ∧
    (bits (wd o.cur 2) 31 30 = 0 ∨ bits (wd o.cur 2) 31 30 = 3 →
      exec i s = .next (finishOp (begun s id) id eArg [])) :=
  ⟨fun h => by rw [hRow, engAction_enables h], fun h => by rw [hRow, engAction_disables h],
    fun h => by rw [hRow, engAction_invalid h]⟩

/-- Settles O19, by the branches of `enableEng` and `disableEng` and by ACTION. -/
theorem engineDescriptorsRequest : Obligations.EngineDescriptorsRequest := by
  intro s id o m
  refine ⟨fun e hCool => ?_, fun e hHot => ?_, fun e hHead => ⟨?_, fun hMeet hBar => ?_, fun hFault => ?_⟩, fun h => ?_,
    fun h => ?_, fun x hx h => ?_, fun n hTmu hIx => ?_, fun p hDig hIx => ?_, fun hDig hIx h => ?_⟩
  · simp [enableOp, hCool]
  · simp [enableOp, hHot]
  · simp [enableEng, hHead, absorbReq, finishAll]
  · by_cases hBlocked : alwaysBlocked s e = true
    · simp [enableEng, hHead, hMeet, hBlocked, rejectReq, finishAll]
    · simp [enableEng, hHead, hMeet, hBlocked, hBar.resolve_left hBlocked, rejectReq, finishAll]
  · simp [disableEng, hHead, hFault, absorbReq, finishAll]
  · exact exec_given h rfl rfl
  · exact exec_given h rfl rfl
  · rcases hx with hx | ⟨hInstr, hOpc, hEng⟩
    · simp only [List.mem_cons, List.not_mem_nil, or_false] at hx
      rcases hx with rfl | rfl | rfl | rfl <;> exact exec_engAction (exec_given h rfl rfl)
    · rw [hOpc] at h
      rw [hInstr]
      exact exec_engAction (exec_given h rfl (by simp only [hEng]))
  · simp [meaEng, hTmu, hIx]
  · simp only [meaEng, hDig]
    simp [hIx]
  · refine exec_given h rfl ?_
    have hNone : meaEng o.cur = none := by
      simp only [meaEng, hDig]
      simp [hIx]
    rw [hNone]

/-! ### The format agreement and the admin context -/

/-- Settles O20, by the branches of `writeOffer` and `adminOpen`. -/
theorem formatAgreementAndAdminContext : Obligations.FormatAgreementAndAdminContext := by
  intro s hBars
  have hOffer (w : Word) : exec (.hifVerOfferWrite w) s = .next (writeOffer s w) := congrArg _ (if_pos hBars)
  have hSet (e : Bool) : exec (.adminEnSet e) s = .next (adminOpen s e) := congrArg _ (if_pos hBars)
  refine ⟨fun w e hOn => ⟨?_, ?_⟩, fun w hOff => ?_, fun hOff hAgreed => ⟨fun rs hRings => ?_, fun hNone => ?_, ?_⟩⟩
  · rw [hOffer, writeOffer, if_pos hOn]
  · rw [hSet]
    exact congrArg _ (if_pos hOn)
  · rw [hOffer, writeOffer, if_neg (by simp [hOff])]
  all_goals
    have hSome : ¬(!s.hif.agreedF1 && !s.hif.agreedF2) = true := by
      simpa [or_iff_not_imp_left] using hAgreed
    rw [hSet]
    unfold adminOpen
    rw [if_neg (by simp [hOff]), if_neg hSome]
  · rw [hRings]
  · rw [hNone]

/-! ### Doorbells -/

/-- The index of a doorbell is wrong exactly where it reaches the ring's size or the advance is too large. -/
theorem indexBad_iff (r : Ring) (i : Nat) : indexBad r i = true ↔ r.size ≤ i ∨
    (r.ty = .sq ∧ r.size - 1 - r.used < (i + r.size - r.tail) % r.size) ∨
    (r.ty ≠ .sq ∧ r.used < (i + r.size - r.head) % r.size) := by
  by_cases hSq : r.ty = .sq <;> simp [indexBad, hSq]

/-- Settles O23: the three flaws are those that `doorbellFlaws` finds. -/
theorem doorbellsMoveOwnRings : Obligations.DoorbellsMoveOwnRings := by
  intro s page off size val hBars
  refine ⟨fun hForm => ?_, fun hOff => ?_, fun hOn n i foreign closed wrong hn hi hForeign hClosed hWrong => ?_⟩
  · have hBad : (size ≠ 8 || off ≠ 0) = true := by simpa using hForm
    simp only [exec, execDoorbell, hBars, hBad]
    rfl
  · simp [exec, execDoorbell, hBars, hOff]
  subst hn hi
  have hRow : exec (.doorbell page 0 8 val) s = .next (ringDoorbell s page val) := by
    simp [exec, execDoorbell, hBars, hOn]
  have hFlaws : doorbellFlaws s page val = (foreign, closed, wrong) := by
    refine Prod.ext (Bool.eq_iff_iff.2 ?_) (Prod.ext (Bool.eq_iff_iff.2 ?_) (Bool.eq_iff_iff.2 ?_))
    · simp [doorbellFlaws, hForeign, Option.any_eq_true]
    · simp [doorbellFlaws, hClosed]
    · simp [doorbellFlaws, hWrong, Option.any_eq_true, indexBad_iff, or_assoc]
  refine ⟨fun h1 h2 h3 => ?_, fun hBad => ?_⟩
  · rw [hRow, ringDoorbell, hFlaws]
    simp [h1, h2, h3]
  · rw [hRow, ringDoorbell, hFlaws]
    simp only [Bool.or_eq_true, or_assoc]
    rw [if_pos hBad]
    rfl

/-! ### Fetch, dispatch, timeouts -/

/-- Settles O24, by the branches of the two rows. -/
theorem fetchTakesDescriptorsInOrder : Obligations.FetchTakesDescriptorsInOrder := by
  intro s n r hRing hFetch
  refine ⟨fun cnt hUsed hEight => ⟨fun hRoom => ?_, ?_⟩, fun hUsed hRetries => ?_, fun hUsed hRetries => ?_⟩
  · simp only [exec, execSqFetchComplete, fetchDone, hRing, hFetch]
    rw [if_neg (by simp [hUsed, hEight]), if_pos hRoom]
  · simp [exec, execSqFetchComplete, fetchDone, hRing, hFetch, Nat.not_lt.2 hUsed, Nat.not_lt.2 hEight]
  · simp [exec, execSqFetchTimeout, hRing, hFetch, hUsed, hRetries]
  · simp [exec, execSqFetchTimeout, hRing, hFetch, hUsed, Nat.not_lt.2 hRetries]

theorem op?_id {s : State} {id : OpId} {o : Op} (h : op? s id = some o) : o.id = id := by
  simpa using List.find?_some h

/-- A dispatch is barred as STANDBY, or else a throttle, bars its descriptor. -/
theorem dispatchBar_standby {s : State} {d : List Word} (h : (standingBy s && onPeDie d) = true) :
    dispatchBar s d = some eArg := if_pos h

theorem dispatchBar_hot {s : State} {d : List Word} (h : (standingBy s && onPeDie d) = false)
    (hHot : tooHot s d = true) : dispatchBar s d = some eThermal := by
  simp [dispatchBar, h, hHot]

theorem dispatchBar_none {s : State} {d : List Word} (h : (standingBy s && onPeDie d) = false)
    (hCool : tooHot s d = false) : dispatchBar s d = none := by
  simp [dispatchBar, h, hCool]

theorem abortOp_dispatched {s : State} {id : OpId} {o : Op} (st : BitVec 8) (h : op? s id = some o)
    (hPhase : o.phase = .dispatched) :
    abortOp s id st = completeOp { s with mqPend := s.mqPend.filter fun m => m.op != id } id st [] := by
  simp [abortOp, h, Op.live, hPhase]

theorem abortOp_running {s : State} {id : OpId} {o : Op} (st : BitVec 8) (h : op? s id = some o)
    (hPhase : o.phase = .running) :
    abortOp s id st = abandon { s with mqPend := s.mqPend.filter fun m => m.op != id } o st := by
  simp [abortOp, h, Op.live, hPhase]

/-- The opcodes whose transfer goes on while they run are among those that use host memory. -/
theorem usesHostRunning_of_mem {c : Nat} (h : c ∈ [0x52, 0x62, 0x71, 0x7C, 0x91]) :
    usesHost c = true ∧ usesHostRunning c = true := by
  simp only [List.mem_cons, List.not_mem_nil, or_false] at h
  rcases h with rfl | rfl | rfl | rfl | rfl <;> exact ⟨rfl, rfl⟩

/-- Settles O25, by the branches of the four rows. -/
theorem dispatchAndTimeouts : Obligations.DispatchAndTimeouts := by
  intro s id o hOp
  refine ⟨fun hTurn hId u hu => ?_, fun hPhase => ?_, fun hPhase => ?_, fun hPhase => ?_, fun hPhase hUses => ?_,
    fun hPhase hUses => ?_⟩
  · have hRow : exec (.descriptorDispatch id) s = .next ((dispatchBar u o.cur).elim
        (if chainRsv u o then completeOp u id eArg [] else u) fun st => completeOp u id st []) := by
      have hNow : exec (.descriptorDispatch id) s = .next (dispatchNow s o) := by
        simp only [exec, execDescriptorDispatch, hOp, hTurn, if_true]
      rw [hNow, dispatchNow, hId, ← hu]
      cases dispatchBar u o.cur <;> rfl
    refine ⟨fun hUp hCool => ⟨fun hRsv => ?_, fun hRsv => ?_⟩, fun hBar => ?_, fun hUp hHot => ?_⟩
    · rw [hRow, dispatchBar_none hUp hCool]
      simp [hRsv]
    · rw [hRow, dispatchBar_none hUp hCool]
      simp [hRsv]
    · rw [hRow, dispatchBar_standby hBar]
      rfl
    · rw [hRow, dispatchBar_hot hUp hHot]
      rfl
  · simp [exec, execQueueWaitTimeout, hOp, hPhase]
  · simp [exec, execExecutionTimeout, hOp, hPhase, abortOp_dispatched _ hOp]
  · simp [exec, execExecutionTimeout, hOp, hPhase, abortOp_running _ hOp]
  · simp [exec, execHostReadError, hOp, hPhase, hUses, abortOp_dispatched _ hOp]
  · obtain ⟨hUse, hUseRun⟩ := usesHostRunning_of_mem hUses
    simp [exec, execHostReadError, hOp, hPhase, hUse, hUseRun, abortOp_running _ hOp]

/-! ### Ending a descriptor -/

theorem countAbort_of_ne (s : State) (id : OpId) {st : BitVec 8} (h : st ≠ eAborted) : countAbort s id st = s := by
  unfold countAbort
  split
  · rw [if_neg]
    simp only [Bool.and_eq_true, decide_eq_true_eq]
    exact fun hBoth => h hBoth.1
  · rfl

/-- What a completed entry looks up. -/
theorem op?_completeOp {s : State} {id : OpId} {o : Op} (st : BitVec 8) (r : List Word) (h : op? s id = some o)
    (hLive : o.live = true) : op? (completeOp s id st r) id = some { o with
      phase := .completed { status := st, r4 := wd r 0, r5 := wd r 1, r6 := wd r 2, r7 := wd r 3, time := s.now } } := by
  unfold completeOp
  rw [op?_modOp _ _ _ _ (by intro o; split <;> rfl), if_pos rfl, op?_countAbort, h]
  simp only [Option.map_some, hLive, if_true]

/-- An entry that has ended stays as it is. -/
theorem op?_completeOp_ended {s : State} {id : OpId} {o : Op} (st : BitVec 8) (r : List Word) (h : op? s id = some o)
    (hEnded : o.live = false) : op? (completeOp s id st r) id = some o := by
  unfold completeOp
  rw [op?_modOp _ _ _ _ (by intro o; split <;> rfl), if_pos rfl, op?_countAbort, h]
  simp [hEnded]

theorem completeOp_ctxs (s : State) (id : OpId) {st : BitVec 8} (r : List Word) (h : st ≠ eAborted) :
    (completeOp s id st r).ctxs = s.ctxs := by
  simp only [completeOp, countAbort_of_ne s id h]
  rfl

/-- A descriptor that fails, the last of its chain, or one of an entry that has ended, completes. -/
theorem finishOp_completes {s : State} {id : OpId} {o : Op} {st : BitVec 8} (r : List Word) (h : op? s id = some o)
    (hEnd : st ≠ stOk ∨ o.live = false ∨ o.descs.length ≤ 1) : finishOp s id st r = completeOp s id st r := by
  unfold finishOp
  rw [h]
  refine if_neg ?_
  simp only [Bool.and_eq_true, decide_eq_true_eq]
  rintro ⟨⟨h1, h2⟩, h3⟩
  rcases hEnd with hEnd | hEnd | hEnd
  · exact hEnd h1
  · simp [h2] at hEnd
  · omega

/-- A chain gone on with its next descriptor. -/
def Op.next (o : Op) : Op :=
  { o with descs := o.descs.tail, phase := .dispatched, mask := 0, count := 0, aux := 0, after := none }

theorem finishOp_goesOn {s : State} {id : OpId} {o : Op} (r : List Word) (h : op? s id = some o) (hLive : o.live = true)
    (hMore : 1 < o.descs.length) : finishOp s id stOk r = (dispatchBar s o.next.cur).elim (modOp s id Op.next)
      fun st => completeOp (modOp s id Op.next) id st [] := by
  unfold finishOp
  rw [h]
  refine (if_pos (by simp [hLive, hMore])).trans ?_
  extract_lets t
  have hBar : dispatchBar t (o.descs.tail.headD []) = dispatchBar s o.next.cur := rfl
  rw [hBar]
  cases dispatchBar s o.next.cur <;> rfl

theorem op?_modOp_next {s : State} {id : OpId} {o : Op} (h : op? s id = some o) :
    op? (modOp s id Op.next) id = some o.next := by
  rw [op?_modOp _ _ _ _ (by intros; rfl), if_pos rfl, h]
  rfl

theorem finishOp_ctxs (s : State) (id : OpId) {st : BitVec 8} (r : List Word) (h : st ≠ eAborted) :
    (finishOp s id st r).ctxs = s.ctxs := by
  have hBar (x : BitVec 8) (d : List Word) (hx : dispatchBar s d = some x) : x ≠ eAborted := by
    unfold dispatchBar at hx
    split_ifs at hx <;> cases hx <;> decide
  cases hOp : op? s id with
  | none => simp [finishOp, hOp]
  | some o =>
    by_cases hMore : st = stOk ∧ o.live = true ∧ 1 < o.descs.length
    · obtain ⟨rfl, hLive, hLen⟩ := hMore
      rw [finishOp_goesOn r hOp hLive hLen]
      cases hd : dispatchBar s o.next.cur with
      | none => rfl
      | some x => exact completeOp_ctxs (modOp s id Op.next) id [] (hBar x _ hd)
    · rw [finishOp_completes r hOp (by grind), completeOp_ctxs s id r h]

/-- Settles O26: a descriptor's end completes its entry or takes its chain on. -/
theorem endedDescriptorCompletesOnce : Obligations.EndedDescriptorCompletesOnce := by
  intro s id o st r hOp
  refine ⟨fun hLive hEnd => ?_, fun hLive hOk hMore u hu => ?_, fun hEnded => ?_,
    fun j hj => op?_finishOp_ne s id j st r hj, finishOp_ops s id st r, fun hSt => finishOp_ctxs s id r hSt⟩
  · rw [finishOp_completes r hOp (by grind), op?_completeOp st r hOp hLive]
  · obtain rfl : u = o.next := hu
    subst hOk
    have hDone (x : BitVec 8) := op?_completeOp x [] (op?_modOp_next hOp) rfl
    rw [finishOp_goesOn r hOp hLive hMore]
    refine ⟨fun hUp hCool => ?_, fun hBar => ?_, fun hUp hHot => ?_⟩
    · rw [dispatchBar_none hUp hCool]
      exact op?_modOp_next hOp
    · rw [dispatchBar_standby hBar]
      exact hDone eArg
    · rw [dispatchBar_hot hUp hHot]
      exact hDone eThermal
  · rw [finishOp_completes r hOp (.inr (.inl hEnded)), op?_completeOp_ended st r hOp hEnded]

/-! ### Completions -/

/-- Settles O27, by the branches of `writeCompl` and of the delay's row. -/
theorem completionsGoToTheCq : Obligations.CompletionsGoToTheCq := by
  refine ⟨fun s id o c hOp hPhase => ?_, fun s n r hRing hOn hCount => ?_⟩
  · have hRow : exec (.completionWrite id) s = .next (writeCompl s o c) := by
      simp only [exec, execCompletionWrite, hOp, hPhase]
    have hId := op?_id hOp
    refine ⟨fun hGone => ?_, fun r hRing hCq hCtx => ⟨fun hFull => ?_, fun hRoom => ?_⟩⟩
    · simp only [hRow, writeCompl, hGone, hId]
    · simp [hRow, writeCompl, hRing, hCq, hCtx, hFull]
    · simp [hRow, writeCompl, hRing, hCq, hCtx, hRoom, hId, complWords]
  · simp [exec, execInterruptDelayExpiry, hRing, hOn, hCount]

end Sys2Proof.Machine
end

section
/-! SUPPORT. The proof of the statement about ring entries (02_host_rings, R55, R65, R91): what a read of host memory
sees after a write, and what a change of a ring looks up. -/

namespace Sys2Proof.Machine

/-! ### Host memory -/

/-- A write leaves every other address, in any memory: no canonical form is asked. -/
theorem read_write_ne (d : Byte) (m : Mem) {a x : Nat} (b : Byte) (hx : x ≠ a) :
    Mem.read d (Mem.write d m a b) x = Mem.read d m x := by
  induction m with
  | nil => by_cases hb : b = d <;> simp [Mem.write, Mem.read, hb, hx]
  | cons e r ih =>
    obtain ⟨y, c⟩ := e
    simp only [Mem.write]
    split_ifs with hLow hDefault hHere hDefault
    · rfl
    · simp [Mem.read, hx]
    · subst hHere
      simp [Mem.read, hx]
    · subst hHere
      simp [Mem.read, hx]
    · simp [Mem.read, ih]

theorem read_hostWriteM_ne (bs : List Byte) (m : Mem) (a : Nat) {x : Nat}
    (hx : ∀ i, i < bs.length → x ≠ (a + i) % 2 ^ 64) : Mem.read 0 (hostWriteM m a bs) x = Mem.read 0 m x := by
  induction bs generalizing m a with
  | nil => rfl
  | cons b r ih =>
    have hHead : x ≠ a % 2 ^ 64 := by simpa using hx 0 (by simp)
    have hTail (i : Nat) (hi : i < r.length) : x ≠ (a + 1 + i) % 2 ^ 64 := by
      have := hx (i + 1) (by simpa using hi)
      rwa [Nat.add_assoc, Nat.add_comm 1 i]
    rw [hostWriteM, ih _ _ hTail, read_write_ne 0 m b hHead]

/-- A byte inside a write that does not wrap reads as written. -/
theorem read_hostWriteM_in (bs : List Byte) (m : Mem) (a i : Nat) (h : Mem.wf 0 m = true) (hi : i < bs.length)
    (hWrap : a + bs.length ≤ 2 ^ 64) : Mem.read 0 (hostWriteM m a bs) ((a + i) % 2 ^ 64) = bs[i] := by
  induction bs generalizing m a i with
  | nil => simp at hi
  | cons b r ih =>
    have hw := write_wf 0 m (a % 2 ^ 64) b h
    simp only [List.length_cons] at hi hWrap
    rw [hostWriteM]
    cases i with
    | zero => rw [read_hostWriteM_ne r _ _ (by intros; omega), Nat.add_zero, read_write_same 0 m _ b h]; rfl
    | succ j =>
      have hNext := ih (Mem.write 0 m (a % 2 ^ 64) b) (a + 1) j hw (by omega) (by omega)
      rwa [Nat.add_assoc, Nat.add_comm 1 j] at hNext

/-- Reading back what was written. -/
theorem hostRead_hostWriteM {s : State} {m : Mem} {a : Nat} {bs : List Byte} (h : Mem.wf 0 m = true)
    (hs : s.hostMem = hostWriteM m a bs) (hWrap : a + bs.length ≤ 2 ^ 64) : hostRead s a bs.length = bs := by
  refine List.ext_getElem (by simp [hostRead]) fun i _ hi => ?_
  simp only [hostRead, List.getElem_map, List.getElem_range, hs]
  exact read_hostWriteM_in bs m a i h hi hWrap

/-! ### Rings -/

/-- Looking a ring up after a change that keeps the rings' numbers. -/
theorem ring?_modRing (s : State) (n m : RingId) (f : Ring → Ring) (hf : ∀ r, (f r).num = r.num) :
    ring? (modRing s n f) m = if m = n then (ring? s n).map f else ring? s m := by
  unfold ring? modRing
  generalize s.rings = l
  induction l with
  | nil => simp
  | cons r l ih =>
    have hNum : (if r.num = n then f r else r).num = r.num := by split <;> simp [hf]
    simp only [List.map_cons, List.find?_cons, hNum]
    by_cases hm : r.num = m
    · by_cases hn : m = n <;> simp [hm, hn]
    · have hSkip : (r.num == m) = false := by simpa using hm
      simp only [hSkip]
      by_cases hn : m = n
      · subst hn
        simpa only [hSkip, if_true] using ih
      · simpa only [if_neg hn] using ih

@[simp] theorem ring?_msixSend (s : State) (v : Nat) (n : RingId) : ring? (msixSend s v) n = ring? s n := by
  unfold msixSend
  (repeat' split) <;> rfl

@[simp] theorem msixSend_hostMem (s : State) (v : Nat) : (msixSend s v).hostMem = s.hostMem := by
  unfold msixSend
  (repeat' split) <;> rfl

@[simp] theorem countInterrupt_hostMem (s : State) (n : RingId) : (countInterrupt s n).hostMem = s.hostMem := by
  unfold countInterrupt
  (repeat' split) <;> simp

/-- Counting an entry for the interrupt changes a ring's count alone. -/
theorem ring?_countInterrupt {s : State} {n : RingId} {r : Ring} (h : ring? s n = some r) :
    ∃ k, ring? (countInterrupt s n) n = some { r with intCount := k } := by
  have hCount (k : Nat → Nat) : ring? (modRing s n fun r => { r with intCount := k r.intCount }) n =
      some { r with intCount := k r.intCount } := by
    rw [ring?_modRing _ _ _ _ (by intros; rfl), if_pos rfl, h]
    rfl
  unfold countInterrupt
  simp only [h]
  split_ifs
  · exact ⟨r.intCount, h⟩
  · exact ⟨0, by rw [ring?_msixSend]; exact hCount fun _ => 0⟩
  · exact ⟨r.intCount + 1, hCount (· + 1)⟩

theorem ring?_countInterrupt_ne (s : State) {n m : RingId} (h : m ≠ n) :
    ring? (countInterrupt s n) m = ring? s m := by
  have hCount (k : Ring → Ring) (hk : ∀ r, (k r).num = r.num) : ring? (modRing s n k) m = ring? s m := by
    rw [ring?_modRing s n m k hk, if_neg h]
  unfold countInterrupt
  split
  · rfl
  · split_ifs
    · rfl
    · rw [ring?_msixSend]
      exact hCount _ (by intros; rfl)
    · exact hCount _ (by intros; rfl)

/-! ### An entry goes into a ring -/

/-- The bytes of an entry of words ws in ring r, with the context and the phase in word 1. -/
def entryBytes (r : Ring) (c : CtxId) (ws : List Word) : List Byte :=
  sliceB (bytesOf (ws.take 1 ++ (wd ws 1 ||| BitVec.ofNat 32 (at_ 31 (b2n r.phase) + c % 4096)) :: ws.drop 2)) 0
    (entrySize r.ty)

/-- Ring r with its index past the entry. -/
def Ring.advance (r : Ring) : Ring :=
  { r with tail := (r.tail + 1) % r.size, phase := if r.tail + 1 == r.size then !r.phase else r.phase }

@[simp] theorem length_sliceB (bs : List Byte) (a n : Nat) : (sliceB bs a n).length = n := by
  simp [sliceB]

@[simp] theorem length_entryBytes (r : Ring) (c : CtxId) (ws : List Word) :
    (entryBytes r c ws).length = entrySize r.ty := length_sliceB _ _ _

/-- The state after the write and the advance of the index. -/
def putEntry (s : State) (n : RingId) (c : CtxId) (ws : List Word) (r : Ring) : State :=
  modRing (hostWrite s (r.base + entrySize r.ty * r.tail) (entryBytes r c ws)) n fun q =>
    { q with tail := (q.tail + 1) % q.size, phase := if r.tail + 1 == r.size then !q.phase else q.phase }

theorem ringPutAs_some {s : State} {n : RingId} {r : Ring} (c : CtxId) (ws : List Word) (irq : Bool)
    (h : ring? s n = some r) : ringPutAs s n c ws irq =
      if irq then countInterrupt (putEntry s n c ws r) n else putEntry s n c ws r := by
  unfold ringPutAs
  rw [h]
  rfl

theorem ring?_putEntry {s : State} {n : RingId} {r : Ring} (c : CtxId) (ws : List Word) (h : ring? s n = some r) :
    ring? (putEntry s n c ws r) n = some r.advance := by
  unfold putEntry
  rw [ring?_modRing _ _ _ _ (by intros; rfl), if_pos rfl]
  change (ring? s n).map _ = _
  rw [h]
  rfl

theorem ringPutAs_hostMem {s : State} {n : RingId} {r : Ring} (c : CtxId) (ws : List Word) (irq : Bool)
    (h : ring? s n = some r) : (ringPutAs s n c ws irq).hostMem =
      hostWriteM s.hostMem (r.base + entrySize r.ty * r.tail) (entryBytes r c ws) := by
  rw [ringPutAs_some c ws irq h]
  cases irq
  · rfl
  · exact countInterrupt_hostMem _ _

/-- Settles O28: the write of the entry, then the advance of the index, then the interrupt's count. -/
theorem ringEntriesAreWrittenInOrder : Obligations.RingEntriesAreWrittenInOrder := by
  intro s n c ws irq r hRing hWrap
  have hMem := ringPutAs_hostMem c ws irq hRing
  have hPut := ring?_putEntry c ws hRing
  refine ⟨?_, fun hWf => ?_, fun m hm => ?_, fun a ha => ?_⟩
  · obtain ⟨k, hk⟩ := ring?_countInterrupt hPut
    have hAdvance : r.advance.phase = if r.tail + 1 = r.size then !r.phase else r.phase := by simp [Ring.advance]
    rw [ringPutAs_some c ws irq hRing]
    cases irq
    · exact ⟨_, hPut, rfl, hAdvance, rfl⟩
    · exact ⟨_, hk, rfl, hAdvance, rfl⟩
  · have hHost : Mem.wf 0 s.hostMem = true := by
      simp only [memoriesWf, Bool.and_eq_true, and_assoc] at hWf
      exact hWf.1
    have hBytes := hostRead_hostWriteM hHost hMem (by rwa [length_entryBytes])
    rw [length_entryBytes] at hBytes
    rw [hBytes, entryBytes]
    cases r.phase <;> rfl
  · have hOther : ring? (putEntry s n c ws r) m = ring? s m := by
      unfold putEntry
      rw [ring?_modRing _ _ _ _ (by intros; rfl), if_neg hm]
      rfl
    rw [ringPutAs_some c ws irq hRing]
    cases irq
    · exact hOther
    · exact (ring?_countInterrupt_ne _ hm).trans hOther
  · rw [hMem]
    refine read_hostWriteM_ne _ _ _ fun i hi => ?_
    rw [length_entryBytes] at hi
    rw [Nat.mul_add] at ha
    omega

end Sys2Proof.Machine
end

section
/-! SUPPORT. The proofs of the statements about contexts, resources and ring descriptors (02_host_rings, R76 to
R90): what a running entry leaves as it is. -/

namespace Sys2Proof.Machine

/-! ### What a row sees of the state before it -/

@[simp] theorem ring?_begun (s : State) (id : OpId) (n : RingId) : ring? (begun s id) n = ring? s n := rfl
@[simp] theorem isOff_begun (s : State) (id : OpId) (e : Eng) : isOff (begun s id) e = isOff s e := by
  cases e <;> rfl

/-- A target is open exactly where its context is there and not ending. -/
theorem targetOpen_iff {s : State} {c : CtxId} :
    targetOpen s c = true ↔ ∃ x, ctx? s c = some x ∧ x.phase = .normal := by
  unfold targetOpen
  cases ctx? s c <;> simp

theorem targetOpen_of_normal {s : State} {c : CtxId} {x : Ctx} (h : ctx? s c = some x) (hx : x.phase = .normal) :
    targetOpen s c = true := targetOpen_iff.2 ⟨x, h, hx⟩

/-- Settles O29, by the branches of the three rows. -/
theorem contextsOpenAndAnswer : Obligations.ContextsOpenAndAnswer := by
  intro s id o
  refine ⟨fun h => exec_given h rfl rfl, fun h hNone => exec_given h rfl (by simp [hNone]),
    fun n h hFree => ⟨fun hAny => ?_, fun hNum hOpen => ?_, fun hNum hClosed => ?_⟩, fun x h hCtx hNormal => ?_,
    fun h hClosed => ?_⟩
  · exact exec_given h rfl (by simp only [hFree, hAny]; rfl)
  · refine exec_given h rfl ?_
    simp only [hFree, hNum, Bool.false_eq_true, if_false, targetOf, hOpen, Bool.and_true, Bool.not_false, if_true]
  · refine exec_given h rfl ?_
    simp only [hFree, hNum, Bool.false_eq_true, if_false, targetOf, hClosed, Bool.and_false]
    rfl
  · exact exec_given h rfl (by simp [targetOf, hCtx, targetOpen_of_normal hCtx hNormal, outstanding])
  · refine exec_given h rfl ?_
    dsimp only [targetOf]
    cases ctx? (begun s id) (bits (wd o.cur 2) 11 0) <;> simp [hClosed]

/-! ### The end of a context -/

/-- CTX_ABORT or CTX_CLOSE of an open context other than 0. -/
theorem beginEnd_open {s : State} {id : OpId} {d : List Word} (ph : CtxPhase) (hZero : targetOf d ≠ 0)
    (hOpen : targetOpen s (targetOf d) = true) : beginEnd s id d ph = ctxDrained (abortCtx
      (modCtx s (targetOf d) fun x => { x with phase := ph, aborted := 0 }) (targetOf d)) (targetOf d) :=
  if_neg (by simp [hZero, hOpen])

theorem beginEnd_refused {s : State} {id : OpId} {d : List Word} (ph : CtxPhase)
    (h : targetOf d = 0 ∨ targetOpen s (targetOf d) = false) : beginEnd s id d ph = finishOp s id eContext [] :=
  if_pos (by simpa using h)

theorem drained_iff {s : State} {c : CtxId} : drained s c = true ↔ ∀ y ∈ s.ops, y.ctx ≠ c := by
  simp [drained]

/-- Settles O30: both descriptors are `beginEnd`, and a drained context goes on by its phase. -/
theorem contextsAbortAndClose : Obligations.ContextsAbortAndClose := by
  rintro s id o c rfl
  refine ⟨fun h hZero hOpen => exec_given h rfl (beginEnd_open _ hZero hOpen),
    fun h hZero hOpen => exec_given h rfl (beginEnd_open _ hZero hOpen), fun x hx h hBad => ?_,
    fun c x k hCtx hGone hPhase => ?_, fun c x k hCtx hGone hPhase => ?_⟩
  · simp only [List.mem_cons, List.not_mem_nil, or_false] at hx
    rcases hx with rfl | rfl <;> exact exec_given h rfl (beginEnd_refused _ hBad)
  · simp [exec, execCtxOpsDrained, ctxDrained, hCtx, drained_iff.2 hGone, hPhase]
  · simp [exec, execCtxOpsDrained, ctxDrained, hCtx, drained_iff.2 hGone, hPhase]

/-! ### Resources and rings -/

/-- The engines of every named resource are OFF. -/
theorem engsOff_iff {s : State} {rs : List Res} :
    (rs.flatMap engsOf).all (isOff s) = true ↔ ∀ r ∈ rs, ∀ e ∈ engsOf r, isOff s e = true := by
  simp only [List.all_eq_true, List.mem_flatMap]
  exact ⟨fun h r hr e he => h e ⟨r, hr, he⟩, fun h e ⟨r, hr, he⟩ => h r hr e he⟩

/-- Settles O32, by the branches of the two rows. -/
theorem resourceReleaseNeedsOff : Obligations.ResourceReleaseNeedsOff := by
  rintro s t id o c rfl rfl
  refine ⟨fun x hx h hClosed => ?_, fun h hOpen => ⟨fun st hCheck => ?_, fun hCheck => ⟨fun hOn => ?_, fun hOff => ?_⟩⟩⟩
  · simp only [List.mem_cons, List.not_mem_nil, or_false] at hx
    rcases hx with rfl | rfl <;> exact exec_given h rfl (by simp [targetOf, hClosed])
  · exact exec_given h rfl (by simp [targetOf, hOpen, hCheck])
  · have hNot : ((claimedBy o.cur).flatMap engsOf).all (isOff (begun s id)) = false := by
      refine Bool.eq_false_iff.2 fun hAll => ?_
      obtain ⟨r, hr, e, he, hOn⟩ := hOn
      simpa [hOn] using engsOff_iff.1 hAll r hr e he
    exact exec_given h rfl (by simp only [targetOf, hOpen, hCheck, hNot]; rfl)
  · have hAll : ((claimedBy o.cur).flatMap engsOf).all (isOff (begun s id)) = true :=
      engsOff_iff.2 fun r hr e he => by rw [isOff_begun]; exact hOff r hr e he
    exact exec_given h rfl (by simp only [targetOf, hOpen, hCheck, hAll]; rfl)

/-- A ring's entry gives a ring with both indices 0 (R88). -/
theorem ringEntry_indices {s : State} {n : RingId} {c : CtxId} {r : Ring} (h : ringEntry s n c = some r) :
    r.head = 0 ∧ r.tail = 0 := by
  unfold ringEntry at h
  extract_lets w k at h
  split at h
  · cases h
  · split_ifs at h
    cases h
    exact ⟨rfl, rfl⟩

/-- Settles O33, by the branches of the two rows. -/
theorem ringsAttachAndDetach : Obligations.RingsAttachAndDetach := by
  rintro s t id o c n rfl rfl rfl
  refine ⟨fun x hx h hClosed => ?_, fun hOpen h => ⟨fun q hRing => ⟨fun hOwn => ?_, fun hOther => ?_⟩,
      fun hFree => ⟨fun hNone => ?_, fun r hEntry => ⟨(ringEntry_indices hEntry).1, (ringEntry_indices hEntry).2,
        fun st hCheck => ?_, fun hCheck => ?_⟩⟩⟩,
    fun hOpen h => ⟨fun hNone => ?_, fun r hRing => ⟨fun hOther => ?_, fun hOwn hBarred => ?_,
      fun hOwn hFree hDetach => ⟨fun hSq => ?_, fun hSq => ?_⟩⟩⟩⟩
  · simp only [List.mem_cons, List.not_mem_nil, or_false] at hx
    rcases hx with rfl | rfl <;> exact exec_given h rfl (by simp [targetOf, hClosed])
  · exact exec_given h rfl (by simp [targetOf, ringNamed, hOpen, hRing, hOwn])
  · exact exec_given h rfl (by simp [targetOf, ringNamed, hOpen, hRing, hOther])
  · exact exec_given h rfl (by simp [targetOf, ringNamed, hOpen, hFree, hNone, attachCheck])
  · exact exec_given h rfl (by simp [targetOf, ringNamed, hOpen, hFree, hEntry, hCheck])
  · exact exec_given h rfl (by simp only [targetOf, ringNamed, hOpen, ring?_begun, hFree, hEntry, hCheck]; rfl)
  · exact exec_given h rfl (by simp [targetOf, ringNamed, hOpen, hNone])
  · exact exec_given h rfl (by simp [targetOf, ringNamed, hOpen, hRing, hOther])
  · exact exec_given h rfl (by simp [targetOf, ringNamed, hOpen, hRing, hOwn, hBarred])
  · exact exec_given h rfl (by simp [targetOf, ringNamed, hOpen, hRing, hOwn, hFree, hDetach, hSq])
  · exact exec_given h rfl (by simp [targetOf, ringNamed, hOpen, hRing, hOwn, hFree, hDetach, hSq])

end Sys2Proof.Machine
end

section
/-! SUPPORT. The proofs of the statements about levels, timing, channels and the park store (03_pin_channels,
04_timing). -/

namespace Sys2Proof.Machine

/-! ### Sets taken whole -/

/-- Settles O34, by the branches of the rows. -/
theorem levelAndTimingSetsAreTakenWhole : Obligations.LevelAndTimingSetsAreTakenWhole := by
  rintro s t id o d ps bs p rfl rfl rfl
  refine ⟨fun h hbs => ⟨fun hAll => ?_, fun hBad => ?_⟩, fun h hbs => ⟨fun hAll => ?_, fun hBad => ?_⟩,
    fun h hbs => ⟨fun hLen hOk => ?_, fun hBad => ?_⟩, fun h => exec_given h rfl rfl, fun hQuiet => ?_, rfl,
    fun hBand hFresh => ?_, fun hElse => ?_⟩
  · subst hbs
    exact exec_given h rfl (if_pos (List.all_eq_true.2 hAll))
  · subst hbs
    exact exec_given h rfl (if_neg (by simpa [List.all_eq_true] using hBad))
  · subst hbs
    exact exec_given h rfl (if_pos (List.all_eq_true.2 hAll))
  · subst hbs
    exact exec_given h rfl (if_neg (by simpa [List.all_eq_true] using hBad))
  · refine exec_given h rfl ?_
    dsimp only
    rw [← hbs, if_pos (by simp [hLen, hOk])]
  · refine exec_given h rfl ?_
    dsimp only
    rw [← hbs, if_neg (by simpa [imp_iff_not_or] using hBad)]
  · exact congrArg _ (if_pos (by simpa using hQuiet))
  · exact congrArg _ (if_neg (not_or.2 ⟨hBand, ne_true_of_eq_false hFresh⟩))
  · exact congrArg _ (if_pos hElse)

/-! ### Channels -/

/-- A channel that leaves its supply set reads OFF with its switches open, whatever its gang does. -/
theorem getChan_mapChans (s : State) (c : Fin 1024) (f : Fin 1024 → Chan → Chan) :
    getChan (mapChans s (chPlaza c) f) c = f c (getChan s c) := by
  have hOf : chOf (chPlaza c) (chIx c) = c := Fin.ext (by simp only [chOf, chPlaza, chIx]; omega)
  simp [getChan, mapChans, hOf]

theorem getChan_modChan (s : State) (c : Fin 1024) (f : Chan → Chan) :
    getChan (modChan s c f) c = f (getChan s c) := by
  simp [getChan, modChan, modChanIn]

/-- A supply that trips: its gang dissolves, the channel is opened and leaves the supplies. -/
def psupTripped (s : State) (c : Fin 1024) : State :=
  let u := modPlz (modChan (dissolve s (chPlaza c) (chIx c)) c fun ch => openChan { ch with hiz := true }) (chPlaza c)
    fun P => { P with psup := P.psup &&& ~~~(1#64 <<< (chIx c).val) }
  { u with pwr := { u.pwr with evt := { u.pwr.evt with psupTrip := true } } }

theorem getChan_psupTripped (s : State) (c : Fin 1024) :
    (getChan (psupTripped s c) c).mode = .off ∧ (getChan (psupTripped s c) c).sPmu = false ∧
      (getChan (psupTripped s c) c).sDrv = false := by
  have hChan : getChan (psupTripped s c) c = openChan { (getChan (dissolve s (chPlaza c) (chIx c)) c) with hiz := true } := by
    rw [← getChan_modChan (dissolve s (chPlaza c) (chIx c)) c fun ch => openChan { ch with hiz := true }]
    simp [getChan, psupTripped]
  rw [hChan]
  refine ⟨?_, rfl, rfl⟩
  simp [openChan, dissolve, getChan_mapChans]

theorem psupTripped_psup (s : State) (c : Fin 1024) :
    ((psupTripped s c).plz[chPlaza c]).psup = (s.plz[chPlaza c]).psup &&& ~~~(1#64 <<< (chIx c).val) := by
  simp [psupTripped, dissolve, mapChans, modChan, modChanIn]

/-- Settles O35, by the branches of the rows. -/
theorem channelsAreConfiguredAndProtected : Obligations.ChannelsAreConfiguredAndProtected := by
  rintro s t id o d c rfl rfl
  refine ⟨fun h ent sel hent hsel => ⟨fun hSome hOk => ?_, fun hBad => ?_⟩,
    fun h ps hps => ⟨fun hBusy => ?_, fun hFree => ⟨fun hOff => ?_, fun hOn => ?_⟩⟩,
    fun h raw res cs ts bs failed lim hcs hlim hts hAll hbs hfailed hres => ?_, fun hDrv hOn hMode => ?_,
    fun h m hm => ⟨fun hOk => ?_, fun hBad => ?_⟩, fun hSup hMode => ?_⟩
  · subst hent hsel
    refine exec_given h rfl (if_neg ?_)
    simpa using And.intro hSome fun k hk => hOk (k, .own) hk rfl
  · subst hent hsel
    refine exec_given h rfl (if_pos ?_)
    simpa using hBad
  · subst hps
    refine exec_given h rfl (if_pos ?_)
    simpa [Option.isSome_iff_ne_none] using hBusy
  · subst hps
    refine exec_given h rfl ((if_neg ?_).trans (if_neg ?_))
    · simpa [Option.isSome_iff_ne_none] using hFree
    · simpa using hOff
  · subst hps
    refine exec_given h rfl ((if_neg ?_).trans (if_pos ?_))
    · simpa [Option.isSome_iff_ne_none] using hFree
    · simpa using hOn
  · subst hcs hlim hres hts hbs hfailed
    refine exec_running h rfl ((if_pos (List.all_eq_true.2 hAll)).trans ?_)
    refine congrArg₂ (fun bs n => finishOp (endSelftest (hostWrite s (wd64 o.cur 4) bs) id) id
      (if n = 0 then stOk else stPartial) [BitVec.ofNat 32 n, _]) (List.flatMap_congr fun c _ => ?_)
      (congrArg List.length (List.filter_congr fun c _ => ?_))
    · beta_reduce
      cases (getChan s c).stSave.isSome <;> cases (raw.map (stRead s)).find? fun r => r.chan == c <;> rfl
    · beta_reduce
      cases (raw.map (stRead s)).find? fun r => r.chan == c <;> rfl
  · have hRow : (getChan s c).sDrv && (getChan s c).drvOn && ((getChan s c).mode == .pe || (getChan s c).mode == .peMon) := by
      simpa [hDrv, hOn] using hMode
    exact congrArg _ (if_pos hRow)
  · subst hm
    refine exec_given h rfl (if_neg ?_)
    simpa [plzIx] using hOk
  · subst hm
    refine exec_given h rfl (if_pos ?_)
    simpa [plzIx, Option.isSome_iff_ne_none] using hBad
  · have hHeld : ((s.plz[chPlaza c]).psup.getLsbD (chIx c).val && (getChan s c).mode == .pmuFv) = true := by
      rw [hSup, hMode]
      rfl
    obtain ⟨hOff, hPmu, hDrv⟩ := getChan_psupTripped s c
    exact ⟨psupTripped s c, if_pos hHeld, hOff, hPmu, hDrv, psupTripped_psup s c, rfl, rfl, rfl⟩

/-! ### The park store -/

/-- Settles O36, by the branches of the two rows. -/
theorem parkStoreIsReadAndWritten : Obligations.ParkStoreIsReadAndWritten := by
  rintro s t id o d rfl rfl
  refine ⟨fun h => exec_given h rfl rfl, fun h img himg => ⟨fun hCtx hGood hCount => ?_, fun hBad => ?_⟩⟩
  · refine exec_given h rfl ?_
    dsimp only
    rw [← himg, if_pos (by simp [hCtx, hGood, hCount])]
  · refine exec_given h rfl ?_
    dsimp only
    rw [← himg, if_neg]
    simpa [imp_iff_not_or, or_assoc] using hBad

end Sys2Proof.Machine
end

section
/-! SUPPORT. The proof of the statement about the sequencer's descriptors (05_sequencer). -/

namespace Sys2Proof.Machine

/-! ### Changes of a Plaza that agree where they act -/

theorem modPlz_congr {s : State} {p : Fin 16} {f g : Plaza → Plaza} (h : f s.plz[p] = g s.plz[p]) :
    modPlz s p f = modPlz s p g := by
  simp only [modPlz, upd, h]

theorem modSeq_congr {s : State} {p : Fin 16} {f g : Seq → Seq} (h : f (s.plz[p]).seq = g (s.plz[p]).seq) :
    modSeq s p f = modSeq s p g :=
  modPlz_congr (by rw [h])

/-! ### The fill of a slot -/

/-- Another slot of the Plaza holds the segment, or is being filled with it. -/
theorem heldElsewhere_seg_iff (q : Seq) (n : Fin 64) (g : Nat) :
    ((List.finRange 64).any fun k => k != n &&
      (q.slots[k].seg == some g || q.slots[k].filling.map (·.1) == some g)) = true ↔
    ∃ k, k ≠ n ∧ (q.slots[k].seg = some g ∨ q.slots[k].filling.map (·.1) = some g) := by
  simp

/-- Settles O37, by the branches of the rows. -/
theorem sequencerDescriptorsAct : Obligations.SequencerDescriptorsAct := by
  rintro s t u id o d p bs rfl rfl rfl rfl
  refine ⟨fun h ps hps hbs => ⟨fun prog sset hImg hFree => ?_, fun hBad => ?_⟩,
    fun h g n hg hn => ⟨fun hOver => ?_, fun hRoom => ⟨fun hFree => ?_, fun hHeld => ?_⟩⟩,
    fun h n g hn hg => ⟨fun hAct => ?_, fun hRest hBad => ?_, fun hRest hSeg hFree => ?_⟩,
    fun n k rest v w hQ hv => ⟨fun g hFill hw => ?_, fun g i hFill hOther hw => ?_⟩,
    fun h => ⟨fun hMay hIdle hNone => ?_, fun hMay hBusy => ?_, fun hMay => ?_⟩,
    fun h => ⟨fun hRun hLead hIn => ?_, fun hBad => ?_⟩,
    fun h => ⟨fun hFree hIn => ?_, fun hBad => ?_⟩,
    fun h g hg => ⟨fun hFree hIn => ?_, fun hBad => ?_⟩,
    fun h => exec_given h rfl rfl, fun h => exec_given h rfl rfl⟩
  · subst hps hbs
    have hNot : ((plazasOf (BitVec.ofNat 16 (bits (wd o.cur 2) 15 0))).any (runBusy (begun s id))) = false := by
      simpa using hFree
    exact exec_given h rfl (by simp only [hNot, hImg]; rfl)
  · subst hps hbs
    refine exec_given h rfl ?_
    dsimp only
    split_ifs with hBusy
    · rfl
    · rw [hBad.resolve_right (by simpa using hBusy)]
  · subst hg hn
    exact exec_given h rfl (if_pos hOver)
  · subst hg hn
    refine exec_given h rfl ((if_neg (Nat.not_lt.2 hRoom)).trans (if_neg ?_))
    simpa using hFree
  · subst hg hn
    refine exec_given h rfl ((if_neg (Nat.not_lt.2 hRoom)).trans (if_pos ?_))
    simpa using hHeld
  · subst hg hn
    exact exec_given h rfl (if_pos hAct)
  · subst hg hn
    refine exec_given h rfl ((if_neg (ne_true_of_eq_false hRest)).trans (if_pos ?_))
    rw [Bool.or_eq_true, decide_eq_true_iff]
    exact hBad.imp_right (heldElsewhere_seg_iff _ _ _).2
  · subst hg hn
    refine exec_given h rfl ((if_neg (ne_true_of_eq_false hRest)).trans ((if_neg ?_).trans (modSeq_congr rfl)))
    rw [Bool.or_eq_true, decide_eq_true_iff, not_or]
    refine ⟨Nat.not_le.2 hSeg, fun hAny => ?_⟩
    obtain ⟨k, hk, hHeld⟩ := (heldElsewhere_seg_iff _ _ _).1 hAny
    exact hHeld.elim (hFree k hk).1 (hFree k hk).2
  · subst hv hw
    simp [-Fin.getElem_fin, exec, execSegFillDone, hQ, hFill]
  · subst hv hw
    simp [-Fin.getElem_fin, exec, execSegFillDone, hQ, hFill, hOther]
  · exact exec_given h rfl ((if_neg (by simp [hMay])).trans (if_pos (by simp [-Fin.getElem_fin, hIdle, hNone])))
  · refine exec_given h rfl ((if_neg (by simp [hMay])).trans (if_neg ?_))
    simpa [imp_iff_not_or] using hBusy
  · exact exec_given h rfl (if_pos (by simp [hMay]))
  · exact exec_given h rfl (if_neg (by simp [-Fin.getElem_fin, hRun, hLead, hIn]))
  · exact exec_given h rfl (if_pos (by simpa [or_assoc] using hBad))
  · exact exec_given h rfl (if_neg (by simp [hFree, hIn]))
  · exact exec_given h rfl (if_pos (by simpa using hBad))
  · subst hg
    exact exec_given h rfl (if_neg (by simpa [hFree] using hIn))
  · subst hg
    exact exec_given h rfl (if_pos (by simpa using hBad))

end Sys2Proof.Machine
end

section
/-! SUPPORT. The proofs of the statements about instructions (05_sequencer, Table SEQ-3): the row of an instruction
where it may begin. -/

namespace Sys2Proof.Machine

/-! ### An instruction that begins -/

/-- The row of the instruction at the program counter, where it may begin and no patch overlays its routine. -/
theorem runInstr_begins {s : State} {p : Fin 16} {opn : Nat} (f : State → BitVec 64 → State)
    (hBegin : canBegin s p = true) (hOp : opOf (instrAt (s.plz[p]) (s.plz[p]).run.pc) = opn)
    (hRom : inRom s opn = true) :
    runInstr s p opn f = f (modRun s p fun r => { r with lastPc := r.pc }) (instrAt (s.plz[p]) (s.plz[p]).run.pc) :=
  if_pos (by simp [-Fin.getElem_fin, hBegin, hOp, hRom])

/-- A command whose row is `runInstr`, where its instruction begins. -/
theorem exec_begins {c : Instr} {s n t : State} {p : Fin 16} {i : BitVec 64} {opn : Nat} {f : State → BitVec 64 → State}
    (hBegin : canBegin s p = true) (hi : i = instrAt (s.plz[p]) (s.plz[p]).run.pc) (hRom : inRom s (opOf i) = true)
    (hn : n = modRun s p fun r => { r with lastPc := r.pc }) (hOp : opOf i = opn)
    (hExec : exec c s = .next (runInstr s p opn f)) (ht : f n i = t) : exec c s = .next t := by
  subst hi hn hOp
  rw [hExec, runInstr_begins f hBegin rfl hRom, ht]

theorem modPlz_at (s : State) (p : Fin 16) (f : Plaza → Plaza) : (modPlz s p f).plz[p] = f s.plz[p] := by
  simp [modPlz]

theorem modRun_run (s : State) (p : Fin 16) (f : Run → Run) : ((modRun s p f).plz[p]).run = f (s.plz[p]).run := by
  rw [modRun, modPlz_at]

/-- Settles O39: each row is `runInstr`, and its branches. -/
theorem flowInstructionsMoveTheProgram : Obligations.FlowInstructionsMoveTheProgram := by
  rintro s n p i r rfl hBegin hi hRom hn
  have hRun : (n.plz[p]).run = { (s.plz[p]).run with lastPc := (s.plz[p]).run.pc } := by rw [hn, modRun_run]
  refine ⟨fun hOp => ⟨fun hCheck => ?_, fun hCheck => ?_, fun hCheck => ?_, fun segs hCheck => ?_⟩,
    fun hOp => ⟨fun hNone => ?_, fun l rest hLoops => ⟨fun hOther => ?_, fun hOwn hLast => ?_, fun hOwn hMore => ?_⟩⟩,
    fun hOp => ⟨fun hRoom => ?_, fun hFull => ?_⟩,
    fun hOp => ⟨fun hNone => ?_, fun c rest hCalls => ⟨fun hFew => ?_, fun hEnough => ?_⟩⟩, fun hOp => ?_,
    fun hOp => ⟨fun hIss => ?_, fun hNone hNot => ?_, fun hNone hHolds => ?_⟩, fun hOp => ?_⟩ <;>
    refine exec_begins hBegin hi hRom hn hOp rfl ?_
  · simp only [hCheck]
  · simp only [hCheck]
  · simp only [hCheck]
  · simp only [hCheck, hRun]
  · simp only [hRun, hNone]
  · simp only [hRun, hLoops]
    exact if_pos hOther
  · simp only [endLoop, hRun, hLoops, if_pos hLast]
    exact if_neg (not_not.2 hOwn)
  · simp only [endLoop, hRun, hLoops, if_neg (Nat.not_le.2 hMore)]
    exact if_neg (not_not.2 hOwn)
  · simp only [pushCall, hRun]
    exact if_neg (Nat.not_le.2 hRoom)
  · simp only [pushCall, hRun]
    exact if_pos hFull
  · simp only [popCall, hRun, hNone]
  · simp only [popCall, hRun, hCalls, if_pos hFew]
  · simp only [popCall, hRun, hCalls, if_neg (Nat.not_lt.2 hEnough)]
  · rfl
  · simp only [hRun]
    exact if_pos hIss
  · simp only [hRun, hNone, hNot, matchFire]
    rfl
  · simp only [hRun, hNone, hHolds, matchFire]
    rfl
  · rfl

/-! ### Instructions of the stream -/

/-- No instruction begins while one waits to issue. -/
theorem issue_none_of_canBegin {s : State} {p : Fin 16} (h : canBegin s p = true) : (s.plz[p]).run.issue = none := by
  simp only [canBegin, Bool.and_eq_true, Option.isNone_iff_eq_none, and_assoc] at h
  exact h.2.2.1

/-- A change of the control store's registers leaves whether an instruction may begin. -/
theorem canBegin_modUc {s : State} {p : Fin 16} {f : Uc → Uc} (hBusy : (f (s.plz[p]).uc).busy = (s.plz[p]).uc.busy)
    (hWait : (f (s.plz[p]).uc).wait = (s.plz[p]).uc.wait) : canBegin (modUc s p f) p = canBegin s p := by
  simp only [canBegin, shadowFull, shadowIss, entryPeriod, recPeriod, recAt, instrAt, modUc, modPlz_at, hBusy, hWait] <;> rfl

/-- A VEC that begins leaves VADDR in K0 and COUNT in K1. -/
theorem loadVec_begins {s : State} {p : Fin 16} (hBegin : canBegin s p = true)
    (hOp : opOf (instrAt (s.plz[p]) (s.plz[p]).run.pc) = 1) (hRom : inRom s 1 = true) :
    loadVec s p = modUc s p fun u => { u with
      k := (u.k.set 0 (BitVec.ofNat 32 (iVaddr (instrAt (s.plz[p]) (s.plz[p]).run.pc)))).set 1
        (BitVec.ofNat 32 (iCount (instrAt (s.plz[p]) (s.plz[p]).run.pc))) } :=
  if_pos (by simp [-Fin.getElem_fin, issue_none_of_canBegin hBegin, hBegin, hOp, hRom])

/-- A VEC or RPT that begins issues its vectors. -/
theorem issueRow_begins {s : State} {p : Fin 16} {opn : Nat} (rpt : Bool) (hBegin : canBegin s p = true)
    (hOp : opOf (instrAt (s.plz[p]) (s.plz[p]).run.pc) = opn) (hRom : inRom s opn = true) :
    issueRow s p opn rpt = noteMiss (issueAll (modRun (modRun s p fun r => { r with lastPc := r.pc }) p fun r =>
      { r with issue := some { vaddr := iVaddr (instrAt (s.plz[p]) (s.plz[p]).run.pc),
                               count := iCount (instrAt (s.plz[p]) (s.plz[p]).run.pc) + 1, rpt := rpt,
                               instr := true } }) p) p := by
  unfold issueRow
  rw [issue_none_of_canBegin hBegin, if_neg (by simp), runInstr_begins _ hBegin hOp hRom]

/-- Settles O40: the rows are `issueRow` and `runInstr`, and their branches. -/
theorem streamInstructionsIssue : Obligations.StreamInstructionsIssue := by
  rintro s n p i hi hn
  refine ⟨fun hIssue => ⟨?_, congrArg _ (if_pos hIssue)⟩, fun hBegin hRom => ⟨fun f x hf hx hOp => ?_,
    fun hOp => ⟨fun hReady => ?_, fun hMiss => ?_⟩, fun hOp => ⟨fun hReady => ?_, fun hMiss => ?_⟩, fun x hx hOp => ?_⟩⟩
  · have hLoad : loadVec s p = s := if_neg (by simp [-Fin.getElem_fin, Option.isSome_iff_ne_none.1 hIssue])
    exact congrArg _ ((congrArg (fun s => issueRow s p 1 false) hLoad).trans (if_pos hIssue))
  · rw [hOp] at hRom
    simp only [List.mem_cons, List.not_mem_nil, or_false] at hx
    rcases hx with rfl | rfl
    · have hAt : instrAt ((modUc s p f).plz[p]) ((modUc s p f).plz[p]).run.pc = i := by
        rw [modUc, modPlz_at]
        exact hi.symm
      have hLoad : loadVec s p = modUc s p f := by
        subst hi hf
        exact loadVec_begins hBegin hOp hRom
      have hStill : canBegin (modUc s p f) p = true := by
        rwa [canBegin_modUc (by rw [hf]) (by rw [hf])]
      have hVec := issueRow_begins false hStill (hAt ▸ hOp) hRom
      rw [hAt] at hVec
      exact congrArg _ ((congrArg (fun s => issueRow s p 1 false) hLoad).trans hVec)
    · subst hi
      exact congrArg _ (issueRow_begins true hBegin hOp hRom)
  · exact exec_begins hBegin hi hRom hn hOp rfl (if_pos hReady)
  · exact exec_begins hBegin hi hRom hn hOp rfl (if_neg (ne_true_of_eq_false hMiss))
  · exact exec_begins hBegin hi hRom hn hOp rfl (if_pos hReady)
  · exact exec_begins hBegin hi hRom hn hOp rfl (if_neg (ne_true_of_eq_false hMiss))
  · simp only [List.mem_cons, List.not_mem_nil, or_false] at hx
    rcases hx with rfl | rfl | rfl | rfl <;> exact exec_begins hBegin hi hRom hn hOp rfl rfl

end Sys2Proof.Machine
end

section
/-! SUPPORT. The proof of the statement about runs (05_sequencer): what changes of a Plaza leave of its run, its
sequencer and the operation table. -/

namespace Sys2Proof.Machine

/-! ### Fields of a Plaza -/

/-- A change of Plaza q that leaves a field leaves it on every Plaza. -/
theorem modPlz_leaves {β : Type} (π : Plaza → β) {f : Plaza → Plaza} (h : ∀ P, π (f P) = π P) (s : State) (p q : Fin 16) :
    π (modPlz s q f).plz[p] = π s.plz[p] := by
  simp only [modPlz_plz, Fin.getElem_fin, upd_get]
  split_ifs with hpq
  · subst hpq
    exact h _
  · rfl

@[simp] theorem modSeq_run (s : State) (p q : Fin 16) (f : Seq → Seq) :
    ((modSeq s q f).plz[p]).run = (s.plz[p]).run := modPlz_leaves (·.run) (by intros; rfl) s p q
@[simp] theorem modCap_run (s : State) (p q : Fin 16) (f : Cap → Cap) :
    ((modCap s q f).plz[p]).run = (s.plz[p]).run := modPlz_leaves (·.run) (by intros; rfl) s p q
@[simp] theorem modUc_run (s : State) (p q : Fin 16) (f : Uc → Uc) :
    ((modUc s q f).plz[p]).run = (s.plz[p]).run := modPlz_leaves (·.run) (by intros; rfl) s p q
@[simp] theorem modCap_seq (s : State) (p q : Fin 16) (f : Cap → Cap) :
    ((modCap s q f).plz[p]).seq = (s.plz[p]).seq := modPlz_leaves (·.seq) (by intros; rfl) s p q
@[simp] theorem modRun_seq (s : State) (p q : Fin 16) (f : Run → Run) :
    ((modRun s q f).plz[p]).seq = (s.plz[p]).seq := modPlz_leaves (·.seq) (by intros; rfl) s p q
@[simp] theorem modSeq_tim (s : State) (p q : Fin 16) (f : Seq → Seq) :
    ((modSeq s q f).plz[p]).tim = (s.plz[p]).tim := modPlz_leaves (·.tim) (by intros; rfl) s p q

theorem modSeq_seq (s : State) (p : Fin 16) (f : Seq → Seq) : ((modSeq s p f).plz[p]).seq = f (s.plz[p]).seq := by
  rw [modSeq, modPlz_at]

/-! ### The fill of a shadow -/

/-- A change of the sequencer that leaves its slots leaves what a shadow has issued. -/
theorem shadowIss_modSeq {s : State} {p : Fin 16} {f : Seq → Seq} (h : (f (s.plz[p]).seq).slots = (s.plz[p]).seq.slots)
    (t : MatchTest) : shadowIss (modSeq s p f) p t = shadowIss s p t := by
  simp only [shadowIss, entryPeriod, recPeriod, recAt, slotOf, modSeq_run, modSeq_tim, modSeq_seq, h]

/-- Hold vectors to fill a shadow of n vectors and ps picoseconds at a period (R173, R175). -/
def fillCount (n ps per : Nat) : Nat := max (4 - n) ((40000 - ps + per - 1) / max per 1)

theorem fillCount_enough (n ps per : Nat) (h : 0 < per) :
    4 ≤ n + fillCount n ps per ∧ 40000 ≤ ps + fillCount n ps per * per := by
  have hVec : 4 - n ≤ fillCount n ps per := le_max_left _ _
  have hTime : (40000 - ps + per - 1) / per ≤ fillCount n ps per := by
    have hPer : max per 1 = per := max_eq_left h
    rw [fillCount, hPer]
    exact le_max_right _ _
  have hMul := Nat.mul_le_mul_right per hTime
  have hDiv := Nat.div_add_mod (40000 - ps + per - 1) per
  have hMod := Nat.mod_lt (40000 - ps + per - 1) h
  rw [Nat.mul_comm] at hDiv
  omega

theorem fillShadow_due {s : State} {p : Fin 16} {t : MatchTest} (hDue : fillDue s p = true)
    (hTest : (s.plz[p]).run.test = some t) : fillShadow s p =
      modRun (modSeq s p fun q => { q with short := true }) p fun r => { r with
        fifo := [{ id := r.nextId, vaddr := 0, hold := true,
                   reps := fillCount (shadowIss s p t).1 (shadowIss s p t).2 (recPeriod s p (s.plz[p]).seq.holdVec) }],
        holdRec := (s.plz[p]).seq.holdVec, lastIss := some r.nextId, nextId := r.nextId + 1, short := true } := by
  unfold fillShadow
  rw [if_neg (by simp [hDue])]
  simp only [modSeq_run, hTest, Option.map_some, Option.getD_some, shadowIss_modSeq (f := fun q => { q with short := true }) rfl]
  rfl

/-! ### The entry to HOLD, and a path that starts -/

/-- Where a run stands: its program counter, its pipe, its levels and its jump request. -/
def Run.course (r : Run) : BitVec 16 × Option JumpReq × Option Entry × List Entry × List LoopLvl × List CallLvl :=
  (r.pc, r.jump, r.cur, r.fifo, r.loops, r.calls)

theorem holdStales_keeps {β : Type} (π : State → β) (h : ∀ s q f, π (modCap s q f) = π s) (s : State) (p : Fin 16) :
    π ((setOf s p).foldl (fun s q => modCap s q fun c => { c with holdStale := (s.plz[q]).tim.stale }) s) = π s :=
  foldl_keeps π (by intros; exact h _ _ _) _ _

theorem enterHold_eq (s : State) (p : Fin 16) : ∃ u h, enterHold s p = noteMiss (modRun u p fun r =>
      { r with phase := .hold, holdAt := r.cyc.setWidth 48, holdLen := 0, holdRec := h, underrun := true,
               straight := false }) p ∧
    (u.plz[p]).run = (s.plz[p]).run ∧ (u.plz[p]).seq.underrun = true ∧ u.ops = s.ops := by
  refine ⟨_, _, rfl, ?_, ?_, ?_⟩
  · rw [holdStales_keeps (fun s => (s.plz[p]).run) (by intros; exact modCap_run _ _ _ _), modSeq_run]
  · rw [holdStales_keeps (fun s => (s.plz[p]).seq) (by intros; exact modCap_seq _ _ _ _), modSeq_seq]
  · exact holdStales_keeps State.ops (by intros; rfl) _ p

/-- Noting a missing segment sets SET_MISS alone. -/
theorem noteMiss_run (s : State) (p : Fin 16) :
    (((noteMiss s p).plz[p]).run = (s.plz[p]).run ∨
      ((noteMiss s p).plz[p]).run = { (s.plz[p]).run with setMiss := true }) ∧
    ((noteMiss s p).plz[p]).seq.underrun = (s.plz[p]).seq.underrun ∧ (noteMiss s p).ops = s.ops := by
  unfold noteMiss
  split_ifs
  · rw [modRun_run, modRun_seq, modSeq_run, modSeq_seq]
    exact ⟨.inr rfl, rfl, rfl⟩
  · exact ⟨.inl rfl, rfl, rfl⟩

/-- HOLD keeps where the run stands, and the operation table. -/
theorem enterHold_run (s : State) (p : Fin 16) :
    ((enterHold s p).plz[p]).run.phase = .hold ∧ ((enterHold s p).plz[p]).run.underrun = true ∧
    ((enterHold s p).plz[p]).seq.underrun = true ∧ ((enterHold s p).plz[p]).run.course = (s.plz[p]).run.course ∧
    (enterHold s p).ops = s.ops := by
  obtain ⟨u, h, hEq, hRun, hSeq, hOps⟩ := enterHold_eq s p
  obtain ⟨hMiss, hMissSeq, hMissOps⟩ := noteMiss_run (modRun u p fun r =>
    { r with phase := .hold, holdAt := r.cyc.setWidth 48, holdLen := 0, holdRec := h, underrun := true,
             straight := false }) p
  rw [hEq, hMissSeq, hMissOps, modRun_seq, hSeq]
  rw [modRun_run, hRun] at hMiss
  refine ⟨?_, ?_, rfl, ?_, hOps⟩ <;> rcases hMiss with hMiss | hMiss <;> rw [hMiss] <;> rfl

/-- A path that starts goes on where the run stands. -/
theorem startPath_course (s : State) (p : Fin 16) :
    ((startPath s p).plz[p]).run.course = (s.plz[p]).run.course := by
  obtain ⟨-, -, -, hHold, -⟩ := enterHold_run s p
  unfold startPath
  dsimp only
  split_ifs
  · rfl
  · rw [modRun_run]
    rfl
  · exact hHold

/-- After a jump request the run stands at its target, with nothing in its pipe and no level. -/
theorem takeJump_course (s : State) (p : Fin 16) (j : JumpReq) :
    ((takeJump s p j).plz[p]).run.course = (j.target, none, none, [], [], []) := by
  unfold takeJump
  rw [startPath_course, modRun_run, dropPipe, modUc_run, modRun_run, popAll, modUc_run, modRun_run]
  rfl

/-! ### What is due at the next cycle start -/

/-- Nothing plays where the run is not on or something is due first. -/
theorem playNext_due {s : State} {p : Fin 16} (pins : List PinWave) (h : (s.plz[p]).run.on = false ∨
    testDue (s.plz[p]).run = true ∨ waitDue (s.plz[p]).run = true ∨ jumpDue (s.plz[p]).run = true) :
    playNext s p pins = s :=
  if_pos (by simpa [or_assoc] using h)

/-- In HOLD a hold vector plays unless the end of HOLD is due. -/
theorem playNext_hold {s : State} {p : Fin 16} (pins : List PinWave) (hOn : (s.plz[p]).run.on = true)
    (hTest : testDue (s.plz[p]).run = false) (hWait : waitDue (s.plz[p]).run = false)
    (hJump : jumpDue (s.plz[p]).run = false) (hHold : (s.plz[p]).run.phase = .hold) :
    playNext s p pins = if holdOver s p then s else playHold s p pins :=
  (if_neg (by simp [-Fin.getElem_fin, hOn, hTest, hWait, hJump])).trans (if_pos hHold)

theorem holdOver_eq_true_iff {s : State} {p : Fin 16} :
    holdOver s p = true ↔ (s.plz[p]).run.holdLen ≠ 0 ∧ canPlay s p = true := by
  simp [-Fin.getElem_fin, holdOver]

theorem holdOver_eq_false {s : State} {p : Fin 16} (h : (s.plz[p]).run.holdLen = 0 ∨ canPlay s p = false) :
    holdOver s p = false := by
  refine Bool.eq_false_iff.2 fun hOver => ?_
  obtain ⟨hLen, hCan⟩ := holdOver_eq_true_iff.1 hOver
  exact h.elim hLen fun hNot => by simp [hCan] at hNot

/-- A cycle is played where the run is on and nothing is due before it. -/
theorem playNext_on {s : State} {p : Fin 16} {r : Run} (pins : List PinWave) (hr : r = (s.plz[p]).run) (hOn : r.on = true)
    (hTest : testDue r = false) (hWait : waitDue r = false) (hJump : jumpDue r = false) (hHold : r.phase ≠ .hold)
    {f : State} {q : Run} (hf : f = fillShadow s p) (hq : q = (f.plz[p]).run) :
    (∀ e, q.cur = some e ∨ (q.cur = none ∧ q.fifo.head? = some e) → playNext s p pins = playEntry f p e pins) ∧
    (q.cur = none → q.fifo = [] → (∀ w, q.waitm = some w → playNext s p pins = playWait f p w pins) ∧
      (∀ y, q.waitm = none → q.sync = some y → y.ready = false → playNext s p pins = playSync f p y pins) ∧
      (q.waitm = none → (∀ y ∈ q.sync, y.ready = true) → playNext s p pins = s)) := by
  subst hr hf hq
  have hNone : ¬(!((s.plz[p]).run.on) || testDue (s.plz[p]).run || waitDue (s.plz[p]).run || jumpDue (s.plz[p]).run) = true := by
    simp [-Fin.getElem_fin, hOn, hTest, hWait, hJump]
  unfold playNext
  simp only [if_neg hNone, if_neg hHold]
  refine ⟨fun e he => ?_, fun hCur hFifo => ⟨fun w hw => ?_, fun y hw hy hNot => ?_, fun hw hy => ?_⟩⟩
  · rcases he with he | ⟨hCur, he⟩
    · simp only [he, Option.orElse_some]
    · simp only [hCur, he, Option.orElse_none]
  · simp only [hCur, hFifo, hw, List.head?_nil, Option.orElse_none]
  · simp only [hCur, hFifo, hw, hy, hNot, List.head?_nil, Option.orElse_none, Bool.false_eq_true, if_false]
  · cases hs : ((fillShadow s p).plz[p]).run.sync with
    | none => simp only [hCur, hFifo, hw, List.head?_nil, Option.orElse_none]
    | some y =>
      have hReady : y.ready = true := hy y hs
      simp only [hCur, hFifo, hw, hReady, List.head?_nil, Option.orElse_none, if_true]

/-! ### The rows of a run -/

theorem exec_vectorPlay {s : State} {p : Fin 16} {ls : List (Fin 1024 × Int)} {xs : List PinStep} {pins : List PinWave}
    (hpins : pins = pinWaves ls xs) : exec (.vectorPlay p ls xs) s = .next (playNext s p pins) := by
  rw [hpins]
  rfl

theorem exec_matchDecision_test {s : State} {p : Fin 16} {m : MatchTest} (hOn : (s.plz[p]).run.on = true)
    (hDue : testDue (s.plz[p]).run = true) (hm : (s.plz[p]).run.test = some m) :
    exec (.matchDecision p) s = .next (decideDue (judgeTo s p m.entry) p) := by
  change execMatchDecision p s = _
  simp [-Fin.getElem_fin, execMatchDecision, hOn, hDue, hm]

theorem exec_matchDecision_wait {s : State} {p : Fin 16} {w : WaitM} (hOn : (s.plz[p]).run.on = true)
    (hTest : testDue (s.plz[p]).run = false) (hDue : waitDue (s.plz[p]).run = true) (hw : (s.plz[p]).run.waitm = some w) :
    exec (.matchDecision p) s = .next (decideWait s p w) := by
  change execMatchDecision p s = _
  simp [-Fin.getElem_fin, execMatchDecision, hOn, hTest, hDue, hw]

theorem exec_jumpTakesEffect {s : State} {p : Fin 16} {j : JumpReq} (hOn : (s.plz[p]).run.on = true)
    (hj : (s.plz[p]).run.jump = some j) (hDue : jumpDue (s.plz[p]).run = true) :
    exec (.jumpTakesEffect p) s = .next (takeJump s p j) := by
  change execJumpTakesEffect p s = _
  simp [-Fin.getElem_fin, execJumpTakesEffect, hOn, hj, hDue]

theorem exec_underrun {s : State} {p : Fin 16} (hRun : (s.plz[p]).run.phase = .running) (hCan : canPlay s p = false)
    (hTest : testDue (s.plz[p]).run = false) (hJump : jumpDue (s.plz[p]).run = false)
    (hEnd : (s.plz[p]).run.ending = none) (hStraight : straightOn s p = false) :
    exec (.underrun p) s = .next (enterHold s p) := by
  change execUnderrun p s = _
  simp [-Fin.getElem_fin, execUnderrun, hRun, hCan, hTest, hJump, hEnd, hStraight]

theorem exec_holdExit (s : State) (p : Fin 16) : exec (.holdExit p) s = .next (
    if (s.plz[p]).run.phase = .hold && holdOver s p then
      modRun (holdGaps s p) p fun r => { r with phase := .running }
    else s) := rfl

theorem exec_holdTimeout (s : State) (p : Fin 16) : exec (.holdTimeout p) s = .next (
    if (s.plz[p]).run.phase = .hold && !canPlay s p && !runsOn s p then endRun s p eUnderrun false else s) := rfl

theorem exec_syncEvent {s : State} {p : Fin 16} {y : SyncW} (hy : (s.plz[p]).run.sync = some y) (hReady : y.ready = true) :
    exec (.syncEvent p) s = .next (if y.micro then endMatch (leaveSync s p y) p (s.plz[p]).uc.m false
      else pcNext (leaveSync s p y) p) := by
  change execSyncEvent p s = _
  simp [-Fin.getElem_fin, execSyncEvent, hy, hReady]

theorem exec_syncTimeout {s : State} {p : Fin 16} {y : SyncW} (hy : (s.plz[p]).run.sync = some y)
    (hReady : y.ready = false) :
    exec (.syncTimeout p) s = .next (if y.micro then endMatch (leaveSync s p y) p (s.plz[p]).uc.m true
      else endProgram (leaveSync s p y) p eTimeout) := by
  change execSyncTimeout p s = _
  simp [-Fin.getElem_fin, execSyncTimeout, hy, hReady]

/-- Settles O38, by what is due on the run. -/
theorem runsPlayHoldAndTurn : Obligations.RunsPlayHoldAndTurn := by
  rintro s p r rfl

  refine ⟨fun hArmed hGo z hz => ?_, fun ls xs pins hpins => ⟨fun hDue => ?_, fun hOn hTest hWait hJump =>
      ⟨fun hHold => ⟨fun hLen hCan => ?_, fun hOver => ?_⟩, fun f q hHold hf hq => ?_⟩⟩,
    fun hNot => if_pos (by simp [hNot]), fun t f hDue hTest hf hPer => ?_,
    fun m f hOn hTest hm hf => ⟨?_, fun n x hn hx => ?_⟩, fun w hOn hTest hWait hw => ?_, fun j hOn hj hDue => ?_,
    fun hRun hCan hTest hJump hEnd hStraight => ?_,
    fun hHold => ⟨fun hLen hCan => ?_, fun hOver => ?_, fun hCan hOn => ?_, fun hOn => ?_⟩,
    fun y hy => ⟨fun hReady => ⟨fun hMicro => ?_, fun hMicro => ?_⟩, fun hReady => ⟨fun hMicro => ?_, fun hMicro => ?_⟩⟩⟩
  · subst hz
    refine congrArg _ (if_neg ?_)
    rw [hArmed]
    simpa [← or_iff_not_imp_left] using hGo
  · rw [exec_vectorPlay hpins, playNext_due pins hDue]
  · rw [exec_vectorPlay hpins, playNext_hold pins hOn hTest hWait hJump hHold, if_pos (holdOver_eq_true_iff.2 ⟨hLen, hCan⟩)]
  · rw [exec_vectorPlay hpins, playNext_hold pins hOn hTest hWait hJump hHold, holdOver_eq_false hOver,
      if_neg Bool.false_ne_true]
  · obtain ⟨hEntry, hIdle⟩ := playNext_on pins rfl hOn hTest hWait hJump hHold hf hq
    rw [exec_vectorPlay hpins]
    refine ⟨fun e he => by rw [hEntry e he], fun hCur hFifo => ?_⟩
    obtain ⟨hW, hY, hN⟩ := hIdle hCur hFifo
    exact ⟨fun w hw => by rw [hW w hw], fun y hw hy hNot => by rw [hY y hw hy hNot], fun hw hy => by rw [hN hw hy]⟩
  · obtain ⟨hVec, hTime⟩ := fillCount_enough (shadowIss s p t).1 (shadowIss s p t).2 _ hPer
    rw [hf, fillShadow_due hDue hTest, modRun_run, modRun_seq, modSeq_run, modSeq_seq]
    exact ⟨_, rfl, hVec, hTime, rfl, rfl⟩
  · rw [exec_matchDecision_test hOn hTest hm, hf]
  · simp [-Fin.getElem_fin, decideDue, hn, hx]
  · exact exec_matchDecision_wait hOn hTest hWait hw
  · have hCourse := takeJump_course s p j
    simp only [Run.course, Prod.mk.injEq] at hCourse
    with_reducible exact ⟨_, exec_jumpTakesEffect hOn hj hDue, hCourse⟩
  · obtain ⟨hPhase, hUnder, hSeq, hCourse, hOps⟩ := enterHold_run s p
    simp only [Run.course, Prod.mk.injEq] at hCourse
    obtain ⟨-, -, -, hFifo, -⟩ := hCourse
    with_reducible
      exact ⟨_, exec_underrun hRun hCan hTest hJump hEnd hStraight, hPhase, hUnder, hSeq, hFifo, hOps⟩
  · rw [exec_holdExit, if_pos (by simp [-Fin.getElem_fin, hHold, holdOver_eq_true_iff.2 ⟨hLen, hCan⟩])]
  · rw [exec_holdExit, if_neg (by simp [holdOver_eq_false hOver])]
  · rw [exec_holdTimeout, if_pos (by simp [-Fin.getElem_fin, hHold, hCan, hOn])]
  · rw [exec_holdTimeout, if_neg (by simpa [-Fin.getElem_fin, hHold, imp_iff_not_or] using hOn)]
  · rw [exec_syncEvent hy hReady, hMicro, if_neg Bool.false_ne_true]
  · rw [exec_syncEvent hy hReady, hMicro, if_pos rfl]
  · rw [exec_syncTimeout hy hReady, hMicro, if_neg Bool.false_ne_true]
  · rw [exec_syncTimeout hy hReady, hMicro, if_pos rfl]

end Sys2Proof.Machine
end

section
/-! SUPPORT. The proof of the statement about microwords (06_control_store, Table UCS-2): the row of a microword where
its word may run. -/

namespace Sys2Proof.Machine

/-! ### A word that runs, or faults -/

@[simp] theorem modRun_uc (s : State) (p q : Fin 16) (f : Run → Run) :
    ((modRun s q f).plz[p]).uc = (s.plz[p]).uc := modPlz_leaves (·.uc) (by intros; rfl) s p q

theorem modUc_uc (s : State) (p : Fin 16) (f : Uc → Uc) : ((modUc s p f).plz[p]).uc = f (s.plz[p]).uc := by
  rw [modUc, modPlz_at]

/-- A word that starts finds the control store in no wait. -/
theorem wait_none_of_canUword {s : State} {p : Fin 16} (h : canUword s p = true) : (s.plz[p]).uc.wait = none := by
  simp only [canUword, canBegin] at h
  split_ifs at h <;> simp only [Bool.and_eq_true, Option.isNone_iff_eq_none] at h <;> simp only [h]

/-- A word in progress belongs to the instruction of its dispatch word. -/
theorem enterUword_busy (s : State) (p : Fin 16) : ((enterUword s p).plz[p]).uc.busy = true := by
  unfold enterUword
  dsimp only
  split_ifs with hBusy
  · exact hBusy
  · rw [modRun_uc, modUc_uc]

/-- A command whose row is `runUword`, where its word may run. -/
theorem exec_uword {c : Instr} {s t : State} {p : Fin 16} {w : Word} {f : State → State} (hCan : canUword s p = true)
    (hParity : parityBad s p (nextUaddr (s.plz[p])) = false) (hLegal : illegalAt s (nextUaddr (s.plz[p])) = false)
    (hLimit : ((enterUword s p).plz[p]).uc.count < ((enterUword s p).plz[p]).uc.limit)
    (hFits : wordFits s (nextUaddr (s.plz[p])) w = true ∧ pathOk (enterUword s p) p w = true ∧
      endFits (enterUword s p) p w = true)
    (hExec : exec c s = .next (runUword s p w f)) (ht : f (enterUword s p) = t) : exec c s = .next t := by
  obtain ⟨hWord, hPath, hEnd⟩ := hFits
  rw [hExec, ← ht]
  simp [-Fin.getElem_fin, runUword, hCan, hParity, hLegal, hLimit, hWord, hPath, hEnd]

/-- A word of the patch RAM whose parity is wrong faults, whatever it is. -/
theorem runUword_parity {s : State} {p : Fin 16} (w : Word) (f : State → State) (hCan : canUword s p = true)
    (hParity : parityBad s p (nextUaddr (s.plz[p])) = true) : runUword s p w f = uFault s p fcUcodeParity := by
  simp [-Fin.getElem_fin, runUword, hCan, hParity]

theorem runUword_illegal {s : State} {p : Fin 16} (w : Word) (f : State → State) (hCan : canUword s p = true)
    (hParity : parityBad s p (nextUaddr (s.plz[p])) = false) (hIllegal : illegalAt s (nextUaddr (s.plz[p])) = true)
    (hLimit : ((enterUword s p).plz[p]).uc.count < ((enterUword s p).plz[p]).uc.limit) :
    runUword s p w f = uFault (enterUword s p) p fcUcodeIllegal := by
  simp [-Fin.getElem_fin, runUword, hCan, hParity, hIllegal, hLimit]

/-! ### Rows that may go on with a wait -/

/-- What an ISS does once its entries are on their way. -/
def issEnd (p : Fin 16) (h : UHdr) (t : State) : State :=
  if (t.plz[p]).run.issue = none then endUword t p h else modUc t p fun u => { u with wait := some h }

theorem exec_iss_fresh {s : State} {p : Fin 16} (h : UHdr) (a b : Fin 8) (burst : Bool)
    (hWait : (s.plz[p]).uc.wait = none) : exec (.iss p h a b burst) s = .next (
      runUword s p (uword h 4 (at_ 21 a.val + at_ 18 b.val + at_ 17 (b2n burst))) fun s => issEnd p h (issueAll (modRun s p
        fun r => { r with issue := some { vaddr := (kReg s p a).toNat % 2 ^ 31, count := (kReg s p b).toNat + 1,
                                          rpt := !burst, instr := false } }) p)) := by
  refine congrArg _ ((if_neg (by simp [-Fin.getElem_fin, hWait])).trans (congrArg (runUword s p _) (funext fun t => ?_)))
  dsimp only
  generalize issueAll _ p = u
  unfold issEnd
  cases (u.plz[p]).run.issue <;> rfl

theorem exec_lchk_fresh {s : State} {p : Fin 16} (h : UHdr) (a b : Fin 8) (hWait : (s.plz[p]).uc.wait = none) :
    exec (.lchk p h a b) s = .next (runUword s p (uword h 7 (at_ 21 a.val + at_ 18 b.val)) fun s => lchkStep s p h a b) := by
  simp [-Fin.getElem_fin, exec, execLchk, hWait]

/-- Every row of a microword is `runUword` where a word may start. -/
theorem exec_isUword {s : State} {p : Fin 16} {h : UHdr} {c : Instr} {d a b f : Fin 8} {k : Fin 16} {hi lo : Fin 64}
    {v : BitVec 16} {g : BitVec 12} {m : Fin 4} {x : Bool} {e : BitVec 8} (hCan : canUword s p = true)
    (hc : c ∈ [Instr.microNop p h, .fld p h d hi lo, .imm p h d v, .alu p h d a b f, .iss p h a b x, .act p h k a,
      .stk p h k a b d, .lchk p h a b, .br p h k g, .pcUpd p h m a, .mtch p h a b d x, .syn p h a b d, .trap p h e,
      .endRun p h e]) : ∃ w f, exec c s = .next (runUword s p w f) := by
  have hWait := wait_none_of_canUword hCan
  simp only [List.mem_cons, List.not_mem_nil, or_false] at hc
  rcases hc with rfl | rfl | rfl | rfl | rfl | rfl | rfl | rfl | rfl | rfl | rfl | rfl | rfl | rfl
  case inr.inr.inr.inr.inl => exact ⟨_, _, exec_iss_fresh h a b x hWait⟩
  case inr.inr.inr.inr.inr.inr.inr.inl => exact ⟨_, _, exec_lchk_fresh h a b hWait⟩
  all_goals exact ⟨_, _, rfl⟩

/-! ### What the words do -/

theorem aluOf_of_mem {s : State} {fn : Fin 8} {x y v : Word}
    (h : (fn, v) ∈ [((0 : Fin 8), x + y), (1, x - y), (2, x &&& y), (3, x ||| y), (6, x - 1), (7, x + 1)] ∨
      (y.toNat < 32 ∧ (fn, v) ∈ [((4 : Fin 8), x <<< y.toNat), (5, x >>> y.toNat)])) : aluOf s fn x y = (v, s) := by
  simp only [List.mem_cons, List.not_mem_nil, or_false, Prod.mk.injEq] at h
  rcases h with (⟨rfl, rfl⟩ | ⟨rfl, rfl⟩ | ⟨rfl, rfl⟩ | ⟨rfl, rfl⟩ | ⟨rfl, rfl⟩ | ⟨rfl, rfl⟩) |
    ⟨hy, ⟨rfl, rfl⟩ | ⟨rfl, rfl⟩⟩
  case inr.inl => exact if_pos hy
  case inr.inr => exact if_pos hy
  all_goals rfl

/-- A shift by 32 or more has a free result. -/
theorem aluOf_shift_far {s : State} {fn : Fin 8} {x y : Word} (hy : 32 ≤ y.toNat) (h : fn = 4 ∨ fn = 5) :
    aluOf s fn x y = takeFree s 32 := by
  rcases h with rfl | rfl <;> exact if_neg (Nat.not_lt.2 hy)

theorem uCond_illegal (u : Uc) {c : Nat} (h : 8 ≤ c) : uCond u c = none := by
  obtain ⟨i, rfl⟩ := Nat.exists_eq_add_of_le' h
  rfl

/-- Settles O41: each row is `runUword`, and its branches. -/
theorem microwordsActOnTheirPlaza : Obligations.MicrowordsActOnTheirPlaza := by
  rintro s n p h u hCan rfl rfl fits hfits
  have hWait := wait_none_of_canUword hCan
  have hCur : curInstr ((enterUword s p).plz[p]) =
      instrAt ((enterUword s p).plz[p]) ((enterUword s p).plz[p]).run.lastPc := by
    rw [curInstr, if_pos (enterUword_busy s p)]
  refine ⟨fun hParity hLegal hLimit => ?_, fun d a b f k hi lo v g m x e c hc => ?_, fun hBusy hOver => ?_, fun hPage => ?_,
    fun t a b x => ⟨fun hw hIssue => ?_, fun hw hIssue hTest hWm hSync hFits => ?_⟩⟩
  · have hRun {c : Instr} {w : Word} {f : State → State} {t : State} (hw : fits w)
        (hExec : exec c s = .next (runUword s p w f)) (ht : f (enterUword s p) = t) : exec c s = .next t :=
      exec_uword hCan hParity hLegal hLimit ((hfits w).1 hw) hExec ht
    refine ⟨fun hw => hRun hw rfl rfl, fun dst hi lo hw => ⟨fun hOrder hLen => ?_, fun hBad => ?_⟩,
      fun dst v hw => hRun hw rfl rfl, fun dst a b fn x y hx hy hw => ⟨fun v hv => ?_, fun v t hFar hfn ht => ?_⟩,
      fun a b burst t hw ht => ⟨fun hNone => ?_, fun hSome => ?_⟩,
      fun kind a v hv hw => ⟨fun x hx => ?_, fun hKind => ?_⟩,
      fun kind a b dst hw => ⟨fun hKind hRoom => ?_, fun hKind hFull => ?_, fun hKind => ?_, fun hKind => ?_,
        fun hKind => ?_, fun hKind => ?_, fun hKind => ?_⟩,
      fun a b hw => hRun hw (exec_lchk_fresh h a b hWait) rfl,
      fun c target hw => ⟨fun hc => ?_, fun hc => ?_, fun hc => ?_⟩,
      fun mode a hw => ⟨fun pc hpc => ?_, fun hMode => ?_⟩,
      fun a b c => ⟨fun hw hReady => ?_, fun hw hIss => ?_, fun hw hIss t ht => ?_,
        fun hMiss => ⟨fun hw => ?_, fun hw => ?_⟩, fun hw hReady => ?_⟩,
      fun v => ⟨fun hw => hRun hw rfl rfl, fun hw => hRun hw rfl rfl⟩⟩
    · refine hRun hw rfl ((if_neg (by simpa using And.intro hOrder hLen)).trans ?_)
      rw [← hCur]
    · exact hRun hw rfl (if_pos (by simpa using hBad))
    · subst hx hy
      exact hRun hw rfl (by simp only [aluOf_of_mem hv])
    · rw [hy] at hFar
      exact hRun hw rfl (by simp only [aluOf_shift_far hFar hfn, ← ht])
    · subst ht
      exact hRun hw (exec_iss_fresh h a b burst hWait) (if_pos hNone)
    · subst ht
      exact hRun hw (exec_iss_fresh h a b burst hWait) (if_neg hSome)
    · subst hv
      simp only [List.mem_cons, List.not_mem_nil, or_false, Prod.mk.injEq] at hx
      rcases hx with ⟨rfl, rfl⟩ | ⟨rfl, rfl⟩ | ⟨rfl, rfl⟩ | ⟨rfl, rfl⟩ <;> exact hRun hw rfl rfl
    · obtain ⟨i, hi⟩ := Nat.exists_eq_add_of_le' hKind
      exact hRun hw rfl (by simp only [hi])
    · subst hKind
      exact hRun hw rfl (if_neg (Nat.not_le.2 hRoom))
    · subst hKind
      exact hRun hw rfl (if_pos hFull)
    · subst hKind
      exact hRun hw rfl rfl
    · subst hKind
      exact hRun hw rfl rfl
    · subst hKind
      exact hRun hw rfl rfl
    · subst hKind
      exact hRun hw rfl rfl
    · obtain ⟨i, hi⟩ := Nat.exists_eq_add_of_le' hKind
      exact hRun hw rfl (by simp only [hi])
    · exact hRun hw rfl (by simp [-Fin.getElem_fin, hc])
    · exact hRun hw rfl (by simp [-Fin.getElem_fin, hc])
    · exact hRun hw rfl (by simp only [uCond_illegal _ hc])
    · simp only [List.mem_cons, List.not_mem_nil, or_false, Prod.mk.injEq] at hpc
      rcases hpc with ⟨rfl, rfl⟩ | ⟨rfl, rfl⟩ | ⟨rfl, rfl⟩ <;> exact hRun hw rfl rfl
    · subst hMode
      exact hRun hw rfl rfl
    · exact hRun hw rfl (if_pos hReady)
    · exact hRun hw rfl (if_pos hIss)
    · subst ht
      have hNot : ¬(((enterUword s p).plz[p]).run.lastIss.isSome = true) := by simp [-Fin.getElem_fin, hIss]
      exact hRun hw rfl (if_neg hNot)
    · exact hRun hw rfl (if_neg (ne_true_of_eq_false hMiss))
    · exact hRun hw rfl (if_neg (ne_true_of_eq_false hMiss))
    · exact hRun hw rfl (if_pos hReady)
  · obtain ⟨w, f, hRow⟩ := exec_isUword hCan hc
    exact ⟨fun hParity => by rw [hRow, runUword_parity w f hCan hParity],
      fun hParity hIllegal hLimit => by rw [hRow, runUword_illegal w f hCan hParity hIllegal hLimit]⟩
  · exact congrArg _ (if_pos (by simp [-Fin.getElem_fin, hBusy, hCan, hOver]))
  · exact congrArg _ (if_pos (by simp [-Fin.getElem_fin, hCan, hPage]))
  · exact congrArg _ (if_pos (by simp [-Fin.getElem_fin, hw, hIssue]))
  · exact congrArg _ (if_pos (by simp [-Fin.getElem_fin, hw, hIssue, hTest, hWm, hSync, hFits]))

end Sys2Proof.Machine
end

section
/-! SUPPORT. The proof of the statement about capture records and test steps (07_capture_verdicts). -/

namespace Sys2Proof.Machine

/-- The arguments of a TRIG_LOAD are in range exactly where its site is there and no channel beyond the Plaza's width
is named. -/
theorem trigArgs_iff (s : State) (d : List Word) : trigArgs s d = true ↔
    ((wd d 4).getLsbD 31 = true ∨ bits (wd d 4) 5 0 < sitesOf s (Fin.ofNat 16 (bits (wd d 2) 3 0))) ∧
      ∀ k < 64, widthOf s (Fin.ofNat 16 (bits (wd d 2) 3 0)) ≤ k →
        bits (BitVec.ofNat 128 (wd64 d 8 + wd64 d 10 * 2 ^ 64)) (2 * k + 1) (2 * k) = 2 := by
  simp [trigArgs, trigOf, imp_iff_not_or]

/-- A MASK_ARM's site lies in its Plaza. -/
theorem maskSiteOk_iff (s : State) (d : List Word) : maskSiteOk s d = true ↔
    bits (wd d 3) 23 16 / 16 = (Fin.ofNat 16 (bits (wd d 2) 3 0) : Fin 16).val ∧
      bits (wd d 3) 23 16 % 16 < sitesOf s (Fin.ofNat 16 (bits (wd d 2) 3 0)) := by
  simp [maskSiteOk]

/-- The test step that a STEP_OPEN opens with limits l. -/
def stepOpened (s : State) (o : Op) (l : List Limit) : TStep :=
  let d := o.cur
  let bs := hostRead s (wd64 d 4) (bits (wd d 6) 15 0)
  let sites := (plazasOf (BitVec.ofNat 16 (bits (wd d 2) 15 0))).flatMap fun p =>
    ((List.range (sitesOf s p)).filter fun j =>
      siteIn (BitVec.ofNat 256 (leNat (bytesOf ((d.drop 7).take 8)))) p j).map fun j => 16 * p.val + j
  { num := BitVec.ofNat 16 (bits (wd d 3) 15 0), ctx := o.ctx, group := (wd d 2).getLsbD 16,
    plazas := BitVec.ofNat 16 (bits (wd d 2) 15 0), since := s.nextZero, limits := l,
    passHard := BitVec.ofNat 8 (numAt bs 6 1), passSoft := BitVec.ofNat 16 (numAt bs 4 2),
    noHard := BitVec.ofNat 8 (numAt bs 10 1), noSoft := BitVec.ofNat 16 (numAt bs 8 2),
    sites := sites.map fun n => { site := n } }

/-- Settles O42, by the branches of the rows. -/
theorem captureRecordsAndStepsProceed : Obligations.CaptureRecordsAndStepsProceed := by
  rintro s t id o d p ps rfl rfl rfl rfl
  refine ⟨fun h c hc => ⟨fun hSome hMode hSites hFq hMq => ?_, fun hBad => ?_⟩,
    fun h pat hpat => ⟨fun hSite hPat => ?_, fun hBad => ?_⟩,
    fun q r rest x hBuf hRing => ⟨fun hFull => ?_, fun hRoom => ?_⟩,
    fun n m x hPend hRing => ⟨fun hFull => ?_, fun hRoom => ?_⟩,
    fun h ls hls => ⟨fun hBad => ?_, fun l hl hSome hOk => ?_⟩,
    fun h => ⟨fun hNone => ?_, fun x hx => ⟨fun hBad => ?_, fun hNum hOpen hCloser => ?_⟩⟩,
    fun h hAfter x hx => ⟨fun hFeeds => ?_, fun vs hNone hvs => ?_⟩,
    fun h ms q hq hms => ⟨fun r xs hBound hRec hData hDone hMeas hTest x hx => ?_, fun hBad => ?_⟩,
    fun h es hes => ⟨fun e he hBound hFree hPlaza hSite => ?_, fun hBad => ?_⟩⟩
  · subst hc
    refine exec_given h rfl (if_neg ?_)
    simpa [and_assoc] using And.intro hSome ⟨hMode, hSites, hFq, hMq⟩
  · subst hc
    refine exec_given h rfl (if_pos ?_)
    simpa [or_assoc] using hBad
  · subst hpat
    exact exec_given h rfl (if_pos ((trigArgs_iff _ _).2 ⟨hSite, hPat⟩))
  · subst hpat
    refine exec_given h rfl (if_neg ?_)
    rw [trigArgs_iff]
    rintro ⟨hSite, hPat⟩
    rcases hBad with ⟨hAny, hFar⟩ | ⟨k, hk, hWide, hNot⟩
    · exact hSite.elim (ne_true_of_eq_false hAny) hFar.not_gt
    · exact hNot (hPat k hk hWide)
  · simp [-Fin.getElem_fin, exec, execFqRecordWrite, hBuf, hRing, hFull]
  · simp [-Fin.getElem_fin, exec, execFqRecordWrite, hBuf, hRing, hRoom]
  · simp [exec, execMqRecordWrite, hPend, hRing, hFull]
  · simp [exec, execMqRecordWrite, hPend, hRing, hRoom]
  · refine exec_given h rfl ?_
    dsimp only
    rw [hls]
    rcases hBad with rfl | hBad
    · rfl
    cases ls with
    | none => rfl
    | some l => exact if_pos (by simpa [Option.isSome_iff_ne_none, or_assoc] using hBad)
  · refine ⟨stepOpened (begun s id) o l, exec_given h rfl ?_, rfl, rfl, rfl, rfl, rfl, rfl, rfl⟩
    dsimp only
    rw [hls, hl]
    refine if_neg ?_
    simpa [Option.isSome_iff_ne_none, and_assoc] using And.intro hSome hOk
  · refine exec_given h rfl ?_
    dsimp only
    rw [hNone]
  · refine exec_given h rfl ?_
    dsimp only
    rw [hx]
    exact if_pos (by simpa [Option.isSome_iff_ne_none] using hBad)
  · refine exec_given h rfl ?_
    dsimp only
    rw [hx]
    exact if_neg (by simp [hNum, hOpen, hCloser])
  · refine exec_running h rfl ((if_neg (by simp [hAfter])).trans ?_)
    dsimp only
    rw [hx]
    exact if_pos (by simpa using hFeeds)
  · subst hvs
    refine exec_running h rfl ((if_neg (by simp [hAfter])).trans ?_)
    dsimp only
    rw [hx]
    exact if_neg (by simpa using hNone)
  · subst hx hq hms
    refine exec_given h rfl ?_
    dsimp only
    rw [hBound, hRec]
    dsimp only
    rw [hData]
    exact if_neg (by simp only [hDone]; simpa [-List.getLastD_eq_getLast?] using ⟨hMeas, hTest⟩)
  · subst hq hms
    refine exec_given h rfl ?_
    dsimp only
    cases hBound : mqsBound o [Fin.ofNat 16 (bits (wd o.cur 2) 7 0 / 16)] with
    | false => rfl
    | true =>
      cases hRec : recOf (begun s id) o.ctx (wd o.cur 5) with
      | none => rfl
      | some r =>
        dsimp only
        cases hData : r.data with
        | stamps ys => rfl
        | samples xs =>
          refine if_pos ?_
          rw [hBound, hRec] at hBad
          simpa [-List.getLastD_eq_getLast?, hData, or_assoc, or_left_comm] using hBad
  · refine exec_given h rfl ?_
    dsimp only
    rw [hBound, hes, he]
    refine if_neg (by rw [hFree, (maskSiteOk_iff _ _).2 ⟨hPlaza, hSite⟩]; decide)
  · refine exec_given h rfl ?_
    dsimp only
    rw [hes]
    cases hBound : mqsBound o [Fin.ofNat 16 (bits (wd o.cur 2) 3 0)] with
    | false => rfl
    | true =>
      cases es with
      | none => rfl
      | some e =>
        refine if_pos ?_
        rw [Bool.or_eq_true, Option.isSome_iff_ne_none, Bool.not_eq_true', ← Bool.not_eq_true, maskSiteOk_iff, not_and_or,
          not_lt]
        simpa [-Fin.ofNat_eq_cast, -Fin.getElem_fin, hBound] using hBad

end Sys2Proof.Machine
end

section
/-! SUPPORT. The proof of the statement about measurements and their records (08_measurement). -/

namespace Sys2Proof.Machine

/-- The conversions that a note of codes takes. -/
theorem noteCodes_eq (s : State) (id : OpId) (codes : List Int) (ev : Bool) : noteCodes s id codes ev = { s with
    dram := { s.dram with
      acqs := s.dram.acqs.map fun a =>
        if a.op = id ∧ ∀ n ∈ codes, acqCode a n = true then
          if ev then (a.take (acqGO s a) codes).eventTrig else a.take (acqGO s a) codes
        else a } } := by
  simp [noteCodes, List.all_eq_true]

/-- What an ACQ_END does to the acquisition it finds. -/
theorem exec_acqEnd {s : State} {id : OpId} {codes : List Int} {why : AcqEndWhy} {a : Acq}
    (ha : (noteCodes s id codes false).dram.acqs.find? (fun a => a.op == id) = some a) :
    exec (.acqEnd id codes why) s = .next (
      if acqEnds (noteCodes s id codes false) a why = true then
        if why = .stopped ∧ a.trigAt = none then killAcq (noteCodes s id codes false) a eAborted
        else acqEndNow (noteCodes s id codes false) a why
      else noteCodes s id codes false) := by
  change execAcqEnd id codes why s = _
  cases hEnds : acqEnds (noteCodes s id codes false) a why <;> simp [execAcqEnd, ha, hEnds]

/-- A TMU_MEAS that has its record begins on a free TMU, and waits for a busy one. -/
theorem exec_tmuMeas {s v : State} {id : OpId} {o : Op} {slot : Nat} (h : Given s id 0x54 o)
    (hOk : (tmuArgs (begun s id) o.cur && (bits (wd o.cur 3) 31 30 == 2 ||
      mqsBound o [Fin.ofNat 16 (bits (wd o.cur 10) 7 0 / 16)])) = true)
    (hAlloc : allocRec (begun s id) o.ctx 2 (16 * tmuGoal o.cur) = some (slot, v)) :
    exec (.tmuMeas id) s = .next (
      let n : Fin 64 := Fin.ofNat 64 (bits (wd o.cur 2) 5 0)
      let w := modOp (modRec v slot fun r =>
        { r with tmu := n.val, chan := 64 * (tmuPlaza n).val + bits (wd o.cur 5) 5 0 }) id
        fun o => { o with aux := slot }
      if (w.tmu[n]).meas.isNone then tmuBegin w n id slot o.cur
      else modTmu w n fun T => { T with queue := enqueue w id T.queue }) := by
  rw [Bool.and_eq_true] at hOk
  refine exec_given h rfl ((if_neg ?_).trans ?_)
  · rw [hOk.1, hOk.2]
    decide
  rw [hAlloc]

/-- Settles O43, by the branches of the rows. -/
theorem measurementsEndWithTheirRecords : Obligations.MeasurementsEndWithTheirRecords := by
  rintro s t id o d rfl rfl
  refine ⟨fun h => ⟨fun hArgs hBound => ?_, fun hBad => ?_⟩, fun h codes hHere hChans hCodes r hr => ?_,
    fun h => ⟨fun hBad => ?_, fun slot v hArgs hAlloc => ?_⟩, fun codes => ?_,
    fun codes why u a hu ha => ⟨fun hNot => ?_, fun hEnds hWhy => ?_, fun hEnds hStopped hTrig => ?_⟩,
    fun h => ⟨fun hNone => ?_, fun r hr => ⟨fun hIn => ?_, fun hOut => ?_⟩⟩,
    fun h r n u hr hn hu => ⟨fun hKeep => ?_, fun hFreeing hLast => ?_⟩,
    fun h => ⟨fun hNone => ?_, fun r hr => ⟨fun hBad => ?_, fun hDone hHeld => ⟨fun hFree => ?_, fun hRead => ?_⟩⟩⟩,
    fun h n k hn hk => ⟨fun hBad => ?_, fun slot v w hOk hAlloc hw => ⟨fun hIdle => ?_, fun hBusy => ?_⟩⟩,
    fun b => rfl, fun n m hm => ⟨fun hArm hRef => ?_, fun x hArm => ?_, fun hArm => ?_⟩⟩
  · exact exec_given h rfl (if_neg (by simp [hArgs, hBound]))
  · exact exec_given h rfl (if_pos (by simpa using hBad))
  · subst hr
    refine exec_running h rfl (if_pos ?_)
    simpa [hChans] using And.intro (by simpa using hHere) hCodes
  · refine exec_given h rfl ?_
    by_cases hArgs : acqArgs (begun s id) o.cur = true
    · refine (if_neg (by simp [hArgs])).trans ?_
      rw [hBad.resolve_left (by simp [hArgs])]
    · exact if_pos (by simpa using hArgs)
  · refine exec_given h rfl ((if_neg (by simp [hArgs])).trans ?_)
    rw [hAlloc]
  · rw [show exec (.acqTrigger id codes) s = .next (noteCodes s id codes true) from rfl, noteCodes_eq]
    rfl
  · have hNote := (noteCodes_eq s id codes false).trans hu.symm
    rw [exec_acqEnd (hNote ▸ ha), hNote, if_neg (by simp [hNot])]
  · have hNote := (noteCodes_eq s id codes false).trans hu.symm
    rw [exec_acqEnd (hNote ▸ ha), hNote, if_pos hEnds, if_neg (by simpa [or_iff_not_imp_left] using hWhy)]
  · have hNote := (noteCodes_eq s id codes false).trans hu.symm
    rw [exec_acqEnd (hNote ▸ ha), hNote, if_pos hEnds, if_pos ⟨hStopped, hTrig⟩]
  · refine exec_given h rfl ?_
    rw [hNone]
  · refine exec_given h rfl ?_
    obtain ⟨n, hn⟩ := Option.ne_none_iff_exists'.1 hIn
    rw [hr]
    dsimp only
    rw [hn]
  · refine exec_given h rfl ?_
    rw [hr]
    dsimp only
    rw [hOut]
  · subst hu
    refine exec_running h rfl ?_
    dsimp only
    rw [hr]
    dsimp only
    rw [hn]
    refine if_neg ?_
    simpa [Option.isSome_iff_ne_none, imp_iff_not_or, or_comm] using hKeep
  · subst hu
    refine exec_running h rfl ?_
    dsimp only
    rw [hr]
    dsimp only
    rw [hn]
    exact if_pos (by simpa [Option.isSome_iff_ne_none] using And.intro hLast hFreeing)
  · refine exec_given h rfl ?_
    rw [hNone]
  · refine exec_given h rfl ?_
    rw [hr]
    exact if_pos (by simpa [Option.isSome_iff_ne_none] using hBad)
  · refine exec_given h rfl ?_
    rw [hr]
    exact (if_neg (by simp [hDone, hHeld])).trans (if_pos (by simp [hFree]))
  · refine exec_given h rfl ?_
    rw [hr]
    exact (if_neg (by simp [hDone, hHeld])).trans (if_neg (by simp [hRead]))
  · subst hn hk
    refine exec_given h rfl ?_
    by_cases hOk : (tmuArgs (begun s id) o.cur && (bits (wd o.cur 3) 31 30 == 2 ||
        mqsBound o [Fin.ofNat 16 (bits (wd o.cur 10) 7 0 / 16)])) = true
    · refine (if_neg ?_).trans ?_
      · rw [Bool.and_eq_true] at hOk
        rw [hOk.1, hOk.2]
        decide
      rw [hBad.resolve_left (by rw [hOk]; decide)]
    · refine if_pos ?_
      rwa [← Bool.not_and, Bool.not_eq_true', ← Bool.not_eq_true]
  · subst hn hk hw
    rw [exec_tmuMeas h hOk hAlloc, if_pos (by rw [hIdle]; rfl)]
  · subst hn hk hw
    rw [exec_tmuMeas h hOk hAlloc, if_neg (by simpa [-Fin.getElem_fin, -Fin.ofNat_eq_cast] using hBusy)]
  · simp [-Fin.getElem_fin, exec, execTmuStampReference, hm, hArm, hRef]
  · simp [-Fin.getElem_fin, exec, execTmuStopEdge, hm, hArm]
  · simp [-Fin.getElem_fin, exec, execTmuMeasDone, hm, hArm]

end Sys2Proof.Machine
end

section
/-! SUPPORT. The proof of the statement about waveform sources (09_waveform). -/

namespace Sys2Proof.Machine

theorem modAwg_congr {s : State} {a : Fin 16} {f g : Awg → Awg} (h : f s.awg[a] = g s.awg[a]) :
    modAwg s a f = modAwg s a g :=
  congrArg (fun A => { s with awg := s.awg.set a A }) h

section PlayEnd

variable {s : State} {a : Fin 16} {g : Fin 256} {off len : Nat}

/-- The end of a play, with the decision point behind it: the play that has ended, its clocks and its last code. -/
theorem exec_awgPlayEnd (hPhase : ((modAwg s a decideNow).awg[a]).run.phase = .playing)
    (hPlay : ((modAwg s a decideNow).awg[a]).run.play = some (g, off, len)) :
    exec (.awgPlayEnd a) s =
      let v := modAwg s a decideNow
      let A := v.awg[a]
      let e := seqEnt A A.run.entry
      let n := A.run.clocks + playClocks len A.run.frac e.step
      let w := (A.run.commit.bind (·.op)).toList.foldl
        (fun s i => finishOp s i stOk [BitVec.ofNat 32 n, BitVec.ofNat 32 (n / 2 ^ 32)]) v
      (nextEntry A).elim
        (.next (awgStop (modAwg w a fun B =>
          { B with run := { B.run with commit := none, jumped := A.run.jumped || A.run.commit.isSome } }) a stOk n
          (lastCode v a)))
        fun i => A.run.pre.elim (.next (awgStop v a eUnderrun n (lastCode v a))) fun x =>
          let u := modAwg (holdCode w a (lastCode v a) false) a fun B =>
            { B with run := { B.run with clocks := n, jumped := A.run.jumped || A.run.commit.isSome } }
          let left := if A.run.commit.isNone && A.run.left != 0 then A.run.left - 1 else (seqEnt A i).rep
          .next (dropJump (playBegin u a i left
            (A.run.frac + playClocks len A.run.frac e.step * e.step - len * 2 ^ 32) false
            ((seqEnt A i).ftw != e.ftw || (seqEnt A i).phase != e.phase) x) (lateStop u.awg[a] i left)) := by
  change execAwgPlayEnd a s = _
  simp only [execAwgPlayEnd, hPhase, hPlay]
  cases nextEntry (modAwg s a decideNow).awg[a] with
  | none => rfl
  | some i => cases ((modAwg s a decideNow).awg[a]).run.pre <;> rfl

end PlayEnd

/-- Settles O44, by the branches of the rows. -/
theorem waveformRunsPlayTheirSequence : Obligations.WaveformRunsPlayTheirSequence := by
  rintro s t id o d a A rfl rfl
  refine ⟨fun ha h r x hr hx => ⟨fun h3 hLo hHi hFs hOk hFree => ?_, fun hBad => ?_⟩,
    fun ha h w off len hw hOff hLen => ⟨fun hBad => ?_, fun ho hl h64 hEnd => ⟨fun hBusy => ?_, fun hSeg hRange => ?_⟩⟩,
    fun ha h => ?_,
    fun ha h n hn => ⟨fun hBad => ?_, fun hFree h0 h1024 es hes => ⟨fun hNone => ?_, fun x hx => ?_⟩⟩,
    fun ha h => ⟨fun hBusy => ?_, fun hFree hReady => ?_, fun hFree hNot => ?_⟩,
    fun ha h => ⟨fun hBusy hTo => ?_, fun hBad => ?_⟩,
    fun hA => ⟨fun hArmed hFired => ⟨fun g hg => ?_, fun hNone => ?_⟩, fun hPlay hOpen => ?_, fun clocks hPlay => ?_⟩,
    fun v w g off len m n c hv hA hPhase hPlay hc hm hn hw => ⟨fun hLast => ?_, fun i hi => ⟨fun hNone => ?_,
      fun x u left hx hu hleft => ?_⟩⟩⟩
  · subst ha hr hx
    refine exec_given h rfl (if_neg ?_)
    simp [-Fin.getElem_fin, h3, hLo.not_gt, hHi.not_gt, hFs.not_gt, hOk, hFree]
  · subst ha hr hx
    refine exec_given h rfl (if_pos ?_)
    simpa [-Fin.getElem_fin, or_assoc] using hBad
  · subst ha hw hOff hLen
    refine exec_given h rfl (if_pos ?_)
    simpa [or_assoc] using hBad
  · subst ha hw hOff hLen
    refine exec_given h rfl ((if_neg ?_).trans (if_pos ?_))
    · simp [ho, hl, h64.not_gt, hEnd.not_gt]
    · simpa [-Fin.getElem_fin] using hBusy
  · subst ha hw hOff hLen
    refine exec_given h rfl ((if_neg ?_).trans (if_neg ?_))
    · simp [ho, hl, h64.not_gt, hEnd.not_gt]
    · simp [-Fin.getElem_fin, -Fin.ofNat_eq_cast, hSeg, hRange]
  · subst ha
    exact exec_running h rfl rfl
  · subst ha hn
    refine exec_given h rfl (if_pos ?_)
    simpa [-Fin.getElem_fin, or_assoc] using hBad
  · subst ha hn
    refine exec_given h rfl ((if_neg ?_).trans ?_)
    · simp [-Fin.getElem_fin, hFree, h0, h1024.not_gt]
    dsimp only
    rw [hes, hNone]
  · subst ha hn
    refine exec_given h rfl ((if_neg ?_).trans ?_)
    · simp [-Fin.getElem_fin, hFree, h0, h1024.not_gt]
    dsimp only
    rw [hes, hx]
  · subst ha
    exact exec_given h rfl (if_pos hBusy)
  · subst ha
    exact exec_given h rfl ((if_neg (ne_true_of_eq_false hFree)).trans (if_pos hReady))
  · subst ha
    exact exec_given h rfl ((if_neg (ne_true_of_eq_false hFree)).trans (if_neg (ne_true_of_eq_false hNot)))
  · subst ha
    refine exec_given h rfl (if_neg ?_)
    simpa [-Fin.getElem_fin, hBusy, or_iff_not_imp_left] using hTo
  · subst ha
    refine exec_given h rfl (if_pos ?_)
    simpa [-Fin.getElem_fin] using hBad
  · subst hA
    simp [-Fin.getElem_fin, exec, execAwgTrigger, hArmed, hFired, hg]
  · subst hA
    simp [-Fin.getElem_fin, exec, execAwgTrigger, hArmed, hFired, hNone]
  · subst hA
    refine (if_pos ⟨hPlay, by simp [-Fin.getElem_fin, hOpen]⟩).trans (congrArg _ (modAwg_congr ?_))
    simp [-Fin.getElem_fin, decideNow, hPlay, hOpen]
  · subst hA
    exact if_pos hPlay
  · subst hv hA hc hm hn hw
    rw [exec_awgPlayEnd hPhase hPlay]
    dsimp only
    rw [hLast, Option.elim_none]
  · subst hv hA hc hm hn hw
    rw [exec_awgPlayEnd hPhase hPlay]
    dsimp only
    rw [hi, Option.elim_some, hNone, Option.elim_none]
  · subst hv hA hc hm hn hw hu hleft
    rw [exec_awgPlayEnd hPhase hPlay]
    dsimp only
    rw [hi, Option.elim_some, hx, Option.elim_some]

end Sys2Proof.Machine
end

section
/-! SUPPORT. The proof of the statement about raster engines (10_raster). -/

namespace Sys2Proof.Machine

theorem modRe_at (s : State) (k : Fin 4) (f : Re → Re) : (modRe s k f).re[k] = f s.re[k] := by
  simp [modRe]

/-- Settles O45, by the branches of the rows. -/
theorem rasterRunsFollowTheirSetUp : Obligations.RasterRunsFollowTheirSetUp := by
  rintro s t id o d k rfl rfl
  refine ⟨fun hk h off len hit hOff hLen hHit => ⟨fun hFar => ?_, fun hIn hBusy hOver => ?_, fun hIn hFree => ?_⟩,
    fun hk h i off len hw => ?_, fun hk h l hl => ⟨fun hOk => ?_, fun hNot => ?_⟩,
    fun h p m hp hm => ⟨fun hFree hAll => ?_, fun hBad => ?_⟩,
    fun hk h => ⟨fun hFree hOn hStream hSet => ?_, fun hBad => ?_⟩,
    fun hk h => ⟨fun hBusy => ?_, fun hFree => ?_⟩, fun hBars => ⟨fun hBusy => ?_, fun hFree => ?_⟩,
    fun u hDue hu => ⟨fun hNone => ?_, fun hSome => ?_⟩, fun u hDue hu => ⟨fun hSome hLast => ?_, fun hMore => ?_⟩⟩
  · subst hk hOff hLen
    exact exec_given h rfl (if_pos hFar)
  · subst hk hOff hLen hHit
    exact exec_given h rfl ((if_neg hIn.not_gt).trans (if_pos (by rw [hBusy, hOver]; rfl)))
  · subst hk hOff hLen hHit
    refine exec_given h rfl ((if_neg hIn.not_gt).trans (if_neg ?_))
    rwa [Bool.and_eq_true, not_and_or, Bool.not_eq_true, Bool.not_eq_true]
  · subst hk
    refine exec_running h rfl ?_
    dsimp only
    rw [hw]
  · subst hk hl
    exact exec_given h rfl (if_neg (by simpa [layerOf] using hOk))
  · subst hk hl
    exact exec_given h rfl (if_pos (by simpa [layerOf] using hNot))
  · subst hp hm
    refine exec_given h rfl (if_neg ?_)
    simpa [-Fin.getElem_fin, -Fin.ofNat_eq_cast, hFree] using hAll
  · subst hp hm
    refine exec_given h rfl (if_pos ?_)
    simpa [-Fin.getElem_fin, -Fin.ofNat_eq_cast] using hBad
  · subst hk
    refine exec_given h rfl (if_neg ?_)
    simp [-Fin.getElem_fin, hFree, hOn, hSet, Option.isSome_iff_ne_none.1 hStream]
  · subst hk
    refine exec_given h rfl (if_pos ?_)
    simpa [-Fin.getElem_fin, or_assoc] using hBad
  · subst hk
    exact exec_given h rfl (if_pos hBusy)
  · subst hk
    exact exec_given h rfl (if_neg (ne_true_of_eq_false hFree))
  · refine (if_pos hBars).trans (congrArg _ (if_pos ?_))
    rwa [modRe_at]
  · refine (if_pos hBars).trans (congrArg _ (if_neg (ne_true_of_eq_false ?_)))
    rwa [modRe_at]
  · subst hu
    exact congrArg _ ((if_pos hDue).trans (if_pos (by rw [hNone]; rfl)))
  · subst hu
    exact congrArg _ ((if_pos hDue).trans (if_neg (by simpa [-Fin.getElem_fin] using hSome)))
  · subst hu
    exact congrArg _ ((if_pos hDue).trans (if_pos ⟨hSome, hLast⟩))
  · subst hu
    refine congrArg _ ((if_pos hDue).trans (if_neg ?_))
    rw [not_and_or, not_not, ge_iff_le, not_le]
    exact hMore

end Sys2Proof.Machine
end

section
/-! SUPPORT. The proof of the statement about DUT supplies (11_power). -/

namespace Sys2Proof.Machine

theorem modDps_congr {s : State} {n : Fin 32} {f g : Dps → Dps} (h : f s.dps[n] = g s.dps[n]) :
    modDps s n f = modDps s n g :=
  congrArg (fun D => { s with dps := s.dps.set n D }) h

/-- A DPS is in a state in which its output may be driven. -/
theorem driven_iff (st : EngState) :
    (st == .starting || st == .on || st == .stopping || st == .pendingOn) = true ↔
      st = .starting ∨ st = .on ∨ st = .stopping ∨ st = .pendingOn := by
  simp [or_assoc]

/-- A crossing trips the supply whose monitor acts, but for one that falls into the monitor's own trip test. -/
theorem exec_windowMonitorTrip {s : State} {n : Fin 32} {v i : Int} {c : BitVec 4} (hc : monCause s.dps[n] v i = some c) :
    exec (.windowMonitorTrip n v i) s = .next (
      if (s.dps[n]).mon.en = true ∧ (s.dps[n]).blanked = false ∧ (s.dps[n]).tripped = false ∧
          ((s.dps[n]).eng.st = .starting ∨ (s.dps[n]).eng.st = .on ∨ (s.dps[n]).eng.st = .stopping ∨
            (s.dps[n]).eng.st = .pendingOn) then
        if tripPathOpen s n = true then
          if (takeFree s 1).1 = 1 then tripDps (takeFree s 1).2 n c else (takeFree s 1).2
        else tripDps s n c
      else s) := by
  change execWindowMonitorTrip n v i s = _
  simp only [execWindowMonitorTrip, hc]
  simp only [Bool.not_eq_true', ← Bool.not_eq_true, ite_not, Bool.and_eq_true, driven_iff, and_assoc]
  split_ifs <;> rfl

theorem exec_windowMonitorTrip_inside {s : State} {n : Fin 32} {v i : Int} (hc : monCause s.dps[n] v i = none) :
    exec (.windowMonitorTrip n v i) s = .next s := by
  change execWindowMonitorTrip n v i s = _
  simp only [execWindowMonitorTrip, hc]

/-- A crossing that an off-watch sees wakes the block, and is recorded once. -/
theorem exec_offWatchCrossing {s : State} {n : Fin 32} (hOff : isOff s (.dps n) = true) (hEn : (s.dps[n]).mon.en = true)
    (hWatch : (s.dps[n]).mon.offWatch = true) (hBlank : (s.dps[n]).blanked = false) :
    exec (.offWatchCrossing n) s =
      let u := if s.glb.pwr = .deepSleep then { s with glb := { s.glb with wakeNLow := true } } else s
      if s.pwr.evt.extV then .next u
      else
        let x := { u with pwr := { u.pwr with evt := { u.pwr.evt with extV := true } } }
        .next (postEq x (holder x (.dps n)) (mkEq x 0x000B n.val 0 0)) := by
  refine (if_pos (by simp [-Fin.getElem_fin, hOff, hEn, hWatch, hBlank])).trans ?_
  have hEvt : (if s.glb.pwr = .deepSleep then { s with glb := { s.glb with wakeNLow := true } } else s).pwr = s.pwr := by
    split_ifs <;> rfl
  simp only [hEvt]

/-- The sum of the last hundred samples of the DUT power. -/
def budgetSum (s : State) (mw : Nat) : Nat := ((mw :: s.pwr.samples).take 100).foldl (· + ·) 0

/-- A sample warns. -/
def budgetWarns (s : State) (mw : Nat) : Bool :=
  decide (100 * budgetSum s mw > 90 * (100 * s.pwr.limitMw.toNat)) && s.pwr.warnArmed

/-- A sample trips. -/
def budgetTrips (s : State) (mw : Nat) : Bool := decide (budgetSum s mw > 100 * s.pwr.limitMw.toNat)

/-- The state behind a sample of the DUT power, its warning and its trip not yet acted on. -/
def budgetNoted (s : State) (mw : Nat) : State :=
  let p := BitVec.ofNat 16 (min (budgetSum s mw / 100) 65535)
  { s with pwr := { s.pwr with
    samples := (mw :: s.pwr.samples).take 100, pMw := p,
    peakMw := if s.pwr.peakMw < p then p else s.pwr.peakMw,
    warnArmed := decide (100 * budgetSum s mw < 85 * (100 * s.pwr.limitMw.toNat)) ||
      (s.pwr.warnArmed && !budgetWarns s mw),
    evt := { s.pwr.evt with
      budgetWarn := s.pwr.evt.budgetWarn || budgetWarns s mw,
      budgetTrip := s.pwr.evt.budgetTrip || budgetTrips s mw } } }

theorem budgetWarns_iff (s : State) (mw : Nat) :
    budgetWarns s mw = true ↔ 90 * s.pwr.limitMw.toNat < budgetSum s mw ∧ s.pwr.warnArmed = true := by
  rw [budgetWarns, Bool.and_eq_true, decide_eq_true_eq]
  refine and_congr_left fun _ => ?_
  omega

theorem exec_budgetSample (s : State) (mw : Nat) : exec (.budgetSample mw) s = .next (
    let u := budgetNoted s mw
    let v := if budgetWarns s mw then postEq u none (mkEq u 0x000C 0 (u.pwr.pMw.setWidth 32) 0) else u
    if budgetTrips s mw then tripAll v 5 else v) := rfl

/-- Settles O46, by the branches of the rows. -/
theorem suppliesAreConfiguredWatchedAndTripped : Obligations.SuppliesAreConfiguredWatchedAndTripped := by
  rintro s t id o d n D rfl rfl
  refine ⟨fun hn h c es hc hes => ⟨fun hIn hTop hConv hSlew => ?_, fun hBad => ?_⟩,
    fun hn h => ⟨fun hOn h0 h1000 hUp => ?_, fun hBad => ?_⟩,
    fun h codes limited sum v hHere hLen hCodes hD hsum hv => ?_, fun h => ⟨fun hOk => ?_, fun hNot => ?_⟩,
    fun h => ⟨fun h0 hUp => ?_, fun hBad => ?_⟩, fun h res rs ns f hHere hns hDps hCodes hrs hf => ?_, rfl, rfl,
    fun hD => ⟨fun hOn hRamp => ?_, fun hSt hStage => ?_, fun hSt hStage => ?_, fun hSt hSink => ?_,
      fun hSt hStage => ?_, fun hSt hStage => ?_,
      fun hSt => ⟨fun hSense hPkg => ?_, ?_, fun v i c hc => ⟨fun hNot => ?_, fun hEn hBlank hTrip =>
        ⟨fun hShut => ?_, fun f hOpen hf => ?_⟩⟩⟩,
      fun v i hc => ?_, fun u hOff hEn hWatch hBlank hu => ⟨fun hSet => ?_, fun hClear x hx => ?_⟩⟩,
    fun mw sum lim xs p hxs hsum hlim hp => ⟨budgetNoted s mw, rfl, ?_, ?_, fun hQuiet hUnder => ?_,
      fun hWarn hArmed hUnder => ?_, fun hOver => ?_⟩⟩
  · subst hn
    refine exec_given h rfl ?_
    dsimp only
    rw [← hc, ← hes, if_neg (by simp [hIn, hTop.not_gt, hConv, hSlew.not_gt])]
  · subst hn
    refine exec_given h rfl ?_
    dsimp only
    rw [← hc, ← hes, if_pos (by simpa [or_assoc] using hBad)]
  · subst hn
    exact exec_given h rfl (if_neg (by simp [hOn, h0, h1000.not_gt, hUp]))
  · subst hn
    exact exec_given h rfl (if_pos (by simpa [or_assoc] using hBad))
  · subst hD hsum hv
    refine exec_running h rfl (if_pos ?_)
    simpa [hLen, monCode] using And.intro (by simpa using hHere) hCodes
  · exact exec_given h rfl (if_pos hOk)
  · exact exec_given h rfl (if_neg (ne_true_of_eq_false hNot))
  · exact exec_given h rfl (if_neg (by simpa [hUp] using h0))
  · exact exec_given h rfl (if_pos (by simpa using hBad))
  · subst hf hrs hns
    refine exec_running h rfl (if_pos ?_)
    simpa [hDps] using And.intro (by simpa using hHere) hCodes
  · subst hD
    refine congrArg Host.Outcome.next (modDps_congr ?_)
    simp [-Fin.getElem_fin, hOn, hRamp]
  · subst hD
    refine congrArg Host.Outcome.next (modDps_congr ?_)
    simp [-Fin.getElem_fin, hSt, hStage]
  · subst hD
    refine congrArg Host.Outcome.next (modDps_congr ?_)
    rcases hSt with hSt | hSt <;> simp [-Fin.getElem_fin, hSt, hStage]
  · subst hD
    refine congrArg Host.Outcome.next ?_
    simp [-Fin.getElem_fin, dpsDischarged, hSt, hSink]
  · subst hD
    refine congrArg Host.Outcome.next ?_
    simp [-Fin.getElem_fin, dpsDischarged, hSt, hStage]
  · subst hD
    refine congrArg Host.Outcome.next ?_
    rcases hSt with hSt | hSt <;> simp [-Fin.getElem_fin, dpsDischarged, hSt, hStage]
  · subst hD
    refine congrArg Host.Outcome.next (modDps_congr ?_)
    simp only [(driven_iff _).2 hSt, hSense, hPkg]
    rfl
  · subst hD
    exact congrArg Host.Outcome.next (modDps_congr (by rw [if_pos ((driven_iff _).2 hSt)]))
  · subst hD
    rw [exec_windowMonitorTrip hc, if_neg]
    rintro ⟨hEn, hBlank, hTrip, -⟩
    rw [hEn, hBlank, hTrip] at hNot
    simp at hNot
  · subst hD
    rw [exec_windowMonitorTrip hc, if_pos ⟨hEn, hBlank, hTrip, hSt⟩, if_neg (ne_true_of_eq_false hShut)]
  · subst hD hf
    rw [exec_windowMonitorTrip hc, if_pos ⟨hEn, hBlank, hTrip, hSt⟩, if_pos hOpen]
  · subst hD
    exact exec_windowMonitorTrip_inside hc
  · subst hD hu
    rw [exec_offWatchCrossing hOff hEn hWatch hBlank, if_pos hSet]
  · subst hD hu hx
    rw [exec_offWatchCrossing hOff hEn hWatch hBlank, if_neg (ne_true_of_eq_false hClear)]
  · exact hxs.symm
  · rw [hp, hsum, hxs]
    rfl
  · subst hp hsum hxs hlim
    have hWarn : budgetWarns s mw = false := by
      rw [Bool.eq_false_iff, Ne, budgetWarns_iff, not_and_or, not_lt, Bool.not_eq_true]
      exact hQuiet
    have hTrip : budgetTrips s mw = false := decide_eq_false hUnder.not_gt
    refine ⟨?_, ?_⟩
    · simp only [budgetNoted, hWarn, hTrip, Bool.or_false]
    · rw [exec_budgetSample, hWarn, hTrip]
      rfl
  · subst hp hsum hxs hlim
    have hWarn : budgetWarns s mw = true := (budgetWarns_iff s mw).2 ⟨hWarn, hArmed⟩
    have hTrip : budgetTrips s mw = false := decide_eq_false hUnder.not_gt
    refine ⟨?_, ?_, ?_⟩
    · simp only [budgetNoted, hWarn, Bool.or_true]
    · simp only [budgetNoted, hWarn, Bool.not_true, Bool.and_false, Bool.or_false, decide_eq_false_iff_not]
      have := ((budgetWarns_iff s mw).1 hWarn).1
      omega
    · rw [exec_budgetSample, hWarn, hTrip]
      rfl
  · subst hp hsum hxs hlim
    have hTrip : budgetTrips s mw = true := decide_eq_true hOver
    have hWarn : budgetWarns s mw = s.pwr.warnArmed := by
      rw [Bool.eq_iff_iff, budgetWarns_iff]
      refine and_iff_right (lt_of_le_of_lt (Nat.mul_le_mul_right _ (by decide)) hOver)
    refine ⟨?_, ?_⟩
    · simp only [budgetNoted, hTrip, Bool.or_true]
    · rw [exec_budgetSample, hWarn, hTrip]
      rfl

end Sys2Proof.Machine
end

section
/-! SUPPORT. The proofs of the statements about Lanes and the Commons (12_lanes). -/

namespace Sys2Proof.Machine

/-! ### Lanes -/

section Triggers

variable {s u : State} {x : Trigger} {rest : List Trigger} {task : Nat} {lane : Option (Fin 64)}
  {busy : State → Trigger → Bool} {f : State → Trigger → State}

/-- The oldest trigger, where it is for the task and the Lane that are asked for, is taken to its consumer. -/
theorem onTrig_front (hTrig : s.triggers = x :: rest) (hu : u = { s with triggers := rest })
    (hTask : x.task = BitVec.ofNat 8 task) (hLane : lane = none ∨ lane = some x.lane) :
    onTrig s task lane busy f = if busy u x then modLane u x.lane fun l => { l with ignored := true } else f u x := by
  subst hu
  rcases hLane with rfl | rfl <;> simp [onTrig, hTrig, hTask]

theorem onTrig_acts (hTrig : s.triggers = x :: rest) (hu : u = { s with triggers := rest })
    (hTask : x.task = BitVec.ofNat 8 task) (hFree : busy u x = false) : onTrig s task none busy f = f u x := by
  rw [onTrig_front hTrig hu hTask (.inl rfl), if_neg (ne_true_of_eq_false hFree)]

theorem onTrig_ignores (hTrig : s.triggers = x :: rest) (hu : u = { s with triggers := rest })
    (hTask : x.task = BitVec.ofNat 8 task) (hLane : lane = none ∨ lane = some x.lane) (hBusy : busy u x = true) :
    onTrig s task lane busy f = modLane u x.lane fun l => { l with ignored := true } := by
  rw [onTrig_front hTrig hu hTask hLane, if_pos hBusy]

end Triggers

/-- The source event of a source that has fired. -/
theorem sourceEvent_fired {s : State} {f : BitVec 8 × BitVec 8} (hf : s.fired.find? (fun x => x.1 == f.1) = some f) :
    sourceEvent s f.1 = carryAll { s with fired := s.fired.eraseP fun x => x.1 == f.1 }
      (ixs 64 fun n => carries { s with fired := s.fired.eraseP fun x => x.1 == f.1 } n && (s.lanes[n]).src == f.1)
      f.2 := by
  simp only [sourceEvent, hf]

/-- Settles O47: each task takes the oldest trigger as `onTrig` does. -/
theorem lanesCarryEventsToTheirTasks : Obligations.LanesCarryEventsToTheirTasks := by
  rintro s t id o d rfl rfl
  refine ⟨fun f hf u hu => ?_, fun x rest u hTrig hu => ⟨fun p m => ?_, fun n m => ?_, fun k hTask hArmed h2 => ?_,
      fun hTask hMaster => ?_, fun hTask hFree hAwake => ?_, fun hTask hFree hAwake => ?_,
      fun n hTask hSend hFree => ?_, fun hTask => ⟨fun hUp => ?_, fun hReset => ?_⟩, fun hTask hFree => ?_,
      fun hTask => ?_, fun p k n y hy hTask hBusy => ?_⟩,
    fun h n hn => ⟨fun hOk hZero => ?_, fun hBad => ?_⟩, fun h on off hOn hOff => ?_, fun h => exec_given h rfl rfl,
    fun hBars n w m => ⟨fun hOk => ?_, fun hBad => ?_, ?_, ?_⟩⟩
  · subst hu
    exact congrArg Host.Outcome.next (sourceEvent_fired hf)
  · refine ⟨fun hTask => ?_, fun hTask => ?_, fun hTask hWaits => ?_, fun hTask hOn => ?_, fun hTask hOff => ?_,
      fun hTask hWaits => ?_, fun hTask hWaits => ?_, fun hTask hArmed h1 => ?_,
      fun A hA hTask hPlay => ⟨fun hTo => ?_, fun hHalt hFar => ?_⟩⟩
    · exact congrArg Host.Outcome.next (onTrig_acts hTrig hu hTask rfl)
    · exact congrArg (fun s => Host.Outcome.next (closeCheck s)) (onTrig_acts hTrig hu hTask rfl)
    · exact congrArg Host.Outcome.next (onTrig_acts hTrig hu hTask (by simp [hWaits]))
    · exact congrArg Host.Outcome.next (onTrig_acts hTrig hu hTask (by simp [-Fin.getElem_fin, hOn]))
    · exact congrArg Host.Outcome.next (onTrig_ignores hTrig hu hTask (.inl rfl) (by simp [-Fin.getElem_fin, hOff]))
    · exact congrArg Host.Outcome.next (onTrig_acts hTrig hu hTask (by simp [hWaits]))
    · exact congrArg Host.Outcome.next (onTrig_acts hTrig hu hTask (by simpa using hWaits))
    · exact congrArg Host.Outcome.next (onTrig_acts hTrig hu hTask (by simp [-Fin.getElem_fin, hArmed, h1]))
    · subst hA
      refine congrArg Host.Outcome.next ((onTrig_acts hTrig hu hTask (by simp [-Fin.getElem_fin, hPlay])).trans ?_)
      exact if_pos ⟨hPlay, hTo⟩
    · subst hA
      refine congrArg Host.Outcome.next ((onTrig_acts hTrig hu hTask (by simp [-Fin.getElem_fin, hPlay])).trans ?_)
      refine if_neg ?_
      rintro ⟨-, hTo | hTo⟩
      · exact ne_true_of_eq_false hHalt hTo
      · exact hFar.not_gt hTo
  · exact ⟨fun hTask => congrArg Host.Outcome.next (onTrig_acts hTrig hu hTask rfl),
      fun hTask => congrArg (fun s => Host.Outcome.next (closeCheck s)) (onTrig_acts hTrig hu hTask rfl),
      fun hTask => congrArg Host.Outcome.next (onTrig_acts hTrig hu hTask rfl)⟩
  · exact congrArg Host.Outcome.next (onTrig_acts hTrig hu hTask (by simp [-Fin.getElem_fin, hArmed, h2]))
  · exact congrArg Host.Outcome.next (onTrig_acts hTrig hu hTask (by simp [hMaster]))
  · exact congrArg Host.Outcome.next (onTrig_acts hTrig hu hTask (by simp [hFree, hAwake]))
  · exact congrArg Host.Outcome.next (onTrig_acts hTrig hu hTask (by simp [hFree, hAwake]))
  · exact congrArg Host.Outcome.next (onTrig_acts hTrig hu hTask (by simp [hSend, hFree]))
  · exact congrArg Host.Outcome.next ((onTrig_acts hTrig hu hTask rfl).trans (if_neg (ne_true_of_eq_false hUp)))
  · exact congrArg Host.Outcome.next ((onTrig_acts hTrig hu hTask rfl).trans (if_pos hReset))
  · exact congrArg Host.Outcome.next ((onTrig_front hTrig hu hTask (.inr rfl)).trans (if_neg (ne_true_of_eq_false hFree)))
  · exact congrArg Host.Outcome.next ((onTrig_front hTrig hu hTask (.inr rfl)).trans (if_neg (by simp [never])))
  · simp only [List.mem_cons, List.not_mem_nil, or_false] at hy
    rcases hy with rfl | rfl | rfl | rfl | rfl | rfl | rfl | rfl | rfl | rfl | rfl | rfl
    case inr.inr.inr.inr.inr.inr.inr.inr.inr.inr.inr =>
      exact congrArg Host.Outcome.next (onTrig_ignores hTrig hu hTask (.inr rfl) hBusy)
    all_goals exact congrArg Host.Outcome.next (onTrig_ignores hTrig hu hTask (.inl rfl) hBusy)
  · subst hn
    exact exec_given h rfl (if_pos (by rw [hOk]; simpa using hZero))
  · subst hn
    exact exec_given h rfl (if_neg (by simpa [imp_iff_not_or] using hBad))
  · subst hOn hOff
    exact exec_given h rfl rfl
  · exact congrArg Host.Outcome.next ((if_pos hBars).trans (if_pos hOk))
  · exact congrArg Host.Outcome.next ((if_pos hBars).trans (if_neg (ne_true_of_eq_false hBad)))
  · exact congrArg Host.Outcome.next (if_pos hBars)
  · exact congrArg Host.Outcome.next (if_pos hBars)

/-! ### The Commons -/

/-- A CM_CTL descriptor on its occasion. -/
theorem cmCtl_given {s : State} {id : OpId} {o : Op} {action : Nat} {f : State → State} (h : Given s id 0xA3 o)
    (hAct : bits (wd o.cur 2) 1 0 = action) : cmCtl s (some id) action f =
      let t := begun s id
      if o.ctx = 0 ∧ t.cm.en = true ∧ (2 ≤ action ∨ t.cm.master = true) then finishOp (f t) id stOk []
      else if o.ctx = 0 ∧ action ≤ 1 ∧ t.cm.master = false then
        finishOp { t with cm := { t.cm with armRefused := true } } id eArg []
      else finishOp t id eArg [] := by
  simp only [cmCtl, h.1, hAct, ne_eq, not_true_eq_false, if_false]
  rw [runDesc_given h]
  change (if _ then _ else _) = _
  generalize begun s id = t
  by_cases hRefused : o.ctx = 0 ∧ action ≤ 1 ∧ t.cm.master = false
  · obtain ⟨hZero, hArm, hSlave⟩ := hRefused
    simp [hZero, hArm, hSlave, Nat.lt_succ_of_le hArm]
  by_cases hGood : o.ctx = 0 ∧ t.cm.en = true ∧ (2 ≤ action ∨ t.cm.master = true)
  · obtain ⟨hZero, hEn, hHas⟩ := hGood
    have hNot : ¬(action ≤ 1 ∧ t.cm.master = false) := fun hArm => hRefused ⟨hZero, hArm⟩
    simp [hZero, hEn, hHas, hNot]
  · rw [if_pos, if_neg, if_neg hGood, if_neg hRefused]
    · simpa [and_assoc] using hRefused
    · by_cases hZero : o.ctx = 0 <;> by_cases hEn : t.cm.en = true
      · simp only [hZero, hEn, true_and, not_or, Nat.not_le] at hGood
        exact absurd ⟨hZero, by omega, by simpa using hGood.2⟩ hRefused
      · simp [hEn]
      · simp [hZero]
      · simp [hZero]

/-- Settles O48, by the branches of the rows. -/
theorem commonsArmFireAndHalt : Obligations.CommonsArmFireAndHalt := by
  rintro s t id o d rfl rfl
  refine ⟨fun h => ⟨fun hZero hEn => ⟨fun hMaster => ⟨fun hAct => ?_, fun hAct => ?_⟩, fun hAct => ?_, fun hAct => ?_⟩,
      fun x hx hAct => ⟨fun hArm hZero hSlave => ?_, fun hBad => ?_⟩⟩,
    fun hBars => ⟨?_, ?_, ?_, ?_⟩, fun on => ⟨fun hSlave => ?_, fun hMaster hOn => ?_⟩, fun hEn hAwake => ⟨?_, ?_⟩,
    ⟨rfl, rfl, rfl, rfl⟩, fun low => ⟨fun hLow hArm => ?_, fun hArm => ⟨fun hOff => ?_, fun hOn => ?_⟩⟩,
    fun hDue hAuto => ?_, fun hNot => ?_⟩
  · exact congrArg Host.Outcome.next ((cmCtl_given h hAct).trans (if_pos ⟨hZero, hEn, .inr hMaster⟩))
  · exact congrArg Host.Outcome.next ((cmCtl_given h hAct).trans (if_pos ⟨hZero, hEn, .inr hMaster⟩))
  · exact congrArg Host.Outcome.next ((cmCtl_given h hAct).trans (if_pos ⟨hZero, hEn, .inl (by decide)⟩))
  · exact congrArg Host.Outcome.next ((cmCtl_given h hAct).trans (if_pos ⟨hZero, hEn, .inl (by decide)⟩))
  · simp only [List.mem_cons, List.not_mem_nil, or_false] at hx
    rcases hx with rfl | rfl | rfl | rfl
    case inr.inr.inl | inr.inr.inr => exact absurd hArm (by simp)
    all_goals
      exact congrArg Host.Outcome.next ((cmCtl_given h hAct).trans ((if_neg (by simp [hSlave])).trans
        (if_pos ⟨hZero, hArm, hSlave⟩)))
  · simp only [List.mem_cons, List.not_mem_nil, or_false] at hx
    have hNeg (a : Nat) (ha : o.ctx ≠ 0 ∨ (begun s id).cm.en = false ∧ (2 ≤ a ∨ (begun s id).cm.master = true)) :
        ¬(o.ctx = 0 ∧ (begun s id).cm.en = true ∧ (2 ≤ a ∨ (begun s id).cm.master = true)) ∧
          ¬(o.ctx = 0 ∧ a ≤ 1 ∧ (begun s id).cm.master = false) := by
      rcases ha with hOther | ⟨hEn, hHas⟩
      · exact ⟨fun hAll => hOther hAll.1, fun hAll => hOther hAll.1⟩
      · refine ⟨fun hAll => ne_true_of_eq_false hEn hAll.2.1, fun hAll => ?_⟩
        exact hHas.elim (fun h2 => absurd hAll.2.1 (by omega)) (ne_true_of_eq_false hAll.2.2)
    rcases hx with rfl | rfl | rfl | rfl
    all_goals
      obtain ⟨hNot, hKept⟩ := hNeg _ hBad
      exact congrArg Host.Outcome.next ((cmCtl_given h hAct).trans ((if_neg hNot).trans (if_neg hKept)))
  · exact congrArg Host.Outcome.next (if_pos hBars)
  · exact congrArg Host.Outcome.next (if_pos hBars)
  · exact congrArg Host.Outcome.next (if_pos hBars)
  · exact congrArg Host.Outcome.next (if_pos hBars)
  · simp [cmArm, hSlave]
  · rcases hOn with rfl | ⟨hEn, hAwake⟩
    · simp [cmArm, hMaster]
    · simp [cmArm, hMaster, hEn, hAwake]
  · simp [cmPulse, hEn, hAwake]
  · simp [cmPulse, hEn, hAwake]
  · exact congrArg Host.Outcome.next (if_pos (by simp [hLow, hArm]))
  · refine congrArg Host.Outcome.next ((if_neg (by simpa [imp_iff_not_or] using hArm)).trans (if_pos ?_))
    simp [fire, hOff]
  · refine congrArg Host.Outcome.next ((if_neg (by simpa [imp_iff_not_or] using hArm)).trans ((if_neg ?_).trans rfl))
    simp [fire, hOn]
  · exact congrArg Host.Outcome.next (if_pos (by rw [hDue, hAuto]; rfl))
  · exact congrArg Host.Outcome.next (if_neg (by simpa [imp_iff_not_or] using hNot))

end Sys2Proof.Machine
end

section
/-! SUPPORT. The proof of the statement about the Avenue (12_lanes). -/

namespace Sys2Proof.Machine

/-- A training's answers and a failed step reach the training in progress. -/
theorem exec_avTrain_stepFailed (s : State) :
    exec (.avTrain s.av.trainOp .stepFailed) s = .next (avReport s .stepFailed) := by
  change Host.Outcome.next _ = _
  cases s.av.trainOp <;> simp

theorem exec_avTrain_answers (s : State) (us : List AvUnit) :
    exec (.avTrain s.av.trainOp (.answers us)) s = .next (avReport s (.answers us)) := by
  change Host.Outcome.next _ = _
  cases s.av.trainOp <;> simp

/-- What the answers of a training come to. -/
theorem avReport_answers {s : State} {us : List AvUnit} (h : s.av.st = .training) :
    avReport s (.answers us) =
      let others := us.filter fun u => u.chipid.val != s.glb.chipid.toNat
      let ver := us.foldl (fun v u => min v u.version) 2
      if ownClash s.av.own others then avFail { s with av := { s.av with ownerClash := true } }
      else if ver = 0 then avFail s
      else if s.av.trainOp.isSome then avTrained s others ver
      else if s.av.master then s
      else avFollow s us ver := by
  simp [avReport, h]

theorem sendable_trained {s : State} {n : Fin 8} (h : sendable s n = true) : s.av.st = .trained := by
  simp only [sendable, Bool.and_eq_true, beq_iff_eq] at h
  exact h.1

/-- A frame that is taken. -/
theorem exec_avFrameReceive {s : State} {line : Fin 8} {f : BitVec 40} (hSt : s.av.st = .trained) (hVer : s.av.ver = 2)
    (hPre : bits f 3 0 = 5) : exec (.avFrameReceive line f) s =
      if frameCrc f ≠ BitVec.ofNat 8 (bits f 39 32) then
        .next (postEq { s with av := { s.av with crcErr := true } } none (mkEq s 0x0008 line.val 0 0))
      else
        let e := extendEffect (avTime s) (bits f 31 12)
        if e < avTime s + 64 then
          .next (postEq { s with
            av := { s.av with
              late := true,
              events := s.av.events ++ [⟨line, BitVec.ofNat 8 (bits f 11 4), ((avTime s + 64) % 2 ^ 48).toNat, none⟩] } }
            none (mkEq s 0x0009 line.val 0 0))
        else .next { s with
            av := { s.av with
              events := s.av.events ++ [⟨line, BitVec.ofNat 8 (bits f 11 4), (e % 2 ^ 48).toNat, none⟩] } } := by
  change execAvFrameReceive line f s = _
  by_cases hCrc : frameCrc f = BitVec.ofNat 8 (bits f 39 32)
  · by_cases hLate : extendEffect (avTime s) (bits f 31 12) < avTime s + 64
    · simp [execAvFrameReceive, hSt, hVer, hPre, hCrc, hLate, mkEq]
    · simp [execAvFrameReceive, hSt, hVer, hPre, hCrc, hLate]
  · simp [execAvFrameReceive, hSt, hVer, hPre, hCrc]

/-- Settles O49, by the branches of the rows. -/
theorem avenueTrainsSendsAndTakesEffect : Obligations.AvenueTrainsSendsAndTakesEffect := by
  rintro s t id o d line rfl rfl
  refine ⟨fun h => ⟨fun hZero hMaster hEn => ⟨fun hIdle => ?_, fun hBusy => ?_⟩, fun hBad => ?_⟩, fun hEn hFollow => ?_,
    fun hSt => ⟨?_, ?_, fun us others ver hOthers hVer => ⟨fun hClash => ?_, fun hOwn => ⟨fun h0 => ?_,
      fun h0 hOp => ?_, fun h0 hNone hFollow => ?_⟩⟩⟩,
    fun h n hn => ⟨fun hCtx => ?_, fun hZero => ⟨fun hNot => ?_, fun hSt hSend => ?_, fun hSend hBusy => ?_,
      fun hSend hFree => ?_⟩⟩,
    fun u hu => ⟨fun hNone => ?_, fun k x hWait hx hLive => ?_⟩,
    fun f => ⟨fun hDrop => ?_, fun hSt hVer hPre => ⟨fun hCrc => ?_, fun e hCrc he => ⟨fun hIn => ?_, fun hLate => ?_⟩⟩⟩,
    fun hSt hVer l hl => ?_, fun hNot => ?_, fun e u he hSt hu => ?_, fun hSt hFollow => ?_, fun hNot => ?_,
    fun hBars => congrArg Host.Outcome.next (if_pos hBars)⟩
  · exact exec_given h rfl ((if_neg (by simp [hZero, hMaster, hEn])).trans (if_neg hIdle))
  · exact exec_given h rfl ((if_neg (by simp [hZero, hMaster, hEn])).trans (if_pos hBusy))
  · exact exec_given h rfl (if_pos (by simpa using hBad))
  · exact congrArg Host.Outcome.next (if_pos (by simp [hEn, hFollow]))
  · exact congrArg Host.Outcome.next (if_pos hSt)
  · rw [exec_avTrain_stepFailed]
    simp [avReport, hSt]
  · subst hOthers hVer
    rw [exec_avTrain_answers, avReport_answers hSt]
    dsimp only
    rw [if_pos hClash]
  · subst hOthers hVer
    rw [exec_avTrain_answers, avReport_answers hSt]
    dsimp only
    rw [if_neg (ne_true_of_eq_false hOwn), if_pos h0]
  · subst hOthers hVer
    rw [← hOp, exec_avTrain_answers, avReport_answers hSt]
    dsimp only
    rw [if_neg (ne_true_of_eq_false hOwn), if_neg h0, if_pos (by rw [hOp]; rfl)]
  · subst hOthers hVer
    rw [← hNone, exec_avTrain_answers, avReport_answers hSt]
    dsimp only
    rw [if_neg (ne_true_of_eq_false hOwn), if_neg h0, if_neg (by simp [hNone]), if_neg (by simp [hFollow])]
  · exact exec_given h rfl (if_pos hCtx)
  · exact exec_given h rfl ((if_neg (not_not.2 hZero)).trans (if_pos hNot))
  · subst hn
    exact exec_given h rfl ((if_neg (not_not.2 hZero)).trans ((if_neg (not_not.2 hSt)).trans (if_pos (by rw [hSend]; rfl))))
  · subst hn
    exact exec_given h rfl ((if_neg (not_not.2 hZero)).trans ((if_neg (not_not.2 (sendable_trained hSend))).trans
      ((if_neg (by rw [hSend]; decide)).trans (if_pos hBusy))))
  · subst hn
    exact exec_given h rfl ((if_neg (not_not.2 hZero)).trans ((if_neg (not_not.2 (sendable_trained hSend))).trans
      ((if_neg (by rw [hSend]; decide)).trans (if_neg (ne_true_of_eq_false hFree)))))
  · subst hu
    change Host.Outcome.next _ = _
    simp only [hNone]
  · subst hu
    change Host.Outcome.next _ = _
    rw [op?] at hx
    simp only [hWait, op?, hx, hLive, if_true]
  · refine congrArg Host.Outcome.next (if_pos ?_)
    simpa [or_assoc] using hDrop
  · rw [exec_avFrameReceive hSt hVer hPre, if_pos hCrc]
  · subst he
    rw [exec_avFrameReceive hSt hVer hPre, if_neg (not_not.2 hCrc)]
    dsimp only
    rw [if_neg hIn.not_gt]
  · subst he
    rw [exec_avFrameReceive hSt hVer hPre, if_neg (not_not.2 hCrc)]
    dsimp only
    rw [if_pos hLate]
  · subst hl
    exact congrArg Host.Outcome.next (if_neg (by simp [hSt, hVer]))
  · exact congrArg Host.Outcome.next (if_pos (by simpa using hNot))
  · subst hu
    change Host.Outcome.next _ = _
    simp only [he, hSt]
    rfl
  · exact congrArg Host.Outcome.next (if_pos (by simp [hSt, hFollow]))
  · exact congrArg Host.Outcome.next (if_neg (by simpa [imp_iff_not_or] using hNot))

end Sys2Proof.Machine
end

section
/-! SUPPORT. The proofs of the statements about calibration and temperature (13_calibration_thermal). -/

namespace Sys2Proof.Machine

/-! ### Calibration -/

/-- Settles O50, by the branches of the rows. -/
theorem calibrationIsTakenWhole : Obligations.CalibrationIsTakenWhole := by
  rintro s t id o d k rfl rfl
  refine ⟨fun h => ⟨fun hNone => ?_, fun hk => ⟨fun hFields hPre hRef => ?_, fun hBad => ?_⟩⟩,
    fun h res j hj hk => ⟨fun hNone => ?_, fun es cs n first code hes hcs hn hFirst hCode => ⟨fun h0 => ?_, fun h0 => ?_⟩⟩,
    fun h bs es cs hbs hes hcs => ⟨fun hNone => ?_, fun hk => ⟨fun hRsv => ?_, fun st hRsv hClaim => ?_,
      fun hRsv hClaim => ⟨fun hRun => ?_, fun hFree => ⟨fun hBad => ?_, fun hGood => ?_⟩⟩⟩⟩,
    fun h => ⟨fun hk => ?_, fun hNone => ?_⟩⟩
  · refine exec_given h rfl ?_
    rw [hNone]
  · refine exec_given h rfl ?_
    rw [hk]
    exact if_pos (by simp [hFields, hPre, hRef])
  · refine exec_given h rfl ?_
    rw [hk]
    exact if_neg (by simpa [imp_iff_not_or, or_assoc] using hBad)
  · subst hk
    refine exec_running h rfl ?_
    dsimp only
    rw [hj]
    dsimp only
    rw [hNone]
  · subst hk
    refine exec_running h rfl ?_
    dsimp only
    rw [hj]
    dsimp only
    rw [hes]
    dsimp only
    subst hcs hn hFirst hCode
    exact if_pos h0
  · subst hk
    refine exec_running h rfl ?_
    dsimp only
    rw [hj]
    dsimp only
    rw [hes]
    dsimp only
    subst hcs hn hFirst hCode
    exact if_neg h0
  · subst hbs
    refine exec_given h rfl ?_
    dsimp only
    rw [hNone]
  · subst hbs hes
    refine exec_given h rfl ?_
    dsimp only
    rw [hk]
    dsimp only
    rw [hRsv]
    rfl
  · subst hbs hes
    refine exec_given h rfl ?_
    dsimp only
    rw [hk]
    dsimp only
    rw [hRsv, if_pos rfl, hClaim]
  · subst hbs hes
    refine exec_given h rfl ?_
    dsimp only
    rw [hk]
    dsimp only
    rw [hRsv, if_pos rfl, hClaim]
    exact if_pos (by simpa using hRun)
  · subst hbs hes hcs
    refine exec_given h rfl ?_
    dsimp only
    rw [hk]
    dsimp only
    rw [hRsv, if_pos rfl, hClaim]
    refine (if_neg (by simpa using hFree)).trans (if_pos ?_)
    rw [List.any_eq_true]
    obtain ⟨c, hc, h0⟩ := hBad
    exact ⟨c, hc, by simpa using h0⟩
  · subst hbs hes hcs
    refine exec_given h rfl ?_
    dsimp only
    rw [hk]
    dsimp only
    rw [hRsv, if_pos rfl, hClaim]
    refine (if_neg (by simpa using hFree)).trans (if_neg ?_)
    rw [List.any_eq_true]
    rintro ⟨c, hc, h0⟩
    simp [hGood c hc] at h0
  · refine exec_given h rfl ?_
    rw [hk]
  · refine exec_given h rfl ?_
    rw [hNone]

/-! ### Temperature -/

theorem modDie_at (s : State) (d : Fin 10) (f : Die → Die) : (modDie s d f).thm.dies[d] = f s.thm.dies[d] := by
  simp [modDie]

theorem modDie_ne (s : State) {d e : Fin 10} (f : Die → Die) (h : e ≠ d) :
    (modDie s d f).thm.dies[e] = s.thm.dies[e] :=
  upd_other s.thm.dies d e f h

/-- Settles O51, by the branches of the two rows. -/
theorem temperatureSamplesAct : Obligations.TemperatureSamplesAct := by
  intro s rs
  refine ⟨fun hUp on off hOn hOff => ?_, fun hReset => congrArg Host.Outcome.next (if_pos hReset),
    fun d D hD hNot => ?_, fun d D hD hTrip hClears => ⟨_, congrArg Host.Outcome.next (if_pos ?_), rfl, ?_, ?_, ?_, ?_⟩⟩
  · subst hOn hOff
    refine congrArg Host.Outcome.next ((if_neg (ne_true_of_eq_false hUp)).trans ?_)
    rw [List.partition_eq_filter_filter]
    rfl
  · subst hD
    exact congrArg Host.Outcome.next (if_neg (by simpa [-Fin.getElem_fin, imp_iff_not_or] using hNot))
  · subst hD
    rw [hTrip, hClears]
    rfl
  · rw [modDie_at]
  · rw [modDie_at]
  · rw [hD, modDie_at]
  · exact fun e he => modDie_ne _ _ he

end Sys2Proof.Machine
end

section
/-! SUPPORT. The proof of the statement about port M and the flash view (14_serial_ports). -/

namespace Sys2Proof.Machine

/-! ### Transactions -/

/-- A program stands at a unit that waits for its ready line. -/
theorem standsAt_iff (us : List PmUnit) (r : PmRun) : standsAt us r = true ↔
    r.left = true ∧ r.miss = false ∧ (us[r.next]?).map (·.wait) = some true := by
  cases hWait : us[r.next]? <;> simp [standsAt, hWait, and_assoc]

/-- The transaction in progress ends, or stands at a unit that waits. -/
theorem exec_pmXferDone {s : State} {id : OpId} {o : Op} {res : PmXferRes} (h : Running s id 0x91 o)
    (hXfer : s.pm.xfer = some id) : exec (.pmXferDone res) s =
      let r := pmRun s.pm.prog 0 (if s.pm.doom.isSome then some res.units else none) res.words
      let u := pmRun s.pm.prog 0 (some res.units) res.words
      if s.pm.doom = none ∧ standsAt s.pm.prog u = true then
        .next { takeXfer s o res u with pm := { (takeXfer s o res u).pm with met := res, io := {} } }
      else .next (closeXfer (takeXfer s o res r) o r (s.pm.doom.getD (if r.miss then stPartial else stOk)) r.last) := by
  change execPmXferDone res s = _
  simp only [execPmXferDone, hXfer, onRunning_running h, Bool.and_eq_true, Option.isNone_iff_eq_none]
  split_ifs <;> rfl

/-- A ready line that stays away ends the transaction that stands at its unit. -/
theorem exec_pmXferWaitTimeout {s : State} {id : OpId} {o : Op} (h : Running s id 0x91 o) (hXfer : s.pm.xfer = some id) :
    exec .pmXferWaitTimeout s =
      let r := pmRun s.pm.prog 0 (some s.pm.met.units) s.pm.met.words
      if s.pm.doom = none ∧ standsAt s.pm.prog r = true then .next (closeXfer s o r eTimeout r.next) else .next s := by
  change execPmXferWaitTimeout s = _
  simp only [execPmXferWaitTimeout, hXfer, onRunning_running h, Bool.and_eq_true, Option.isNone_iff_eq_none]
  split_ifs <;> rfl

/-- The select is released as a transaction ends. -/
theorem endXfer_rests (s : State) (o : Op) : (endXfer s o).pm.xfer = none ∧ (endXfer s o).pm.selOn = false ∧
    (endXfer s o).pm.sel = 0 ∧ (endXfer s o).pm.sck = false ∧ (endXfer s o).pm.io = {} := by
  simp only [endXfer]
  split_ifs <;> exact ⟨rfl, rfl, rfl, rfl, rfl⟩

/-! ### The flash view -/

/-- A host's view read whose fill has not begun. -/
def lateView (s : State) (r : ViewRead) : Bool :=
  !r.core && !(s.pm.fill.elim false fun f => f.1 == r.addr / 64 || (f.2 == 2 && f.1 + 1 == r.addr / 64))

theorem exec_flashViewReadTimeout (s : State) : exec .flashViewReadTimeout s = .next (
    (s.pm.reads.find? (lateView s)).elim s fun r =>
      missView { s with pm := { s.pm with reads := s.pm.reads.erase r } }) := by
  have hLate (r : ViewRead) : lateView s r =
      (!r.core && !(s.pm.fill.elim false fun f => f.1 == r.addr / 64 || (f.2 == 2 && f.1 + 1 == r.addr / 64))) := rfl
  change execFlashViewReadTimeout s = _
  cases hFill : s.pm.fill with
  | none =>
    simp only [execFlashViewReadTimeout, hFill, funext hLate, Option.elim_none]
    cases s.pm.reads.find? _ <;> rfl
  | some f =>
    simp only [execFlashViewReadTimeout, hFill, funext hLate, Option.elim_some]
    cases s.pm.reads.find? _ <;> rfl

/-- A host's access of BAR4 at an offset. -/
theorem exec_bar4Read {s : State} (hBars : barsOn s = true) (off : BitVec 26) :
    exec (.flashViewRead (off.setWidth 28) (.host .bar4)) s = .next (
      if off.toNat / 4 * 4 < 2 ^ 25 then diagRead s (off.toNat / 4 * 4)
      else viewRead s { addr := off.toNat / 4 * 4 - 2 ^ 25, core := false }) := by
  change Host.Outcome.next _ = _
  simp [hBars, barAccess, wordAt]

/-- A view read that port M serves. -/
theorem viewRead_served {s : State} {r : ViewRead} (hOn : isOn s .portM = true) (hOpen : s.pm.xblock = false) :
    viewRead s r =
      if pmBytes s ≤ r.addr then serveView s r
      else if s.pm.lines.contains (r.addr / 64) then
        serveView { s with pm := { s.pm with lines := touchLine s.pm.lines (r.addr / 64) } } r
      else startFill { s with pm := { s.pm with reads := s.pm.reads ++ [r] } } := by
  have hSt : s.pm.eng.st = .on := by simpa [isOn, getEng] using hOn
  simp [viewRead, hOn, hOpen, hSt]

/-- A host's view read fails where port M does not serve it. -/
theorem viewRead_unserved {s : State} {r : ViewRead} (hHost : r.core = false)
    (hNot : isOn s .portM = false ∨ s.pm.xblock = true) : viewRead s r = missView s := by
  refine if_pos ?_
  simpa [hHost, imp_iff_not_or] using hNot

/-- Settles O53, by the branches of the rows. -/
theorem portMTransfersAndServesTheView : Obligations.PortMTransfersAndServesTheView := by
  rintro s t id o d rfl rfl
  refine ⟨fun h us hus => ⟨fun hOn h0 h4096 hAll hOut hIn => ?_, fun hBad => ?_⟩,
    fun h hXfer res => ⟨fun r u hr hu => ⟨fun hEnd => ?_, fun hDoom hLeft hMiss hWait => ⟨_, rfl, ?_⟩⟩,
      fun r hr => ⟨fun hDoom hLeft hMiss hWait => ?_, fun hElse => ?_⟩⟩,
    endXfer_rests s o, fun hIdle res => ⟨?_, ?_⟩, fun h => exec_given h rfl rfl,
    fun a v r hr => ?_, fun hBars off w x i len => ⟨fun hLow => ⟨fun hStill => ?_, fun n hFill => ?_⟩, ?_, ?_, ?_⟩,
    fun l n ls now hFill hls hnow => ?_, fun late hlate => ?_⟩
  · subst hus
    refine exec_given h rfl (if_neg ?_)
    simpa [hOn, h0, h4096.not_gt, hOut, hIn] using hAll
  · subst hus
    refine exec_given h rfl (if_pos ?_)
    simpa [or_assoc] using hBad
  · subst hr hu
    rw [exec_pmXferDone h hXfer]
    refine if_neg ?_
    rw [standsAt_iff]
    rintro ⟨hDoom, hLeft, hMiss, hWait⟩
    simp [hDoom, hLeft, hMiss, hWait] at hEnd
  · subst hr hu
    rw [exec_pmXferDone h hXfer]
    exact if_pos ⟨hDoom, (standsAt_iff _ _).2 ⟨hLeft, hMiss, hWait⟩⟩
  · subst hr
    rw [exec_pmXferWaitTimeout h hXfer]
    exact if_pos ⟨hDoom, (standsAt_iff _ _).2 ⟨hLeft, hMiss, hWait⟩⟩
  · subst hr
    rw [exec_pmXferWaitTimeout h hXfer]
    refine if_neg ?_
    rw [standsAt_iff]
    rintro ⟨hDoom, hLeft, hMiss, hWait⟩
    simp [hDoom, hLeft, hMiss, hWait] at hElse
  · change Host.Outcome.next _ = _
    rw [hIdle]
  · change Host.Outcome.next _ = _
    rw [hIdle]
  · have hRow : exec (.flashViewRead a v) s = .next (viewRead s r) := by
      rcases hr with ⟨rfl, rfl⟩ | ⟨hBars, rfl, off, rfl, hHigh, rfl⟩
      · rfl
      · rw [exec_bar4Read hBars, if_neg hHigh.not_gt]
    rw [hRow]
    refine ⟨fun hHost hNot => ?_, fun hCore hOff => ?_, fun hOn hOpen => ⟨fun hFar => ?_, fun hNear hHeld => ?_,
      fun hNear hNew => ?_⟩, fun hCore hSt hNot => ?_⟩
    · rw [viewRead_unserved hHost hNot]
    · simp [viewRead, hCore, hOff]
    · rw [viewRead_served hOn hOpen, if_pos hFar]
    · rw [viewRead_served hOn hOpen, if_neg hNear.not_ge, if_pos hHeld]
    · rw [viewRead_served hOn hOpen, if_neg hNear.not_ge, if_neg (ne_true_of_eq_false hNew)]
    · have hServed : ¬(isOn s .portM = true ∧ s.pm.xblock = false) := by
        rintro ⟨hOn, hOpen⟩
        simp [hOn, hOpen] at hNot
      simp [viewRead, hCore, hSt, hServed]
  · rw [exec_bar4Read hBars, if_pos hLow]
    simp [diagRead, hStill]
  · refine ⟨_, by rw [exec_bar4Read hBars, if_pos hLow], ?_⟩
    simp only [diagRead, hFill]
    split_ifs
    · exact .inl rfl
    · exact .inr rfl
  · change Host.Outcome.next _ = _
    simp [hBars, barAccess]
  · exact congrArg Host.Outcome.next (if_pos hBars)
  · change Host.Outcome.next _ = _
    simp [hBars, barAccess]
  · subst hls hnow
    change Host.Outcome.next _ = _
    rw [hFill]
  · have hLate : late = lateView s := by
      rw [hlate]
      funext r
      unfold lateView
      cases s.pm.fill <;> rfl
    rw [exec_flashViewReadTimeout, ← hLate]
    exact ⟨fun r hr => by rw [hr, Option.elim_some], fun hNone => by rw [hNone, Option.elim_none]⟩

end Sys2Proof.Machine
end

section
/-! SUPPORT. The proof of the statement about port S (14_serial_ports). -/

namespace Sys2Proof.Machine

/-- The frame that starts on powered port S. -/
theorem psStart_alive {s : State} (hAlive : railGood s .vlich = true) (hIdle : s.ps.inFrame = false) :
    psStart s =
      let resp : Nat := if s.glb.psChain then at_ 56 (psStatus s) + at_ 40 s.ps.lastAddr.toNat +
        at_ 32 (0xC0 + s.glb.chipid.toNat) + s.ps.lastData.toNat else psStatus s
      { s with
        ps := { s.ps with
          inFrame := true, abandoned := false, slow := psSlowNow s, resp := BitVec.ofNat 64 resp, sOver := false,
          sShort := false, sTuTmo := false, sDenied := false, taken := none,
          sdo := some (resp.testBit (if s.glb.psChain then 63 else 7)) } } := by
  simp [psStart, hIdle, psAlive, hAlive, setPs]

theorem psStart_inFrame {s : State} (hIn : s.ps.inFrame = true) : psStart s = s :=
  if_pos (by simp [hIn])

theorem psStart_dead {s : State} (hDead : railGood s .vlich = false) : psStart s = s :=
  if_pos (by simp [psAlive, hDead])

/-- A whole frame in command mode. -/
theorem psWhole_command {s : State} {code : Nat} {a : BitVec 16} {w : Word} (hIdle : s.ps.inFrame = false)
    (hCommand : s.glb.psChain = false) : psWhole s code a w =
      if code = 1 then psEnd (psStart s) 64 (at_ 56 1 + at_ 40 a.toNat)
      else if code = 2 then psEnd (psStart s) 56 (at_ 48 2 + at_ 32 a.toNat + w.toNat)
      else psEnd (psStart s) 8 code := by
  simp only [psWhole, hIdle, hCommand, Bool.false_eq_true, if_false]
  split <;> simp_all

/-- A whole frame in chain mode. -/
theorem psWhole_chain {s : State} {code : Nat} {a : BitVec 16} {w : Word} (hIdle : s.ps.inFrame = false)
    (hChain : s.glb.psChain = true) : psWhole s code a w =
      psEnd (psStart s) 64 (at_ 56 code + at_ 40 a.toNat + at_ 32 0x5A + w.toNat) := by
  simp [psWhole, hIdle, hChain]

/-- The end of a frame that port S is in. -/
theorem psEnd_inFrame {s : State} (hAlive : railGood s .vlich = true) (hIn : s.ps.inFrame = true) (n x : Nat) :
    psEnd s n x =
      let u : State := { s with
        ps := { (if !s.glb.psChain && (n < 8 || (s.ps.abandoned && s.ps.cut < 8)) then psUnsent s.ps else s.ps) with
          inFrame := false, abandoned := false, frames := s.ps.frames + 1, sdo := none } }
      if s.ps.abandoned then
        { u with ps := { u.ps with
          shown := (psStream s n (x % 2 ^ n)).take (min n s.ps.cut) ++
            List.replicate (n - s.ps.cut) (s.ps.sdo.getD false) } }
      else
        let v := if s.glb.psChain then psChainWord u n (BitVec.ofNat 64 (x % 2 ^ n)) else psCommand u n (x % 2 ^ n)
        { v with ps := { v.ps with shown := psShown v n (x % 2 ^ n) } } := by
  have hHere : ¬(!s.ps.inFrame || !psAlive s) = true := by simp [hIn, psAlive, hAlive]
  have hFrames (c : Prop) [Decidable c] : (if c then psUnsent s.ps else s.ps).frames = s.ps.frames := by
    split_ifs <;> rfl
  simp only [psEnd, if_neg hHere, setPs, hFrames]
  rfl

theorem psEnd_off {s : State} (h : railGood s .vlich = false ∨ s.ps.inFrame = false) (n x : Nat) : psEnd s n x = s :=
  if_pos (by simpa [psAlive, or_comm] using h)

/-- Settles O54, by the branches of the rows. -/
theorem portSFramesActAtTheirEnd : Obligations.PortSFramesActAtTheirEnd := by
  intro s
  refine ⟨fun hAlive => ⟨fun hIdle => ⟨psStart s, rfl, ?_⟩, fun hIn => ⟨fun n x u hu => ⟨fun hGone => ?_, fun v hv hLive => ?_⟩,
      fun hLive f k hf hk => ?_, fun a => ⟨fun hLive hCommand hNew => ⟨_, rfl, ?_⟩, fun hNot => ?_⟩, ?_⟩⟩,
    fun hOff n x => ⟨?_, ?_⟩, fun hDead => ?_, fun w hReady => ⟨fun hEmpty => ?_, fun hFull => ?_⟩,
    fun w hBars => congrArg Host.Outcome.next (if_pos hBars)⟩
  · have hStart := psStart_alive hAlive hIdle
    dsimp only at hStart
    refine ⟨by rw [hStart], by rw [hStart], by rw [hStart], by rw [hStart], by rw [hStart], by rw [hStart],
      by rw [hStart], ?_, by rw [hStart], fun a w => ⟨fun hCommand => ⟨?_, ?_, ?_, ?_⟩, fun hChain => ⟨?_, ?_, ?_, ?_⟩⟩⟩
    · rw [hStart, BitVec.getLsbD_ofNat]
      cases s.glb.psChain <;> simp
    · exact congrArg Host.Outcome.next (psWhole_command hIdle hCommand)
    · exact congrArg Host.Outcome.next (psWhole_command hIdle hCommand)
    · exact congrArg Host.Outcome.next ((if_neg (ne_true_of_eq_false hIdle)).trans (psWhole_command hIdle hCommand))
    · exact congrArg Host.Outcome.next (psWhole_command hIdle hCommand)
    · refine congrArg Host.Outcome.next ((psWhole_chain hIdle hChain).trans ?_)
      simp [at_]
    · refine congrArg Host.Outcome.next ((psWhole_chain hIdle hChain).trans ?_)
      simp [at_]
    · exact congrArg Host.Outcome.next ((if_neg (ne_true_of_eq_false hIdle)).trans (psWhole_chain hIdle hChain))
    · exact congrArg Host.Outcome.next (psWhole_chain hIdle hChain)
  · subst hu
    exact congrArg Host.Outcome.next ((psEnd_inFrame hAlive hIn n x).trans (if_pos hGone))
  · subst hu hv
    exact congrArg Host.Outcome.next ((psEnd_inFrame hAlive hIn n x).trans (if_neg (ne_true_of_eq_false hLive)))
  · subst hf hk
    exact congrArg Host.Outcome.next (if_pos (by simp [hIn, hLive, psAlive, hAlive]))
  · refine congrArg Host.Outcome.next ((if_pos hIn).trans (if_neg ?_))
    simp [hLive, hCommand, hNew, psAlive, hAlive]
  · refine congrArg Host.Outcome.next ((if_pos hIn).trans (if_pos ?_))
    simpa [psAlive, hAlive, Option.isSome_iff_ne_none, or_assoc] using hNot
  · exact congrArg Host.Outcome.next (psStart_inFrame hIn)
  · exact congrArg Host.Outcome.next (psEnd_off hOff n x)
  · refine congrArg Host.Outcome.next (if_neg ?_)
    rcases hOff with h | h <;> simp [psAlive, h]
  · exact congrArg Host.Outcome.next (psStart_dead hDead)
  · exact if_neg (by simp [hReady, hEmpty])
  · exact if_pos (by simp [hFull])

end Sys2Proof.Machine
end

section
/-! SUPPORT. The proofs of the statements about security and faults (15_boot_security_recovery). -/

namespace Sys2Proof.Machine

/-! ### Attestation, floors and keys -/

/-- Settles O55, by the branches of the rows. -/
theorem floorsRiseAndKeysAreRevoked : Obligations.FloorsRiseAndKeysAreRevoked := by
  rintro s t id o d rfl rfl
  refine ⟨fun h hIdle => ?_, fun hLoad => congrArg Host.Outcome.next (if_pos hLoad), fun h => exec_given h rfl rfl,
    fun h f p hf hp => ⟨fun hFw hPatch => ?_, fun hBad => ?_⟩,
    fun h k ok hk hok => ⟨fun hHeld => ?_, fun hUse hLast => ⟨fun hBad => ?_, fun hGood => ?_⟩⟩⟩
  · have hRow : exec (.attest id) s = .next (runDesc s id 0xB0 fun s _ d =>
        finishOp (hostWrite (takeFree s 1).2 (wd64 d 10) (attestReport s d)) id stOk []) :=
      congrArg Host.Outcome.next (if_neg hIdle)
    exact exec_given h hRow rfl
  · subst hf hp
    exact exec_given h rfl (if_neg (by simp [hFw, hPatch]))
  · subst hf hp
    exact exec_given h rfl (if_pos hBad)
  · subst hk
    refine exec_given h rfl ?_
    dsimp only
    rw [if_pos (by simpa [-Fin.val_ofNat] using hHeld)]
  · subst hk
    refine exec_given h rfl ?_
    dsimp only
    rw [← hok, if_neg (by rw [decide_eq_false hUse, hLast]; decide), if_pos (by simp [hBad])]
  · subst hk
    refine exec_given h rfl ?_
    dsimp only
    rw [← hok, if_neg (by rw [decide_eq_false hUse, hLast]; decide), if_neg (by simp [hGood])]

/-! ### Faults -/

/-- A report that opens the storm window, or joins it. -/
theorem exec_faultReport {s : State} {src : BitVec 8} {r : Report} (hr : s.fag.inFlight.find? (fun r => r.src == src) = some r) :
    exec (.faultReport src) s = .next (arrive { s with fag := { s.fag with inFlight := s.fag.inFlight.erase r } } r) := by
  change Host.Outcome.next _ = _
  rw [hr]

/-- The firmware watchdog while the firmware runs. -/
theorem exec_fwWatchdogExpiry_running {s : State} (h : s.boot.stage = .running) : exec .fwWatchdogExpiry s = .next (
    let u := report s 176 fcFwWdog
    if restartRecent s then selfReset u .watchdog else { u with boot := { u.boot with restartDue := some true } }) := by
  have hRecent : restartRecent (report s 176 fcFwWdog) = restartRecent s := rfl
  change execFwWatchdogExpiry s = _
  simp only [execFwWatchdogExpiry, h, hRecent]

/-- Settles O56, by the branches of the rows. -/
theorem faultsAreCollectedAndReported : Obligations.FaultsAreCollectedAndReported := by
  intro s
  refine ⟨fun hRun => ⟨fun hFirst => ⟨_, rfl, ?_⟩, fun hAgain => ?_, fun w hDue => ?_⟩, fun hRestart => ?_,
    fun hBars => ⟨?_, fun w hw => ?_⟩, fun c => rfl, fun hAwake => ?_, fun hAsleep => ?_,
    fun src r hr => ⟨fun hNone => ?_, fun w v hw hv => ⟨fun hAfter => ?_, fun hBefore => ?_⟩⟩, fun hNone => ?_,
    fun w c l hw hc hl => ⟨fun hRoom => ⟨_, rfl, ?_⟩, fun hFull => ?_⟩,
    fun c r hr => ⟨fun hFull => ?_, fun hRoom => ⟨fun x rest hx => ?_, fun hNone hLost u hu => ?_⟩⟩, fun c hGone hOther => ?_⟩
  · rw [exec_fwWatchdogExpiry_running hRun, if_neg (ne_true_of_eq_false hFirst)]
  · rw [exec_fwWatchdogExpiry_running hRun, if_pos hAgain]
  · exact congrArg Host.Outcome.next (if_pos ⟨hDue, hRun⟩)
  · change execFwWatchdogExpiry s = _
    simp only [execFwWatchdogExpiry, hRestart]
  · exact congrArg Host.Outcome.next ((if_pos hBars).trans (if_pos rfl))
  · exact congrArg Host.Outcome.next ((if_pos hBars).trans (if_neg hw))
  · exact congrArg Host.Outcome.next (if_pos hAwake)
  · exact congrArg Host.Outcome.next (if_neg (ne_true_of_eq_false hAsleep))
  · rw [exec_faultReport hr]
    simp only [arrive, hNone]
  · subst hv
    rw [exec_faultReport hr]
    simp [arrive, hw, hAfter]
  · subst hv
    rw [exec_faultReport hr]
    simp [arrive, hw, hBefore]
  · change Host.Outcome.next (closeWindow s) = _
    simp only [closeWindow, hNone]
  · subst hc hl
    change Host.Outcome.next (closeWindow s) = _
    simp only [closeWindow, hw, if_pos hRoom]
  · subst hc hl
    change Host.Outcome.next (closeWindow s) = _
    simp only [closeWindow, hw, hFull]
    rfl
  · change Host.Outcome.next (writeEq s c) = _
    simp only [writeEq, hr, hFull, if_true]
  · change Host.Outcome.next (writeEq s c) = _
    simp only [writeEq, hr, hRoom, hx]
    rfl
  · subst hu
    change Host.Outcome.next (writeEq s c) = _
    simp only [writeEq, hr, hRoom, hNone, if_neg hLost]
    rfl
  · change Host.Outcome.next (writeEq s c) = _
    simp only [writeEq, hGone, if_neg hOther]

end Sys2Proof.Machine
end

section
/-! SUPPORT. The proof of the statement about the register map (16_register_map). -/

namespace Sys2Proof.Machine

/-! ### Snapshots -/

/-- What a requester is served does not depend on the snapshots and the data of its reads. -/
theorem served_answer_snapLo (s : State) (r : Requester) (p : SnapPair) :
    served (answer (snapLo s r p)) r = served s r := by
  cases r <;> rfl

theorem snapOf_answer_snapLo (s : State) (r : Requester) (p : SnapPair) :
    snapOf (answer (snapLo s r p)) r p = some { who := r, pair := p, hi := (readReg s (pairOff p + 4)).getD 0 } := by
  simp [snapOf, answer, snapLo]

theorem snapOf_dropSnap (s : State) (r : Requester) (p : SnapPair) : snapOf (dropSnap s r p) r p = none := by
  simp only [snapOf, dropSnap, List.find?_eq_none, List.mem_filter]
  rintro x ⟨-, hx⟩ hSame
  simp [hSame] at hx

/-- A snapshot of the HI word is given once. -/
theorem answer_snapHi_taken {s : State} {r : Requester} {p : SnapPair} {x : Snap} (hx : snapOf s r p = some x) :
    (answer (snapHi s r p)).rdata = bvBytes 4 x.hi ∧ snapOf (answer (snapHi s r p)) r p = none := by
  simp only [snapHi, hx]
  exact ⟨rfl, snapOf_dropSnap s r p⟩

/-! ### Writes -/

/-- A byte below some bits adds to them. -/
theorem toNat_append_byte {n : Nat} (x : BitVec n) (b : Byte) : (x ++ b).toNat = x.toNat * 256 + b.toNat := by
  rw [BitVec.toNat_append, ← Nat.shiftLeft_add_eq_or_of_lt b.isLt, Nat.shiftLeft_eq]

/-- The four bytes of a word, as the word that is written. -/
theorem ofNat_numAt_word (b0 b1 b2 b3 : Byte) : BitVec.ofNat 32 (numAt [b0, b1, b2, b3] 0 4) = b3 ++ b2 ++ b1 ++ b0 := by
  have hRight : (b3 ++ b2 ++ b1 ++ b0).toNat = ((b3.toNat * 256 + b2.toNat) * 256 + b1.toNat) * 256 + b0.toNat := by
    rw [toNat_append_byte, toNat_append_byte, toNat_append_byte]
  have hLeft : numAt [b0, b1, b2, b3] 0 4 = b0.toNat + 256 * (b1.toNat + 256 * (b2.toNat + 256 * b3.toNat)) := by
    simp [numAt, sliceB, leNat]
  have h0 := b0.isLt
  have h1 := b1.isLt
  have h2 := b2.isLt
  have h3 := b3.isLt
  apply BitVec.eq_of_toNat_eq
  rw [BitVec.toNat_ofNat, hLeft]
  refine Eq.trans ?_ hRight.symm
  omega

/-- A write of one whole word. -/
theorem writeBar0_word {s : State} {i : Nat} {off : BitVec 18} (hOff : off.toNat = 4 * i) (b0 b1 b2 b3 : Byte) :
    writeBar0 s off.toNat [b0, b1, b2, b3] = writeWhole s (4 * i) (b3 ++ b2 ++ b1 ++ b0) := by
  have hOne : (4 * i + 4 + 3) / 4 - i = 1 := by omega
  have hFirst : 4 * i / 4 = i := by omega
  simp [writeBar0, hOff, hOne, hFirst, writeWords, ofNat_numAt_word]

/-- A write of one byte of a word. -/
theorem writeBar0_byte {s : State} {i : Nat} {off : BitVec 18} (hOff : off.toNat = 4 * i) (b : Byte) :
    writeBar0 s off.toNat [b] = writePart s (4 * i) := by
  have hOne : (4 * i + 1 + 3) / 4 - i = 1 := by omega
  have hFirst : 4 * i / 4 = i := by omega
  simp [writeBar0, hOff, hOne, hFirst, writeWords]

/-- No write changes anything where the BARs are not served. -/
theorem writeWords_unserved {s : State} (h : barsOn s = false) (off : Nat) (bs : List Byte) (n : Nat) :
    ∀ i, writeWords off bs i n s = s := by
  induction n with
  | zero => exact fun i => rfl
  | succ n ih =>
    intro i
    simp only [writeWords, writeWhole, writePart, h]
    simpa using ih (i + 1)

theorem writeBar0_unserved {s : State} (h : barsOn s = false) (off : Nat) (bs : List Byte) : writeBar0 s off bs = s := by
  simp [writeBar0, h, writeWords_unserved h]

/-- Settles O57, by the branches of the rows. -/
theorem registersAreReadAndWritten : Obligations.RegistersAreReadAndWritten := by
  rintro s t id o d rfl rfl
  refine ⟨fun r p hServed => ⟨⟨answer (snapLo s r p), ?_, rfl, _, snapOf_answer_snapLo s r p, rfl,
      answer (snapHi (answer (snapLo s r p)) r p), ?_, ?_⟩, fun hNone => ?_⟩,
    fun p => ⟨fun hNot => ⟨?_, ?_⟩, fun hNot hAlive => ⟨?_, ?_⟩, fun hNot hDead => ⟨?_, ?_⟩, fun hNot => ⟨?_, ?_⟩⟩,
    fun hBars r => congrArg Host.Outcome.next (if_pos hBars), fun hBars i off b0 b1 b2 b3 hOff hReg => ?_,
    fun hBars i off b0 b1 b2 b3 hOff hReg => ?_, fun hDown e m n l w k c b off bs r a v => ⟨fun x hx => ?_, ?_, ?_⟩,
    fun hBars i off b u hOff hu hReg => ?_,
    fun h => ⟨fun hZero hView => ?_, fun hBad => ?_⟩, fun h n hn => ⟨fun hZero h0 hEnd => ?_, fun hBad => ?_⟩⟩
  · exact congrArg Host.Outcome.next (if_pos hServed)
  · exact congrArg Host.Outcome.next (if_pos ((served_answer_snapLo s r p).trans hServed))
  · exact answer_snapHi_taken (snapOf_answer_snapLo s r p)
  · refine congrArg Host.Outcome.next ((if_pos hServed).trans ?_)
    simp only [snapHi, hNone]
    rfl
  · exact congrArg Host.Outcome.next (if_neg (ne_true_of_eq_false hNot))
  · exact congrArg Host.Outcome.next (if_neg (ne_true_of_eq_false hNot))
  · exact congrArg Host.Outcome.next ((if_neg (ne_true_of_eq_false hNot)).trans (if_pos hAlive))
  · exact congrArg Host.Outcome.next ((if_neg (ne_true_of_eq_false hNot)).trans (if_pos hAlive))
  · exact congrArg Host.Outcome.next ((if_neg (ne_true_of_eq_false hNot)).trans (if_neg (ne_true_of_eq_false hDead)))
  · exact congrArg Host.Outcome.next ((if_neg (ne_true_of_eq_false hNot)).trans (if_neg (ne_true_of_eq_false hDead)))
  · exact congrArg Host.Outcome.next (if_neg (ne_true_of_eq_false hNot))
  · exact congrArg Host.Outcome.next (if_neg (ne_true_of_eq_false hNot))
  · refine congrArg Host.Outcome.next ((writeBar0_word hOff b0 b1 b2 b3).trans ?_)
    simp [writeWhole, hBars, Option.isSome_iff_ne_none.1 hReg]
  · refine congrArg Host.Outcome.next ((writeBar0_word hOff b0 b1 b2 b3).trans ?_)
    simp [writeWhole, hBars, hReg]
  · simp only [List.mem_cons, List.not_mem_nil, or_false] at hx
    rcases hx with rfl | rfl | rfl | rfl | rfl | rfl | rfl | rfl | rfl | rfl | rfl | rfl | rfl | rfl | rfl | rfl | rfl |
      rfl | rfl | rfl
    pick_goal 20
    · exact congrArg Host.Outcome.next (writeBar0_unserved hDown _ bs)
    pick_goal 18
    · exact if_neg (ne_true_of_eq_false hDown)
    all_goals exact congrArg Host.Outcome.next (if_neg (ne_true_of_eq_false hDown))
  · exact congrArg Host.Outcome.next (if_neg (ne_true_of_eq_false hDown))
  · refine congrArg Host.Outcome.next ((if_neg (ne_true_of_eq_false hDown)).trans ?_)
    cases v <;> rfl
  · subst hu
    refine congrArg Host.Outcome.next ((writeBar0_byte hOff b).trans ?_)
    have hWord : 4 * i / 4 = i := by omega
    simp [writePart, hBars, hWord, Option.isSome_iff_ne_none.1 hReg]
  · exact exec_given h rfl (if_neg (by simp [hZero, hView]))
  · exact exec_given h rfl (if_pos hBad)
  · subst hn
    exact exec_given h rfl (if_neg (by simp [hZero, h0, hEnd]))
  · subst hn
    exact exec_given h rfl (if_pos hBad)

end Sys2Proof.Machine
end

section
/-! SUPPORT. What the work of engines, operations and runs leaves as it is: the cores of the engines, the Plazas'
configurations, the host interface and the rings. One lemma per shared operation, in the order of the model. -/

namespace Sys2Proof.Machine

/-! ### The frame -/

/-- The part π of every element of an array. -/
def parts {α β : Type} {n : Nat} (π : α → β) (v : Vector α n) : Fin n → β := fun i => π v[i]

/-- A change of one element that leaves a part of it leaves that part of every element. -/
theorem parts_upd {α β : Type} {n : Nat} (π : α → β) (v : Vector α n) (i : Fin n) (f : α → α)
    (h : ∀ a, π (f a) = π a) : parts π (upd v i f) = parts π v := by
  funext j
  unfold parts
  rw [Fin.getElem_fin, upd_get]
  split
  · exact h _
  · rfl

def Plaza.core (P : Plaza) : EngCore × PlzCfg := (P.eng, P.cfg)

/-- What requests of the block state machine turn on: the core of each engine and the configuration of each Plaza. -/
structure Engines where
  plz : Fin 16 → EngCore × PlzCfg
  dg : Fin 16 → EngCore
  tmu : Fin 64 → EngCore
  awg : Fin 16 → EngCore
  re : Fin 4 → EngCore
  dps : Fin 32 → EngCore
  portM : EngCore

def engines (s : State) : Engines :=
  ⟨parts Plaza.core s.plz, parts Dg.eng s.dg, parts Tmu.eng s.tmu, parts Awg.eng s.awg, parts Re.eng s.re,
   parts Dps.eng s.dps, s.pm.eng⟩

/-- What the work that an engine or an operation starts and ends does not write: the engines, the host-interface
registers and the rings. -/
structure Frame where
  hif : Hif
  rings : List Ring
  engines : Engines

def frame (s : State) : Frame := ⟨s.hif, s.rings, engines s⟩

@[simp] theorem engines_fold (s : State) :
    (⟨parts Plaza.core s.plz, parts Dg.eng s.dg, parts Tmu.eng s.tmu, parts Awg.eng s.awg, parts Re.eng s.re,
      parts Dps.eng s.dps, s.pm.eng⟩ : Engines) = engines s := (rfl)

@[simp] theorem frame_mk (a1 a2 a3 a4 a5 a6 a7 a8 a9 a10 a11 a12 a13 a14 a15 a16 a17 a18 a19 a20 a21 a22 a23 a24 a25 a26 a27 a28 a29
    a30 a31 a32 a33 a34 a35 a36 a37 a38 a39 a40 a41 a42 a43 a44) :
  frame (State.mk a1 a2 a3 a4 a5 a6 a7 a8 a9 a10 a11 a12 a13 a14 a15 a16 a17 a18 a19 a20 a21 a22 a23 a24 a25 a26 a27 a28
      a29 a30 a31 a32 a33 a34 a35 a36 a37 a38 a39 a40 a41 a42 a43 a44) =
    ⟨a11, a13, ⟨parts Plaza.core a24, parts Dg.eng a28, parts Tmu.eng a29, parts Awg.eng a31, parts Re.eng a32,
     parts Dps.eng a33, a42.eng⟩⟩ := (rfl)

@[simp] theorem frame_fold (s : State) : (⟨s.hif, s.rings, engines s⟩ : Frame) = frame s := (rfl)

theorem engines_of_frame {s t : State} (h : frame t = frame s) : engines t = engines s := congrArg Frame.engines h

@[simp] theorem frame_ite (c : Prop) [Decidable c] (a b : State) :
    frame (if c then a else b) = if c then frame a else frame b := apply_ite frame c a b

@[simp] theorem frame_foldl {α : Type} (g : State → α → State) (h : ∀ s x, frame (g s x) = frame s) (l : List α)
    (s : State) : frame (l.foldl g s) = frame s :=
  foldl_keeps frame h l s

theorem frame_foldl_fst {α β : Type} (g : State × β → α → State × β) (h : ∀ a x, frame (g a x).1 = frame a.1)
    (l : List α) (a : State × β) : frame (l.foldl g a).1 = frame a.1 := by
  induction l generalizing a with
  | nil => rfl
  | cons x r ih => rw [List.foldl_cons, ih, h]

@[simp] theorem frame_elim {α : Type} (a : State) (f : α → State) (h : ∀ b, frame (f b) = frame a) (o : Option α) :
    frame (o.elim a f) = frame a := by
  cases o with
  | none => rfl
  | some b => exact h b

/-! ### Reaching into the state -/

@[simp] theorem modPlz_frame (s : State) (p : Fin 16) (f : Plaza → Plaza) (hEng : ∀ P, (f P).eng = P.eng)
    (hCfg : ∀ P, (f P).cfg = P.cfg) : frame (modPlz s p f) = frame s := by
  have h (P : Plaza) : (f P).core = P.core := congrArg₂ Prod.mk (hEng P) (hCfg P)
  simp [modPlz, parts_upd Plaza.core _ _ _ h]

@[simp] theorem modDps_frame (s : State) (n : Fin 32) (f : Dps → Dps) (h : ∀ x, (f x).eng = x.eng) :
    frame (modDps s n f) = frame s := by
  simp [modDps, parts_upd Dps.eng _ _ _ h]

@[simp] theorem modAwg_frame (s : State) (a : Fin 16) (f : Awg → Awg) (h : ∀ x, (f x).eng = x.eng) :
    frame (modAwg s a f) = frame s := by
  simp [modAwg, parts_upd Awg.eng _ _ _ h]

@[simp] theorem modDg_frame (s : State) (p : Fin 16) (f : Dg → Dg) (h : ∀ x, (f x).eng = x.eng) :
    frame (modDg s p f) = frame s := by
  simp [modDg, parts_upd Dg.eng _ _ _ h]

@[simp] theorem modTmu_frame (s : State) (n : Fin 64) (f : Tmu → Tmu) (h : ∀ x, (f x).eng = x.eng) :
    frame (modTmu s n f) = frame s := by
  simp [modTmu, parts_upd Tmu.eng _ _ _ h]

@[simp] theorem modRe_frame (s : State) (k : Fin 4) (f : Re → Re) (h : ∀ x, (f x).eng = x.eng) :
    frame (modRe s k f) = frame s := by
  simp [modRe, parts_upd Re.eng _ _ _ h]

@[simp] theorem modPin_frame (s : State) (p : Fin 16) (f : Pin → Pin) : frame (modPin s p f) = frame s :=
  modPlz_frame _ _ _ (fun _ => rfl) (fun _ => rfl)

@[simp] theorem modTim_frame (s : State) (p : Fin 16) (f : Tim → Tim) : frame (modTim s p f) = frame s :=
  modPlz_frame _ _ _ (fun _ => rfl) (fun _ => rfl)

@[simp] theorem modSeq_frame (s : State) (p : Fin 16) (f : Seq → Seq) : frame (modSeq s p f) = frame s :=
  modPlz_frame _ _ _ (fun _ => rfl) (fun _ => rfl)

@[simp] theorem modRun_frame (s : State) (p : Fin 16) (f : Run → Run) : frame (modRun s p f) = frame s :=
  modPlz_frame _ _ _ (fun _ => rfl) (fun _ => rfl)

@[simp] theorem modUc_frame (s : State) (p : Fin 16) (f : Uc → Uc) : frame (modUc s p f) = frame s :=
  modPlz_frame _ _ _ (fun _ => rfl) (fun _ => rfl)

@[simp] theorem modCap_frame (s : State) (p : Fin 16) (f : Cap → Cap) : frame (modCap s p f) = frame s :=
  modPlz_frame _ _ _ (fun _ => rfl) (fun _ => rfl)

@[simp] theorem modChanIn_frame (s : State) (p : Fin 16) (k : Fin 64) (f : Chan → Chan) : frame (modChanIn s p k f) = frame s :=
  modPlz_frame _ _ _ (fun _ => rfl) (fun _ => rfl)

@[simp] theorem mapChans_frame (s : State) (p : Fin 16) (f : Fin 1024 → Chan → Chan) : frame (mapChans s p f) = frame s :=
  modPlz_frame _ _ _ (fun _ => rfl) (fun _ => rfl)

@[simp] theorem modChan_frame (s : State) (c : Fin 1024) (f : Chan → Chan) : frame (modChan s c f) = frame s :=
  modChanIn_frame _ _ _ _

@[simp] theorem modLane_frame (s p f) : frame (modLane s p f) = frame s := (rfl)
@[simp] theorem modOp_frame (s p f) : frame (modOp s p f) = frame s := (rfl)
@[simp] theorem modCtx_frame (s c f) : frame (modCtx s c f) = frame s := (rfl)
@[simp] theorem report_frame (s p f) : frame (report s p f) = frame s := (rfl)
@[simp] theorem fire_frame (s p f) : frame (fire s p f) = frame s := (rfl)
@[simp] theorem setHolder_frame (s p f) : frame (setHolder s p f) = frame s := (rfl)
@[simp] theorem setEqPend_frame (s p) : frame (setEqPend s p) = frame s := (rfl)

/-! ### Operations, records and reports -/

@[simp] theorem takeFree_frame (s : State) (w : Nat) : frame (takeFree s w).2 = frame s := by
  simp [takeFree]

@[simp] theorem countAbort_frame (s : State) (id : OpId) (st : BitVec 8) :
    frame (countAbort s id st) = frame s := by
  unfold countAbort
  split
  · split <;> rfl
  · rfl

@[simp] theorem completeOp_frame (s : State) (id : OpId) (st : BitVec 8) (r : List Word) :
    frame (completeOp s id st r) = frame s := by
  simp [completeOp]

@[simp] theorem finishOp_frame (s : State) (id : OpId) (st : BitVec 8) (r : List Word) :
    frame (finishOp s id st r) = frame s := by
  unfold finishOp
  split
  · rfl
  · split
    · dsimp only
      split <;> simp
    · simp

@[simp] theorem finishAll_frame (s : State) (ids : List OpId) (st : BitVec 8) :
    frame (finishAll s ids st) = frame s := by
  simp [finishAll]

@[simp] theorem postEq_frame (s : State) (c : Option CtxId) (r : EqRec) : frame (postEq s c r) = frame s := by
  simp [postEq]

@[simp] theorem postReport_frame (s : State) (r : Report) : frame (postReport s r) = frame s := by
  simp [postReport]

/-! ### Calibration sets -/

@[simp] theorem setCal_frame (s : State) (c : CalSet) : frame (setCal s c) = frame s := by
  simp [setCal]

/-! ### Pins -/

@[simp] theorem parkPlaza_frame (s : State) (p : Fin 16) : frame (parkPlaza s p) = frame s := by
  simp [parkPlaza]

@[simp] theorem faultChans_frame (s : State) (p : Fin 16) : frame (faultChans s p) = frame s := by
  simp [faultChans]

@[simp] theorem storeLevel_frame (s : State) (p : Fin 16) (ls : Fin 8) : frame (storeLevel s p ls) = frame s
    := by
  simp [storeLevel]

@[simp] theorem applyLevels_frame (s : State) (p : Fin 16) (ls : Fin 8) : frame (applyLevels s p ls) = frame s
    := by
  simp [applyLevels]

@[simp] theorem startSettle_frame (s : State) (p : Fin 16) : frame (startSettle s p) = frame s := by
  simp [startSettle]

@[simp] theorem commitCodes_frame (s : State) (p : Fin 16) : frame (commitCodes s p) = frame s := by
  simp [commitCodes]

@[simp] theorem onChans_frame (s : State) (p : Fin 16) : frame (onChans s p) = frame s := by
  simp [onChans]

@[simp] theorem endSelftest_frame (s : State) (id : OpId) : frame (endSelftest s id) = frame s := by
  simp [endSelftest]

/-! ### Waveform sources -/

@[simp] theorem refetch_eng (A : Awg) : (refetch A).eng = A.eng := by
  unfold refetch
  split <;> rfl

@[simp] theorem armAwg_frame (s : State) (a : Fin 16) (id : OpId) (d : List Word) :
    frame (armAwg s a id d) = frame s := by
  simp [armAwg]

@[simp] theorem awgNext_frame (l : List OpId) (s : State) (p : Fin 16) : frame (awgNext l s p) = frame s := by
  induction l generalizing s with
  | nil => simp [awgNext]
  | cons id r ih =>
    unfold awgNext
    (repeat' split) <;> simp [ih]

@[simp] theorem dropJump_frame (s : State) (j : Option AJump) : frame (dropJump s j) = frame s := by
  simp [dropJump]

@[simp] theorem dacCode_frame (s : State) (a : Fin 16) (r : Nat) (n : BitVec 16) :
    frame (dacCode s a r n).2 = frame s := by
  unfold dacCode
  (repeat' split) <;> simp

@[simp] theorem holdCode_frame (s : State) (a : Fin 16) (n : BitVec 16) (parked : Bool) :
    frame (holdCode s a n parked) = frame s := by
  unfold holdCode
  dsimp only
  split <;> simp

@[simp] theorem awgStop_frame (s : State) (a : Fin 16) (status : BitVec 8) (clocks : Nat) (code : BitVec 16) :
    frame (awgStop s a status clocks code) = frame s := by
  simp [awgStop]

@[simp] theorem awgAbort_frame (s : State) (a : Fin 16) (status : BitVec 8) :
    frame (awgAbort s a status) = frame s := by
  unfold awgAbort
  dsimp only
  split <;> simp

@[simp] theorem parkAwg_frame (s : State) (a : Fin 16) : frame (parkAwg s a) = frame s := by
  simp [parkAwg]

@[simp] theorem offAwg_frame (s : State) (a : Fin 16) : frame (offAwg s a) = frame s := by
  simp [offAwg]

@[simp] theorem awgStarting_frame (s : State) (a : Fin 16) : frame (awgStarting s a) = frame s := by
  simp [awgStarting]

@[simp] theorem onAwg_frame (s : State) (a : Fin 16) : frame (onAwg s a) = frame s := by
  simp [onAwg]

/-! ### DUT supplies -/

@[simp] theorem parkDps_frame (s : State) (n : Fin 32) : frame (parkDps s n) = frame s := by
  refine modDps_frame _ _ _ fun D => ?_
  split <;> rfl

@[simp] theorem dpsStarting_frame (s : State) (n : Fin 32) : frame (dpsStarting s n) = frame s := by
  simp [dpsStarting]

@[simp] theorem dpsOn_frame (s : State) (n : Fin 32) : frame (dpsOn s n) = frame s := by
  simp [dpsOn]

@[simp] theorem dpsStopping_frame (s : State) (n : Fin 32) : frame (dpsStopping s n) = frame s := by
  simp [dpsStopping]

@[simp] theorem dpsOff_frame (s : State) (n : Fin 32) : frame (dpsOff s n) = frame s := by
  simp [dpsOff]

@[simp] theorem dpsFault_frame (s : State) (n : Fin 32) : frame (dpsFault s n) = frame s := by
  simp [dpsFault]

/-! ### Timing -/

@[simp] theorem setHeader_frame (s : State) (h : Option CalSet) : frame (setHeader s h) = frame s := by
  unfold setHeader
  split <;> simp

@[simp] theorem applyStaged_frame (s : State) (p : Fin 16) (x : Staged) : frame (applyStaged s p x) = frame s
    := by
  cases x <;> simp [applyStaged]

@[simp] theorem endStaged_frame (s : State) (id : OpId) : frame (endStaged s id) = frame s := by
  unfold endStaged
  (repeat' split) <;> simp

@[simp] theorem applyBand_frame (s : State) (p : Fin 16) : frame (applyBand s p) = frame s := by
  simp [applyBand]

@[simp] theorem quietOne_frame (s : State) (p : Fin 16) : frame (quietOne s p) = frame s := by
  simp [quietOne]

@[simp] theorem quietSet_frame (s : State) (p : Fin 16) : frame (quietSet s p) = frame s := by
  simp [quietSet]

@[simp] theorem dropStaged_frame (s : State) (id : OpId) : frame (dropStaged s id) = frame s := by
  simp [dropStaged]

/-! ### Capture -/

@[simp] theorem fqLose_frame (s : State) (p : Fin 16) (cycle : BitVec 48) (stale gap : Bool) :
    frame (fqLose s p cycle stale gap) = frame s := by
  simp [fqLose]

@[simp] theorem fqPut_frame (s : State) (p : Fin 16) (r : FqRec) : frame (fqPut s p r) = frame s := by
  simp [fqPut]

@[simp] theorem fqFlush_frame (s : State) (p : Fin 16) (limit : Nat) : frame (fqFlush s p limit) = frame s := by
  unfold fqFlush
  dsimp only
  split <;> simp

@[simp] theorem fqEmit_frame (s : State) (p : Fin 16) (r : FqRec) : frame (fqEmit s p r).1 = frame s := by
  unfold fqEmit
  dsimp only
  (repeat' split) <;> simp

@[simp] theorem fqHoldGap_frame (s : State) (p : Fin 16) (first : BitVec 48) (n : Nat) (stale : Bool) :
    frame (fqHoldGap s p first n stale) = frame s := by
  simp [fqHoldGap]

@[simp] theorem fqMarker_frame (s : State) (p : Fin 16) (cycle : BitVec 48) (user : BitVec 16) (tag : Word)
    (hdr : Bool) (mid : BitVec 16) (stale : Bool) :
    frame (fqMarker s p cycle user tag hdr mid stale) = frame s := by
  simp [fqMarker]

@[simp] theorem fqEnd_frame (s : State) (p : Fin 16) (cycle : BitVec 48) (status : BitVec 8) :
    frame (fqEnd s p cycle status) = frame s := by
  simp [fqEnd]

@[simp] theorem failLost_frame (s : State) (p : Fin 16) (j z : Nat) : frame (failLost s p j z) = frame s := by
  simp [failLost]

@[simp] theorem dropFq_frame (s : State) (n : RingId) : frame (dropFq s n) = frame s := by
  simp [dropFq]

@[simp] theorem settleOp_frame (s : State) (id : OpId) : frame (settleOp s id) = frame s := by
  unfold settleOp
  (repeat' split) <;> simp

@[simp] theorem endAfter_frame (s : State) (id : OpId) (st : BitVec 8) (r : List Word) :
    frame (endAfter s id st r) = frame s := by
  simp [endAfter]

@[simp] theorem freeRec_frame (s : State) (slot : Nat) : frame (freeRec s slot) = frame s := by
  simp [freeRec]

@[simp] theorem dropTmuRec_frame (s : State) (o : Op) : frame (dropTmuRec s o) = frame s := by
  unfold dropTmuRec
  (repeat' split) <;> simp

@[simp] theorem giveUp_frame (s : State) (id : OpId) : frame (giveUp s id) = frame s := by
  unfold giveUp
  dsimp only
  split <;> simp

@[simp] theorem mqPost_frame (s : State) (ring : RingId) (id : OpId) (r : MqRec) :
    frame (mqPost s ring id r) = frame s := by
  simp [mqPost]

@[simp] theorem dropMq_frame (s : State) (n : RingId) : frame (dropMq s n) = frame s := by
  simp [dropMq]

@[simp] theorem clearBindings_frame (s : State) (p : Fin 16) : frame (clearBindings s p) = frame s := by
  simp [clearBindings]

@[simp] theorem dropSteps_frame (s : State) (bad : TStep → Bool) : frame (dropSteps s bad) = frame s := by
  simp [dropSteps]

@[simp] theorem deliver_frame (s : State) (site : Nat) (test kind : Nat) (seq : Nat) (v : Option Int) :
    frame (deliver s site test kind seq v).1 = frame s := by
  unfold deliver
  (repeat' split) <;> simp

@[simp] theorem countRun_frame (s : State) (p : Fin 16) (z : Nat) (siteEn : BitVec 256) (status : BitVec 8) :
    frame (countRun s p z siteEn status) = frame s := by
  simp [countRun]

/-! ### Judged vectors -/

@[simp] theorem account_frame (s : State) (q : Fin 16) (siteEn : BitVec 256) (cyc : BitVec 48) (outs :
    Vector JOut 64) : frame (account s q siteEn cyc outs) = frame s := by
  simp [account]

@[simp] theorem massFail_frame (s : State) (q : Fin 16) (siteEn : BitVec 256) (cyc : BitVec 48) :
    frame (massFail s q siteEn cyc) = frame s := by
  simp [massFail]

@[simp] theorem clearFlags_frame (s : State) (p : Fin 16) : frame (clearFlags s p) = frame s := by
  simp [clearFlags]

@[simp] theorem trigAcqs_frame (s : State) (p : Fin 16) (sel : Acq → Bool) :
    frame (trigAcqs s p sel) = frame s := by
  simp [trigAcqs]

@[simp] theorem emitCapture_frame (s : State) (q : Fin 16) (siteEn : BitVec 256) (cyc : BitVec 48) (user :
    BitVec 16) (tag : Word) (stale : Bool) (vals : BitVec 128) :
      frame (emitCapture s q siteEn cyc user tag stale vals) = frame s := by
  simp [emitCapture]

@[simp] theorem emitFails_frame (s : State) (q : Fin 16) (siteEn : BitVec 256) (v : LateVec) (stale : Bool)
    (outs : Vector JOut 64) : frame (emitFails s q siteEn v stale outs) = frame s := by
  simp [emitFails]

@[simp] theorem trigger_frame (s : State) (q : Fin 16) (siteEn : BitVec 256) (outs : Vector JOut 64) :
    frame (trigger s q siteEn outs).1 = frame s := by
  unfold trigger
  dsimp only
  (repeat' split) <;> simp

@[simp] theorem emitPre_frame (s : State) (q : Fin 16) (siteEn : BitVec 256) :
    frame (emitPre s q siteEn) = frame s := by
  simp [emitPre]

@[simp] theorem emitTrig_frame (s : State) (q : Fin 16) (v : LateVec) (stale : Bool) (j : Fin 16) :
    frame (emitTrig s q v stale j) = frame s := by
  simp [emitTrig]

@[simp] theorem emitMarks_frame (s : State) (v : LateVec) (x : LatePlz) :
    frame (emitMarks s v x) = frame s := by
  unfold emitMarks
  dsimp only
  rw [frame_foldl _ (fun _ _ => fqMarker_frame _ _ _ _ _ _ _ _)]
  split <;> simp

@[simp] theorem judgePlaza_frame (s : State) (p : Fin 16) (v : LateVec) (x : LatePlz) :
    frame (judgePlaza s p v x).1 = frame s := by
  unfold judgePlaza
  extract_lets q en chans outs s1 w suppr s2 tr s3 s4 s5 s6 c take vals s7 s8 h s9 s10
  have e2 : frame s2 = frame s :=
    (account_frame _ _ _ _ _).trans (modPlz_frame _ _ _ (fun _ => rfl) (fun _ => rfl))
  have e3 : frame s3 = frame s := by
    simp only [s3, tr]
    split <;> simp [e2]
  have e4 : frame s4 = frame s := by simp only [s4]; split <;> simp [e3]
  have e5 : frame s5 = frame s := (emitMarks_frame _ _ _).trans e4
  have e6 : frame s6 = frame s := by simp only [s6]; split <;> simp [e5]
  have e7 : frame s7 = frame s := by simp only [s7]; split <;> simp [e6]
  have e8 : frame s8 = frame s := by simp only [s8]; split <;> simp [e7]
  have e9 : frame s9 = frame s := by simp only [s9]; split <;> simp [e8]
  exact (massFail_frame _ _ _ _).trans e9

@[simp] theorem putPlayed_frame (s : State) (p : Fin 16) (v : LateVec) (fails : BitVec 256) :
    frame (putPlayed s p v fails) = frame s := by
  unfold putPlayed
  dsimp only
  split <;> simp

@[simp] theorem judgeLate_frame (s : State) (p : Fin 16) (x : Late) : frame (judgeLate s p x) = frame s := by
  cases x with
  | gap first n stales => exact frame_foldl _ (fun _ _ => fqHoldGap_frame _ _ _ _ _) _ _
  | vec v =>
    simp only [judgeLate, putPlayed_frame]
    rw [frame_foldl_fst]
    · split <;> simp
    · intro a b
      exact judgePlaza_frame _ _ _ _

@[simp] theorem judgeN_frame (s : State) (p : Fin 16) (n : Nat) : frame (judgeN s p n) = frame s := by
  unfold judgeN
  exact (frame_foldl _ (fun _ _ => judgeLate_frame _ _ _) _ _).trans (modRun_frame _ _ _)

@[simp] theorem judgeDue_frame (s : State) (p : Fin 16) : frame (judgeDue s p) = frame s := by
  simp [judgeDue]

@[simp] theorem judgeAll_frame (s : State) (p : Fin 16) : frame (judgeAll s p) = frame s := by
  simp [judgeAll]

@[simp] theorem holdGaps_frame (s : State) (p : Fin 16) : frame (holdGaps s p) = frame s := by
  unfold holdGaps
  dsimp only
  split <;> simp

/-! ### Runs -/

@[simp] theorem dropFill_frame (s : State) (id : OpId) : frame (dropFill s id) = frame s := by
  simp [dropFill]

@[simp] theorem popAll_frame (s : State) (p : Fin 16) : frame (popAll s p) = frame s := by
  simp [popAll]

@[simp] theorem markSeen_frame (s : State) (p : Fin 16) (mid : BitVec 16) : frame (markSeen s p mid) = frame s
    := by
  unfold markSeen
  rw [modAwg_frame]
  · simp
  · intro a
    split <;> rfl

@[simp] theorem armRun_frame (s : State) (p : Fin 16) (id : OpId) (d : List Word) :
    frame (armRun s p id d) = frame s := by
  simp [armRun]

@[simp] theorem armNext_frame (l : List OpId) (s : State) (p : Fin 16) : frame (armNext l s p) = frame s := by
  induction l generalizing s with
  | nil => simp [armNext]
  | cons id r ih =>
    unfold armNext
    (repeat' split) <;> simp [ih]

@[simp] theorem takeAct_frame (s : State) (p : Fin 16) (c : BitVec 48) (u : BitVec 16) (t : Word) (a : Act) :
    frame (takeAct s p c u t a) = frame s := by
  cases a <;> simp only [takeAct, fire_frame, clearFlags_frame] <;> rw [frame_foldl] <;> intros <;> simp

@[simp] theorem jumpDone_frame (s : State) (p : Fin 16) (cycle : BitVec 64) :
    frame (jumpDone s p cycle) = frame s := by
  unfold jumpDone
  split <;> simp

@[simp] theorem closeRun_frame (s : State) (p : Fin 16) (status : BitVec 8) :
    frame (closeRun s p status) = frame s := by
  simp [closeRun]

@[simp] theorem endRun_frame (s : State) (p : Fin 16) (status : BitVec 8) (quiet : Bool) :
    frame (endRun s p status quiet) = frame s := by
  unfold endRun
  dsimp only
  (repeat' split) <;> simp

/-! ### Measurement -/

@[simp] theorem modRec_frame (s : State) (slot : Nat) (f : Rec → Rec) : frame (modRec s slot f) = frame s := by
  simp [modRec]

@[simp] theorem setForce_frame (s : State) (c : Fin 1024) (force : Int) : frame (setForce s c force) = frame s
    := by
  simp [setForce]

@[simp] theorem pmuForce_frame (s : State) (d : List Word) : frame (pmuForce s d) = frame s := by
  simp [pmuForce]

@[simp] theorem maskTakes_frame (s : State) (a : Acq) : frame (maskTakes s a) = frame s := by
  simp [maskTakes]

@[simp] theorem startConv_frame (s : State) (id : OpId) : frame (startConv s id) = frame s := by
  unfold startConv
  split <;> simp

@[simp] theorem pumpList_frame (l : List OpId) (w : List Nat) (s : State) : frame (pumpList l w s) = frame s
    := by
  induction l generalizing s w with
  | nil => rfl
  | cons id r ih =>
    unfold pumpList
    dsimp only
    (repeat' split) <;> simp [ih]

@[simp] theorem pumpConv_frame (s : State) : frame (pumpConv s) = frame s := by
  simp [pumpConv]

@[simp] theorem maskEnd_frame (s : State) (a : Acq) (handle : Word) (xs : List Sample) :
    frame (maskEnd s a handle xs) = frame s := by
  unfold maskEnd
  split <;> simp

@[simp] theorem dgStarting_frame (s : State) (p : Fin 16) : frame (dgStarting s p) = frame s := by
  simp [dgStarting]

@[simp] theorem dropAcq_frame (s : State) (id : OpId) : frame (dropAcq s id) = frame s := by
  simp [dropAcq]

@[simp] theorem killAcq_frame (s : State) (a : Acq) (status : BitVec 8) : frame (killAcq s a status) = frame s
    := by
  simp [killAcq]

@[simp] theorem killAcqs_frame (s : State) (sel : Acq → Bool) : frame (killAcqs s sel) = frame s := by
  simp [killAcqs]

@[simp] theorem endConvs_frame (s : State) (sel : Op → Bool) : frame (endConvs s sel) = frame s := by
  unfold endConvs
  extract_lets gone s1
  refine (finishAll_frame _ _ _).trans (Eq.trans rfl (frame_foldl _ (fun s x => ?_) _ _))
  split
  · split <;> simp
  · rfl

@[simp] theorem modMeas_frame (s : State) (n : Fin 64) (f : TmuMeas → TmuMeas) :
    frame (modMeas s n f) = frame s := by
  simp [modMeas]

@[simp] theorem tmuRef_frame (s : State) (n : Fin 64) : frame (tmuRef s n) = frame s := by
  unfold tmuRef
  split <;> simp

@[simp] theorem tmuArmNow_frame (s : State) (n : Fin 64) : frame (tmuArmNow s n) = frame s := by
  unfold tmuArmNow
  split <;> simp

@[simp] theorem tmuBegin_frame (s : State) (n : Fin 64) (id : OpId) (slot : Nat) (d : List Word) :
    frame (tmuBegin s n id slot d) = frame s := by
  simp [tmuBegin]

@[simp] theorem tmuNext_frame (l : List OpId) (s : State) (p : Fin 64) : frame (tmuNext l s p) = frame s := by
  induction l generalizing s with
  | nil => simp [tmuNext]
  | cons id r ih =>
    unfold tmuNext
    (repeat' split) <;> simp [ih]

@[simp] theorem tmuLeave_frame (s : State) (n : Fin 64) : frame (tmuLeave s n) = frame s := by
  simp [tmuLeave]

@[simp] theorem tmuKill_frame (s : State) (n : Fin 64) (status : BitVec 8) :
    frame (tmuKill s n status) = frame s := by
  unfold tmuKill
  split <;> simp

@[simp] theorem tmuQuit_frame (s : State) (n : Fin 64) (status : BitVec 8) :
    frame (tmuQuit s n status) = frame s := by
  unfold tmuQuit
  refine (tmuKill_frame _ _ _).trans ((modTmu_frame _ _ _ (by intros; rfl)).trans (frame_foldl _ (fun s x => ?_) _ _))
  split
  · split <;> simp
  · rfl

@[simp] theorem intervalVal_frame (s : State) (d : List Word) (xs : List Stamp) :
    frame (intervalVal s d xs).2 = frame s := by
  unfold intervalVal
  dsimp only
  (repeat' split) <;> simp

@[simp] theorem freqVal_frame (s : State) (d : List Word) (xs : List Stamp) :
    frame (freqVal s d xs).2 = frame s := by
  unfold freqVal
  dsimp only
  split <;> simp

@[simp] theorem tmuEnd_frame (s : State) (n : Fin 64) (part : Bool) : frame (tmuEnd s n part) = frame s := by
  unfold tmuEnd
  dsimp only
  (repeat' split) <;> simp

/-! ### Monitor ADCs -/

@[simp] theorem applyMon_frame (s : State) (id : OpId) (d : List Word) : frame (applyMon s id d) = frame s := by
  simp [applyMon]

@[simp] theorem calOpens_frame (s : State) (k : CalKey) : frame (calOpens s k) = frame s := by
  unfold calOpens
  split <;> simp

@[simp] theorem calCloses_frame (s : State) (k : CalKey) : frame (calCloses s k) = frame s := by
  unfold calCloses
  split <;> simp

@[simp] theorem startMon_frame (s : State) (id : OpId) : frame (startMon s id) = frame s := by
  unfold startMon
  dsimp only
  (repeat' split) <;> simp

@[simp] theorem pumpMonList_frame (l : List OpId) (w : List Nat) (s : State) :
    frame (pumpMonList l w s) = frame s := by
  induction l generalizing s w with
  | nil => rfl
  | cons id r ih =>
    unfold pumpMonList
    dsimp only
    (repeat' split) <;> simp [ih]

@[simp] theorem pumpMon_frame (s : State) : frame (pumpMon s) = frame s := by
  simp [pumpMon]

@[simp] theorem leaveMon_frame (s : State) (id : OpId) : frame (leaveMon s id) = frame s := by
  simp [leaveMon, frame_foldl]

/-! ### Raster engines -/

@[simp] theorem commitNow_frame (s : State) (k : Fin 4) : frame (commitNow s k) = frame s := by
  simp [commitNow]

@[simp] theorem endRe_frame (s : State) (k : Fin 4) (st : BitVec 8) : frame (endRe s k st) = frame s := by
  simp [endRe]

@[simp] theorem endStreams_frame (s : State) (p : Fin 16) (status : BitVec 8) :
    frame (endStreams s p status) = frame s := by
  simp [endStreams]

@[simp] theorem endMapped_frame (s : State) (p : Fin 16) : frame (endMapped s p) = frame s := by
  simp [endMapped]

/-! ### Port M -/

@[simp] theorem coreReadFails_frame (s : State) : frame (coreReadFails s) = frame s := by
  simp [coreReadFails]

@[simp] theorem failViews_frame (s : State) : frame (failViews s) = frame s := by
  simp [failViews]

@[simp] theorem failCoreViews_frame (s : State) : frame (failCoreViews s) = frame s := by
  simp [failCoreViews]

@[simp] theorem serveView_frame (s : State) (r : ViewRead) : frame (serveView s r) = frame s := by
  simp [serveView]

@[simp] theorem releaseSel_frame (s : State) : frame (releaseSel s) = frame s := by
  simp [releaseSel]

@[simp] theorem fetchClks_frame (s : State) (f : PmFetch) (mode modes n : Nat) :
    frame (fetchClks s f mode modes n).2 = frame s := by
  simp [fetchClks]

@[simp] theorem endOmit_frame (s : State) : frame (endOmit s) = frame s := by
  unfold endOmit
  split <;> simp

@[simp] theorem serveBlank_frame (s : State) : frame (serveBlank s) = frame s := by
  unfold serveBlank
  dsimp only
  split
  · exact (frame_foldl _ (fun _ _ => serveView_frame _ _) _ _).trans rfl
  · rfl

@[simp] theorem startFill_frame (s : State) : frame (startFill s) = frame s := by
  unfold startFill
  extract_lets s1
  have e1 : frame s1 = frame s := serveBlank_frame s
  split
  · exact e1
  · split
    · rename_i r _ _ _
      exact Eq.trans (fetchClks_frame s1 (viewFetch s1 (r.addr / 64 * 64)) s1.pm.mode.toNat s1.pm.rd.modes 0) e1
    · exact e1

@[simp] theorem startXfer_frame (s : State) (id : OpId) : frame (startXfer s id) = frame s := by
  unfold startXfer
  split
  · rfl
  · extract_lets d sel us wave waits s1 first wave' s2
    have e1 : frame s1 = frame s := by
      simp only [s1]
      split <;> simp
    split
    · exact Eq.trans rfl e1
    · exact Eq.trans rfl e1

@[simp] theorem endXfer_frame (s : State) (o : Op) : frame (endXfer s o) = frame s := by
  unfold endXfer
  dsimp only
  split <;> simp

@[simp] theorem pumpPm_frame (s : State) : frame (pumpPm s) = frame s := by
  unfold pumpPm
  dsimp only
  (repeat' split) <;> simp

@[simp] theorem closeXfer_frame (s : State) (o : Op) (r : PmRun) (st : BitVec 8) (entry : Nat) :
    frame (closeXfer s o r st entry) = frame s := by
  simp [closeXfer]

@[simp] theorem doomXfer_frame (s : State) (status : BitVec 8) : frame (doomXfer s status) = frame s := by
  unfold doomXfer
  dsimp only
  (repeat' split) <;> simp

@[simp] theorem pmFault_frame (s : State) : frame (pmFault s) = frame s := by
  unfold pmFault
  dsimp only
  split <;> simp

@[simp] theorem pmStopping_frame (s : State) : frame (pmStopping s) = frame s := by
  simp [pmStopping]

@[simp] theorem pmOff_frame (s : State) (stopped : Bool) : frame (pmOff s stopped) = frame s := by
  unfold pmOff
  dsimp only
  split <;> simp

@[simp] theorem pmStarting_frame (s : State) : frame (pmStarting s) = frame s := by
  simp [pmStarting]

@[simp] theorem basicTable_frame (s : State) (bs : List Byte) : frame (basicTable s bs).2 = frame s := by
  unfold basicTable
  dsimp only
  (repeat' split) <;> simp

@[simp] theorem flashKib_frame (s : State) (t : List Byte) : frame (flashKib s t).2 = frame s := by
  unfold flashKib
  split <;> simp

@[simp] theorem quadUsable_frame (s : State) (t : List Byte) : frame (quadUsable s t).2 = frame s := by
  unfold quadUsable
  split <;> simp

@[simp] theorem pmOn_frame (s : State) : frame (pmOn s) = frame s := by
  unfold pmOn
  dsimp only
  split <;> simp

/-! ### Engines -/

@[simp] theorem idleCheck_frame (s : State) : frame (idleCheck s) = frame s := by
  simp [idleCheck]

@[simp] theorem leaveIdle_frame (s : State) : frame (leaveIdle s) = frame s := by
  simp [leaveIdle]

@[simp] theorem noteSpans_frame (s : State) (e : Eng) : frame (noteSpans s e) = frame s := by
  unfold noteSpans
  split <;> simp

@[simp] theorem faultMeas_frame (s : State) (p : Fin 16) : frame (faultMeas s p) = frame s := by
  unfold faultMeas
  refine (pumpConv_frame _).trans ((frame_foldl _ (fun s n => ?_) _ _).trans (by simp))
  split <;> simp

@[simp] theorem faultProcs_frame (s : State) (e : Eng) : frame (faultProcs s e) = frame s := by
  unfold faultProcs
  dsimp only
  (repeat' split) <;> simp

@[simp] theorem faultActs_frame (s : State) (e : Eng) : frame (faultActs s e) = frame s := by
  unfold faultActs
  split <;> simp

@[simp] theorem stopActs_frame (s : State) (e : Eng) : frame (stopActs s e) = frame s := by
  unfold stopActs
  split <;> simp

@[simp] theorem leaveOn_frame (s : State) (e : Eng) : frame (leaveOn s e) = frame s := by
  unfold leaveOn
  split <;> simp

@[simp] theorem startActs_frame (s : State) (e : Eng) : frame (startActs s e) = frame s := by
  unfold startActs
  split <;> simp

@[simp] theorem onActs_frame (s : State) (e : Eng) : frame (onActs s e) = frame s := by
  unfold onActs
  split <;> simp

@[simp] theorem offActs_frame (s : State) (e : Eng) (stopped : Bool) : frame (offActs s e stopped) = frame s
    := by
  unfold offActs
  split <;> simp

/-! ### Abandoned operations -/

@[simp] theorem dropAcqOp_frame (s : State) (o : Op) (st : BitVec 8) : frame (dropAcqOp s o st) = frame s := by
  unfold dropAcqOp
  split <;> simp

@[simp] theorem dropTmuOp_frame (s : State) (o : Op) (d : List Word) (st : BitVec 8) :
    frame (dropTmuOp s o d st) = frame s := by
  unfold dropTmuOp
  dsimp only
  split <;> simp

@[simp] theorem dropSeqJump_frame (s : State) (o : Op) (st : BitVec 8) : frame (dropSeqJump s o st) = frame s
    := by
  simp [dropSeqJump]

/-! ### Contexts -/

@[simp] theorem clearLatches_frame (s : State) (n : Fin 64) : frame (clearLatches s n) = frame s := by
  simp [clearLatches]

@[simp] theorem disableLane_frame (s : State) (n : Fin 64) : frame (disableLane s n) = frame s := by
  simp [disableLane]

@[simp] theorem releaseRes_frame (s : State) (r : Res) : frame (releaseRes s r) = frame s := by
  unfold releaseRes
  split <;> simp

@[simp] theorem closeAcqs_frame (s : State) (c : CtxId) (ops : List Op) : frame (closeAcqs s c ops) = frame s
    := by
  unfold closeAcqs
  (repeat' split) <;> simp

@[simp] theorem eventGone_frame (s : State) (r : EqRec) : frame (eventGone s r) = frame s := by
  simp [eventGone]

@[simp] theorem dropEq_frame (s : State) (c : CtxId) : frame (dropEq s c) = frame s := by
  simp [dropEq]

@[simp] theorem postMoved_frame (s : State) (r : EqRec) : frame (postMoved s r) = frame s := by
  simp [postMoved]

@[simp] theorem moveEq_frame (s : State) (c : CtxId) : frame (moveEq s c) = frame s := by
  simp [moveEq]

end Sys2Proof.Machine
end

section
/-! SUPPORT. The block state machine by its effect on the cores of the engines: what starts, stops, faults and requests make
of each core (01_architecture, R24 to R27 and R41 to R46). -/

namespace Sys2Proof.Machine

/-! ### What reads the engines only -/

theorem getEng_congr {s t : State} (h : engines t = engines s) (e : Eng) : getEng t e = getEng s e := by
  cases e with
  | plaza p => exact congrArg (fun E => (E.plz p).1) h
  | dps n => exact congrArg (fun E => E.dps n) h
  | awg p => exact congrArg (fun E => E.awg p) h
  | dg p => exact congrArg (fun E => E.dg p) h
  | tmu n => exact congrArg (fun E => E.tmu n) h
  | re k => exact congrArg (fun E => E.re k) h
  | portM => exact congrArg Engines.portM h

/-! ### A change of one core -/

theorem getEng_modEng_same (s : State) (e : Eng) (f : EngCore → EngCore) : getEng (modEng s e f) e = f (getEng s e) := by
  cases e with
  | portM => rfl
  | _ => simp [getEng, modEng, modPlz, modDps, modAwg, modDg, modTmu, modRe]

theorem getEng_modEng_other (s : State) {e x : Eng} (f : EngCore → EngCore) (h : x ≠ e) :
    getEng (modEng s e f) x = getEng s x := by
  cases e with
  | plaza p =>
    cases x with
    | plaza q => exact congrArg Plaza.eng (upd_other _ _ _ _ fun hq => h (congrArg Eng.plaza hq))
    | _ => rfl
  | dps n =>
    cases x with
    | dps k => exact congrArg Dps.eng (upd_other _ _ _ _ fun hq => h (congrArg Eng.dps hq))
    | _ => rfl
  | awg p =>
    cases x with
    | awg q => exact congrArg Awg.eng (upd_other _ _ _ _ fun hq => h (congrArg Eng.awg hq))
    | _ => rfl
  | dg p =>
    cases x with
    | dg q => exact congrArg Dg.eng (upd_other _ _ _ _ fun hq => h (congrArg Eng.dg hq))
    | _ => rfl
  | tmu n =>
    cases x with
    | tmu k => exact congrArg Tmu.eng (upd_other _ _ _ _ fun hq => h (congrArg Eng.tmu hq))
    | _ => rfl
  | re k =>
    cases x with
    | re j => exact congrArg Re.eng (upd_other _ _ _ _ fun hq => h (congrArg Eng.re hq))
    | _ => rfl
  | portM =>
    cases x with
    | portM => exact absurd rfl h
    | _ => rfl

theorem upd_id {α : Type} {n : Nat} (v : Vector α n) (i : Fin n) : upd v i (fun a => a) = v := by
  ext j hj
  exact (upd_get v i ⟨j, hj⟩ _).trans (ite_self _)

theorem modEng_id (s : State) (e : Eng) : modEng s e (fun c => c) = s := by
  cases e with
  | portM => rfl
  | _ => simp only [modEng, modPlz, modDps, modAwg, modDg, modTmu, modRe, upd_id]

/-- One change to each of several engines, where making it twice makes no difference. -/
theorem getEng_foldl_modEng (f : EngCore → EngCore) (hf : ∀ c, f (f c) = f c) (l : List Eng) (s : State) (x : Eng) :
    getEng (l.foldl (fun s y => modEng s y f) s) x = if x ∈ l then f (getEng s x) else getEng s x := by
  induction l generalizing s with
  | nil => simp
  | cons y l ih =>
    rw [List.foldl_cons, ih]
    by_cases h : x = y
    · subst h
      simp [getEng_modEng_same, hf]
    · simp [getEng_modEng_other _ _ h, h]

theorem getEng_foldl_mem (f : EngCore → EngCore) (hf : ∀ c, f (f c) = f c) {l : List Eng} {x : Eng} (h : x ∈ l)
    (s : State) : getEng (l.foldl (fun s y => modEng s y f) s) x = f (getEng s x) :=
  (getEng_foldl_modEng f hf l s x).trans (if_pos h)

/-! ### Link sets -/

theorem mem_together (s : State) (e : Eng) : e ∈ together s e := by
  cases e with
  | plaza p =>
    refine List.mem_map_of_mem ?_
    unfold setOf
    split <;> simp
  | _ => exact List.mem_singleton.mpr rfl

theorem plaza_mem_together {s : State} {p q : Fin 16} : Eng.plaza q ∈ together s (.plaza p) ↔ q ∈ setOf s p := by
  simp [together]

theorem leaderOf_of_mem_setOf {s : State} {p q : Fin 16} (hp : (s.plz[p]).cfg.linked = false) (hq : q ∈ setOf s p) :
    leaderOf s q = p := by
  rw [setOf, if_neg (ne_true_of_eq_false hp), List.mem_cons] at hq
  obtain rfl | hq := hq
  · exact if_neg (ne_true_of_eq_false hp)
  · obtain ⟨⟨hl, hp⟩, -⟩ := by simpa [ixs, -Fin.getElem_fin] using hq
    exact (if_pos hl).trans hp

/-! ### Starting -/

theorem getEng_startEng_self (s : State) (e : Eng) (ops : List OpId) : getEng (startEng s e ops) e =
    { getEng s e with st := .starting, offCycle := false, startOps := ops, heldOps := [] } := by
  unfold startEng
  rw [getEng_congr (engines_of_frame (frame_foldl _ startActs_frame _ _)), getEng_modEng_same,
    getEng_foldl_mem _ ?_ (mem_together s e)]
  intros
  rfl

theorem startEng_starting {s : State} {e x : Eng} (ops : List OpId) (h : x ∈ together s e) :
    (getEng (startEng s e ops) x).st = .starting := by
  by_cases hx : x = e
  · subst hx
    rw [getEng_startEng_self]
  · unfold startEng
    rw [getEng_congr (engines_of_frame (frame_foldl _ startActs_frame _ _)), getEng_modEng_other _ _ hx,
      getEng_foldl_mem _ ?_ h]
    intros
    rfl

theorem getEng_startDone_self {s : State} {e : Eng} (hSt : (getEng s e).st = .starting) (hM : isMember s e = false)
    (hR : startReady s e = true) : getEng (startDone s e) e = { getEng s e with st := .on, startOps := [] } := by
  unfold startDone
  rw [if_pos (by simp [hSt, hM, hR])]
  dsimp only
  rw [getEng_congr (engines_of_frame ((finishAll_frame _ _ _).trans (frame_foldl _ onActs_frame _ _))), getEng_modEng_same]
  exact congrArg (fun c : EngCore => { c with startOps := [] })
    (getEng_foldl_mem (fun c => { c with st := .on }) (fun _ => rfl) (mem_together s e) s)

theorem startDone_on {s : State} {e x : Eng} (hSt : (getEng s e).st = .starting) (hM : isMember s e = false)
    (hR : startReady s e = true) (h : x ∈ together s e) : (getEng (startDone s e) x).st = .on := by
  by_cases hx : x = e
  · subst hx
    rw [getEng_startDone_self hSt hM hR]
  · unfold startDone
    rw [if_pos (by simp [hSt, hM, hR])]
    dsimp only
    rw [getEng_congr (engines_of_frame ((finishAll_frame _ _ _).trans (frame_foldl _ onActs_frame _ _))),
      getEng_modEng_other _ _ hx]
    exact congrArg EngCore.st (getEng_foldl_mem (fun c => { c with st := .on }) (fun _ => rfl) h s)

/-! ### Stopping -/

theorem stopEng_engines (s : State) (e : Eng) (ops : List OpId) : engines (stopEng s e ops) =
    engines (modEng ((together s e).foldl (fun s x => modEng s x fun c => { c with st := .stopping }) s) e
      fun c => { c with startOps := [], stopOps := c.stopOps ++ ops }) := by
  refine engines_of_frame ((frame_foldl _ stopActs_frame _ _).trans ?_)
  split
  · exact (leaveOn_frame _ _).trans (finishAll_frame _ _ _)
  · exact finishAll_frame _ _ _

theorem stopEng_stopping {s : State} {e x : Eng} (ops : List OpId) (h : x ∈ together s e) :
    (getEng (stopEng s e ops) x).st = .stopping := by
  rw [getEng_congr (stopEng_engines s e ops)]
  by_cases hx : x = e
  · subst hx
    rw [getEng_modEng_same, getEng_foldl_mem _ ?_ h]
    intros
    rfl
  · rw [getEng_modEng_other _ _ hx, getEng_foldl_mem _ ?_ h]
    intros
    rfl

theorem offEng_engines (s : State) (e : Eng) (b : Bool) : engines (offEng s e b) =
    engines (modEng ((together s e).foldl (fun s x => modEng s x fun c => { c with st := .off }) s) e
      fun c => { c with stopOps := [] }) :=
  engines_of_frame ((finishAll_frame _ _ _).trans (frame_foldl _ (fun _ _ => offActs_frame _ _ _) _ _))

theorem getEng_offEng_self (s : State) (e : Eng) (b : Bool) :
    getEng (offEng s e b) e = { getEng s e with st := .off, stopOps := [] } := by
  rw [getEng_congr (offEng_engines s e b), getEng_modEng_same, getEng_foldl_mem _ ?_ (mem_together s e)]
  intros
  rfl

theorem offEng_off {s : State} {e x : Eng} (b : Bool) (h : x ∈ together s e) : (getEng (offEng s e b) x).st = .off := by
  by_cases hx : x = e
  · subst hx
    rw [getEng_offEng_self]
  · rw [getEng_congr (offEng_engines s e b), getEng_modEng_other _ _ hx, getEng_foldl_mem _ ?_ h]
    intros
    rfl

theorem offFaulted_self (s : State) (e : Eng) : getEng (offFaulted s e) e = getEng s e := by
  refine foldl_keeps (fun s => getEng s e) (fun s x => ?_) (together s e) s
  by_cases hx : x = e
  · subst hx
    simp
  · split
    · rw [getEng_congr (engines_of_frame (offActs_frame _ _ _))]
      exact getEng_modEng_other _ _ (Ne.symm hx)
    · rfl

/-! ### Boot and contexts -/

@[simp] theorem parkAll_frame (s : State) : frame (parkAll s) = frame s := by
  simp [parkAll]

@[simp] theorem recover_frame (s : State) : frame (recover s) = frame s := by
  simp [recover]

@[simp] theorem trySecond_frame (s : State) : frame (trySecond s) = frame s := by
  unfold trySecond
  dsimp only
  split <;> simp [startFw]

@[simp] theorem bootTry_frame (s : State) : frame (bootTry s) = frame s := by
  unfold bootTry
  dsimp only
  (repeat' split) <;> simp [startFw]

@[simp] theorem bootHook_frame (s : State) (e : Eng) : frame (bootHook s e) = frame s := by
  simp [bootHook]

/-- Detaching a ring takes it from the rings and leaves the rest of the frame. -/
theorem detachRing_frame (s : State) (n : RingId) :
    frame (detachRing s n) = ⟨s.hif, s.rings.filter fun x => x.num != n, engines s⟩ := by
  unfold detachRing
  split
  next h =>
    have hAll : s.rings.filter (fun x => x.num != n) = s.rings := List.filter_eq_self.mpr fun r hr =>
      bne_iff_ne.mpr fun hn => List.find?_eq_none.mp h r hr (beq_iff_eq.mpr hn)
    rw [hAll, frame_fold]
  next r _ =>
    extract_lets t
    have ht : frame t = frame s := by
      simp only [t]
      split <;> simp
    exact congrArg (fun F : Frame => (⟨F.hif, F.rings.filter fun x => x.num != n, F.engines⟩ : Frame)) ht

theorem detachRing_engines (s : State) (n : RingId) : engines (detachRing s n) = engines s :=
  congrArg Frame.engines (detachRing_frame s n)

theorem finishClose_engines (s : State) (x : Ctx) (op : Option OpId) : engines (finishClose s x op) = engines s := by
  unfold finishClose
  extract_lets s1 dram s2 s3 s4
  have h1 : engines s1 = engines s := by
    simp only [s1]
    split
    · rfl
    · exact foldl_keeps engines detachRing_engines _ _
  have h2 : engines s2 = engines s := by
    refine Eq.trans ?_ h1
    simp only [s2]
    split
    · rfl
    · exact engines_of_frame (moveEq_frame _ _)
  have h4 : engines s4 = engines s :=
    (engines_of_frame (frame_foldl _ releaseRes_frame x.held s2)).trans h2
  split
  · exact (engines_of_frame (completeOp_frame _ _ _ _)).trans h4
  · exact h4

theorem closeCheck_engines (s : State) : engines (closeCheck s) = engines s := by
  refine foldl_keeps engines (fun s x => ?_) s.ctxs s
  split
  · split
    · exact finishClose_engines _ _ _
    · rfl
  · rfl

/-! ### Faults -/

/-- The engines that enter FAULT with some of them, each with its code: those named, and the Plazas that follow them (R27). -/
def faulted (s : State) (es : List (Eng × BitVec 8)) : List (Eng × BitVec 8) :=
  let now := es.filter fun x => (getEng s x.1).st != .fault
  let heads := (now.map fun x => headOf s x.1).eraseDups.filter fun h =>
    match h with
    | .plaza p => (getEng s (.plaza p)).st != .off || (getEng s (.plaza p)).offCycle
    | _ => false
  let follow := (heads.flatMap (together s)).eraseDups.filter fun x =>
    (getEng s x).st != .fault && !(now.any fun y => y.1 == x)
  now ++ follow.map fun x => (x, fcLinkSet)

/-- A list of engines takes FAULT in its cores. -/
def faultCores (s : State) (l : List (Eng × BitVec 8)) (st : BitVec 8) : State :=
  l.foldl (fun s x => faultCore s x.1 x.2 st) s

theorem faultMany_engines (s : State) (es : List (Eng × BitVec 8)) (st : BitVec 8) (rep : Eng → Bool) :
    engines (faultMany s es st rep) = engines (faultCores s (faulted s es) st) := by
  refine engines_of_frame ((frame_foldl _ (fun s x => ?_) _ _).trans
    ((frame_foldl _ (fun _ _ => faultActs_frame _ _) _ _).trans (frame_foldl _ leaveOn_frame _ _)))
  split
  · exact report_frame _ _ _
  · rfl

theorem getEng_faultCore_same (s : State) (e : Eng) (code st : BitVec 8) : getEng (faultCore s e code st) e =
    { getEng s e with st := .fault, faultCode := code,
                      timedOut := (getEng s e).timedOut || st == eTimeout && code == fcTimeout,
                      offCycle := false, startOps := [], heldOps := [] } := by
  unfold faultCore
  rw [getEng_congr (engines_of_frame ((finishAll_frame _ _ _).trans (finishAll_frame _ _ _))), getEng_modEng_same]

theorem getEng_faultCore_other (s : State) {e x : Eng} (code st : BitVec 8) (h : x ≠ e) :
    getEng (faultCore s e code st) x = getEng s x := by
  unfold faultCore
  rw [getEng_congr (engines_of_frame ((finishAll_frame _ _ _).trans (finishAll_frame _ _ _))), getEng_modEng_other _ _ h]

/-- The core after a FAULT with a code, `st` the status of the descriptors it ends. -/
def EngCore.InFault (c : EngCore) (code st : BitVec 8) : Prop :=
  c.st = .fault ∧ c.faultCode = code ∧ (st = eTimeout → code = fcTimeout → c.timedOut = true) ∧ c.startOps = [] ∧
    c.heldOps = []

theorem faultCore_inFault (s : State) (e : Eng) (code st : BitVec 8) :
    (getEng (faultCore s e code st) e).InFault code st := by
  rw [getEng_faultCore_same]
  exact ⟨rfl, rfl, fun hs hc => by simp [hs, hc], rfl, rfl⟩

theorem faultCores_keeps_inFault {e : Eng} {code st : BitVec 8} (l : List (Eng × BitVec 8))
    (hl : ∀ x ∈ l, x.1 = e → x.2 = code) (s : State) (hs : (getEng s e).InFault code st) :
    (getEng (faultCores s l st) e).InFault code st := by
  induction l generalizing s with
  | nil => exact hs
  | cons x l ih =>
    refine ih (fun y hy => hl y (List.mem_cons_of_mem _ hy)) _ ?_
    by_cases hx : x.1 = e
    · dsimp only
      rw [hl x List.mem_cons_self hx, hx]
      exact faultCore_inFault _ _ _ _
    · rw [getEng_faultCore_other _ _ _ (Ne.symm hx)]
      exact hs

theorem faultCores_inFault {e : Eng} {code : BitVec 8} (st : BitVec 8) (l : List (Eng × BitVec 8)) (h : (e, code) ∈ l)
    (hl : ∀ x ∈ l, x.1 = e → x.2 = code) (s : State) : (getEng (faultCores s l st) e).InFault code st := by
  induction l generalizing s with
  | nil => cases h
  | cons x l ih =>
    obtain rfl | h := List.mem_cons.mp h
    · exact faultCores_keeps_inFault l (fun y hy => hl y (List.mem_cons_of_mem _ hy)) _ (faultCore_inFault _ _ _ _)
    · exact ih h (fun y hy => hl y (List.mem_cons_of_mem _ hy)) _

theorem faultCores_fault (l : List (Eng × BitVec 8)) (st : BitVec 8) (s : State) (e : Eng)
    (h : (getEng s e).st = .fault ∨ ∃ x ∈ l, x.1 = e) : (getEng (faultCores s l st) e).st = .fault := by
  induction l generalizing s with
  | nil => exact h.resolve_right (by simp)
  | cons x l ih =>
    refine ih _ ?_
    by_cases hx : x.1 = e
    · left
      rw [← hx, getEng_faultCore_same]
    · rw [getEng_faultCore_other _ _ _ (Ne.symm hx)]
      exact h.imp_right fun ⟨y, hy, hye⟩ => ⟨y, (List.mem_cons.mp hy).resolve_left fun h => hx (h ▸ hye), hye⟩

theorem mem_faulted_of_named {s : State} {es : List (Eng × BitVec 8)} {x : Eng × BitVec 8} (hx : x ∈ es)
    (h : (getEng s x.1).st ≠ .fault) : x ∈ faulted s es :=
  List.mem_append_left _ (List.mem_filter.mpr ⟨hx, bne_iff_ne.mpr h⟩)

/-- An engine that is named enters FAULT under the codes it is named with only. -/
theorem mem_faulted_named {s : State} {es : List (Eng × BitVec 8)} {x y : Eng × BitVec 8} (hx : x ∈ es)
    (hy : y ∈ faulted s es) (h : y.1 = x.1) : y ∈ es := by
  obtain hy | hy := List.mem_append.mp hy
  · exact (List.mem_filter.mp hy).1
  · obtain ⟨z, hz, rfl⟩ := List.mem_map.mp hy
    obtain ⟨-, hz⟩ := List.mem_filter.mp hz
    obtain ⟨hNot, hAny⟩ := Bool.and_eq_true_iff.mp hz
    have hNow : x ∈ es.filter fun x => (getEng s x.1).st != .fault := List.mem_filter.mpr ⟨hx, by rw [← h]; exact hNot⟩
    have : (es.filter fun x => (getEng s x.1).st != .fault).any (fun y => y.1 == z) = true :=
      List.any_eq_true.mpr ⟨x, hNow, beq_iff_eq.mpr h.symm⟩
    rw [this] at hAny
    cases hAny

/-- An engine that is not named enters FAULT with LINK_SET. -/
theorem faulted_code_of_not_named {s : State} {es : List (Eng × BitVec 8)} {y : Eng × BitVec 8} (hy : y ∈ faulted s es)
    (h : y ∉ es) : y.2 = fcLinkSet := by
  obtain hy | hy := List.mem_append.mp hy
  · exact absurd (List.mem_filter.mp hy).1 h
  · obtain ⟨z, -, rfl⟩ := List.mem_map.mp hy
    rfl

end Sys2Proof.Machine
end

section
/-! Obligations of the block state machine (01_architecture, Table ARC-7, R24 to R27 and R41 to R46). -/

namespace Sys2Proof.Machine

/-! ### Requests -/

theorem alwaysBlocked_iff (s : State) (e : Eng) : alwaysBlocked s e = true ↔ (∃ x ∈ together s e, calibrating s x = true) ∨
    throttled s e = true ∨ (s.boot.stage = .recovery ∧ e ≠ .portM) := by
  simp [alwaysBlocked, or_assoc]

theorem startBlocked_of_alwaysBlocked {s : State} {e : Eng} (h : alwaysBlocked s e = true) : startBlocked s e = true := by
  simp [startBlocked, h]

theorem finishAll_nil (s : State) (st : BitVec 8) : finishAll s [] st = s := (rfl)

/-- A descriptor's list that stays as it is leaves the state. -/
theorem modEng_append_nil_heldOps (s : State) (e : Eng) :
    modEng s e (fun c => { c with heldOps := c.heldOps ++ [] }) = s := by
  simp only [List.append_nil]
  exact modEng_id s e

theorem modEng_append_nil_startOps (s : State) (e : Eng) :
    modEng s e (fun c => { c with startOps := c.startOps ++ [] }) = s := by
  simp only [List.append_nil]
  exact modEng_id s e

theorem modEng_append_nil_stopOps (s : State) (e : Eng) :
    modEng s e (fun c => { c with stopOps := c.stopOps ++ [] }) = s := by
  simp only [List.append_nil]
  exact modEng_id s e

theorem getEng_rejectReq (s : State) (e : Eng) : getEng (rejectReq s e) e = { getEng s e with reqRejected := true } :=
  getEng_modEng_same _ _ _

theorem rejectReq_st (s : State) (e x : Eng) : (getEng (rejectReq s e) x).st = (getEng s x).st := by
  by_cases h : x = e
  · subst h
    rw [getEng_rejectReq]
  · exact congrArg EngCore.st (getEng_modEng_other _ _ h)

theorem getEng_absorbReq (s : State) (e : Eng) {m : Meet} (h : m ≠ .withSame) :
    getEng (absorbReq s e m) e = { getEng s e with absorbed := true } := by
  rw [absorbReq, if_neg h, getEng_modEng_same]

theorem absorbReq_st (s : State) (e : Eng) (m : Meet) : (getEng (absorbReq s e m) e).st = (getEng s e).st := by
  by_cases h : m = .withSame
  · rw [absorbReq, if_pos h]
  · rw [getEng_absorbReq s e h]

/-! ### The Enable column -/

section
variable {s : State} {e : Eng} {m : Meet}

theorem enableEng_absorbed_of_disable (h : isMember s e = false) :
    enableEng s e none .withDisable = modEng s e fun c => { c with absorbed := true } := by
  simp [enableEng, h, absorbReq, finishAll_nil]

theorem enableEng_barred (h : isMember s e = false) (hm : m ≠ .withDisable) (hb : alwaysBlocked s e = true) :
    enableEng s e none m = rejectReq s e := by
  simp [enableEng, h, hm, hb, finishAll_nil]

/-- An enable that nothing bars acts by the engine's state. -/
theorem enableEng_free (h : isMember s e = false) (hm : m ≠ .withDisable) (hb : alwaysBlocked s e = false) :
    ((getEng s e).st = .off → (getEng s e).offCycle = false → startBlocked s e = false →
      enableEng s e none m = startEng s e []) ∧
    ((getEng s e).st = .off → (getEng s e).offCycle = false → startBlocked s e = true →
      enableEng s e none m = noteSpans (rejectReq s e) e) ∧
    (((getEng s e).st = .off ∧ (getEng s e).offCycle = true) ∨ (getEng s e).st = .starting ∨
        (getEng s e).st = .on ∨ (getEng s e).st = .pendingOn → enableEng s e none m = absorbReq s e m) ∧
    ((getEng s e).st = .stopping → enableEng s e none m =
      modEng ((together s e).foldl (fun s x => modEng s x fun c => { c with st := .pendingOn }) s) e fun c =>
        { c with heldOps := [] }) ∧
    ((getEng s e).st = .fault → enableEng s e none m = rejectReq s e) := by
  have hE : enableEng s e none m = _ := (if_neg (ne_true_of_eq_false h)).trans ((if_neg hm).trans
    (if_neg (ne_true_of_eq_false hb)))
  refine ⟨fun hSt hC hB => ?_, fun hSt hC hB => ?_, ?_, fun hSt => ?_, fun hSt => ?_⟩
  · rw [hE, hSt]
    exact (if_neg (ne_true_of_eq_false hC)).trans (if_neg (ne_true_of_eq_false hB))
  · rw [hE, hSt]
    exact (if_neg (ne_true_of_eq_false hC)).trans (if_pos hB)
  · rintro (⟨hSt, hC⟩ | hSt | hSt | hSt)
    · rw [hE, hSt]
      exact (if_pos hC).trans (modEng_append_nil_heldOps _ _)
    · rw [hE, hSt]
      exact modEng_append_nil_startOps _ _
    · rw [hE, hSt]
      exact finishAll_nil _ _
    · rw [hE, hSt]
      exact modEng_append_nil_heldOps _ _
  · rw [hE, hSt]
    rfl
  · rw [hE, hSt]
    rfl

end

theorem exec_ctlEnable {s : State} (h : barsOn s = true) (e : Eng) (m : Meet) :
    exec (.ctlEnable e m) s = .next (enableEng s e none m) :=
  congrArg Host.Outcome.next (if_pos h)

theorem exec_ctlDisable {s : State} (h : barsOn s = true) (e : Eng) (m : Meet) :
    exec (.ctlDisable e m) s = .next (closeCheck (disableEng s e none m)) :=
  congrArg Host.Outcome.next (if_pos h)

/-- Settles O15, by the branches of an enable that nothing bars. -/
theorem enableFollowsTheStateTable : Obligations.EnableFollowsTheStateTable := by
  intro s e m hBars hM
  rw [exec_ctlEnable hBars]
  refine ⟨fun hm => ?_, fun hm hBar => ?_, fun hm hCal hThr hRec => ⟨_, rfl, ?_⟩⟩
  · rw [hm, enableEng_absorbed_of_disable hM]
  · rw [enableEng_barred hM hm ((alwaysBlocked_iff s e).mpr hBar)]
    rfl
  · have hFree : alwaysBlocked s e = false := by
      rw [Bool.eq_false_iff, ne_eq, alwaysBlocked_iff]
      rintro (⟨x, hx, hc⟩ | ht | ⟨hr, he⟩)
      · exact absurd hc (ne_true_of_eq_false (hCal x hx))
      · exact absurd ht (ne_true_of_eq_false hThr)
      · exact hRec.elim (fun h => h hr) he
    obtain ⟨hStart, hReject, hAbsorb, hHold, hFault⟩ := enableEng_free hM hm hFree
    refine ⟨fun hSt hC hB => ?_, fun hSt hC hB => ?_, fun h => ⟨fun hs => ?_, fun hs => ?_⟩, fun hSt => ?_, hFault⟩
    · rw [hStart hSt hC hB, getEng_startEng_self]
    · rw [hReject hSt hC hB, getEng_congr (engines_of_frame (noteSpans_frame _ _)), getEng_rejectReq]
      exact ⟨hSt, rfl⟩
    · rw [hAbsorb h]
      exact if_pos hs
    · rw [hAbsorb h]
      exact if_neg hs
    · rw [hHold hSt, getEng_modEng_same, getEng_foldl_mem _ ?_ (mem_together s e)]
      intros
      rfl

/-! ### The Disable column -/

/-- A disable by register acts by the engine's state. -/
theorem disableEng_none {s : State} {e : Eng} (m : Meet) (h : isMember s e = false) :
    ((getEng s e).st = .off → (getEng s e).offCycle = false →
      getEng (disableEng s e none m) e = getEng (absorbReq s e m) e) ∧
    ((getEng s e).st = .off → (getEng s e).offCycle = true →
      getEng (disableEng s e none m) e = { getEng s e with offCycle := false, heldOps := [] }) ∧
    ((getEng s e).st = .starting ∨ (getEng s e).st = .on → disableEng s e none m = stopEng s e []) ∧
    ((getEng s e).st = .stopping → disableEng s e none m = absorbReq s e m) ∧
    ((getEng s e).st = .pendingOn →
      getEng (disableEng s e none m) e = { getEng s e with st := .stopping, heldOps := [] }) ∧
    ((getEng s e).st = .fault → m ≠ .withFault → disableEng s e none m = idleCheck (offEng s e false)) ∧
    ((getEng s e).st = .fault → m = .withFault → disableEng s e none m = absorbReq s e m) := by
  have hE : disableEng s e none m = _ := if_neg (ne_true_of_eq_false h)
  refine ⟨fun hSt hC => ?_, fun hSt hC => ?_, ?_, fun hSt => ?_, fun hSt => ?_, fun hSt hm => ?_, fun hSt hm => ?_⟩
  · rw [hE, hSt]
    refine (congrArg (getEng · e) (if_neg (ne_true_of_eq_false hC))).trans ?_
    rw [getEng_congr (engines_of_frame (idleCheck_frame _))]
    exact offFaulted_self _ _
  · rw [hE, hSt]
    refine (congrArg (getEng · e) (if_pos hC)).trans ?_
    rw [getEng_congr (engines_of_frame ((idleCheck_frame _).trans ((finishAll_frame _ _ _).trans (finishAll_frame _ _ _)))),
      getEng_modEng_same, getEng_foldl_mem _ ?_ (mem_together s e)]
    intros
    rfl
  · rintro (hSt | hSt)
    · rw [hE, hSt]
      rfl
    · rw [hE, hSt]
      rfl
  · rw [hE, hSt]
    exact modEng_append_nil_stopOps _ _
  · rw [hE, hSt]
    refine (getEng_congr (engines_of_frame (finishAll_frame _ _ _)) e).trans ?_
    rw [getEng_modEng_same]
    dsimp only [Option.toList]
    rw [List.append_nil]
    exact congrArg (fun c : EngCore => { c with heldOps := [] })
      (getEng_foldl_mem (fun c => { c with st := .stopping }) (fun _ => rfl) (mem_together s e) s)
  · rw [hE, hSt]
    refine (if_neg hm).trans (congrArg (fun t => idleCheck (offEng t e false)) ?_)
    exact modEng_append_nil_stopOps _ _
  · rw [hE, hSt]
    exact if_pos hm

theorem disableFollowsTheStateTable_own (s : State) (e : Eng) (m : Meet) (hBars : barsOn s = true)
    (hM : isMember s e = false) :
    ∃ t, exec (.ctlDisable e m) s = .next t ∧
        ((getEng s e).st = .off → (getEng s e).offCycle = false → (getEng t e).st = .off ∧
          (m ≠ .withSame → (getEng t e).absorbed = true)) ∧
        ((getEng s e).st = .off → (getEng s e).offCycle = true →
          (getEng t e).st = .off ∧ (getEng t e).offCycle = false ∧ (getEng t e).heldOps = []) ∧
        ((getEng s e).st = .starting ∨ (getEng s e).st = .on → (getEng t e).st = .stopping) ∧
        ((getEng s e).st = .stopping → (getEng t e).st = .stopping ∧
          (m ≠ .withSame → (getEng t e).absorbed = true)) ∧
        ((getEng s e).st = .pendingOn → (getEng t e).st = .stopping ∧ (getEng t e).heldOps = []) ∧
        ((getEng s e).st = .fault → m ≠ .withFault → (getEng t e).st = .off) ∧
        ((getEng s e).st = .fault → m = .withFault → (getEng t e).st = .fault ∧ (getEng t e).absorbed = true) := by
  refine ⟨_, exec_ctlDisable hBars e m, ?_⟩
  rw [getEng_congr (closeCheck_engines _)]
  obtain ⟨hOff, hCycle, hStop, hStopping, hPending, hFault, hMeets⟩ := disableEng_none m hM
  refine ⟨fun hSt hC => ?_, fun hSt hC => ?_, fun hSt => ?_, fun hSt => ?_, fun hSt => ?_, fun hSt hm => ?_,
    fun hSt hm => ?_⟩
  · rw [hOff hSt hC]
    exact ⟨(absorbReq_st s e m).trans hSt, fun hm => by rw [getEng_absorbReq s e hm]⟩
  · rw [hCycle hSt hC]
    exact ⟨hSt, rfl, rfl⟩
  · rw [hStop hSt]
    exact stopEng_stopping _ (mem_together s e)
  · rw [hStopping hSt]
    exact ⟨(absorbReq_st s e m).trans hSt, fun hm => by rw [getEng_absorbReq s e hm]⟩
  · rw [hPending hSt]
    exact ⟨rfl, rfl⟩
  · rw [hFault hSt hm, getEng_congr (engines_of_frame (idleCheck_frame _))]
    exact offEng_off _ (mem_together s e)
  · rw [hMeets hSt hm]
    exact ⟨(absorbReq_st s e m).trans hSt, by rw [getEng_absorbReq s e (hm ▸ Meet.noConfusion)]⟩

/-- Settles O16, by the state in which the disable reaches the engine. -/
theorem disableFollowsTheStateTable : Obligations.DisableFollowsTheStateTable := by
  refine ⟨disableFollowsTheStateTable_own, fun s p m hBars hL => ⟨?_, ?_⟩⟩
  · rw [exec_ctlEnable hBars]
    exact congrArg Host.Outcome.next (if_pos hL)
  · rw [exec_ctlDisable hBars]
    exact congrArg (fun t => Host.Outcome.next (closeCheck t)) (if_pos hL)

/-! ### Ends of STARTING and STOPPING -/

section
variable {s : State} {e : Eng}

theorem stopDone_stopping (hM : isMember s e = false) (hR : stopReady s e = true) (hSt : (getEng s e).st = .stopping) :
    stopDone s e = idleCheck (offEng s e true) := by
  unfold stopDone
  dsimp only
  rw [hM, hR, hSt]
  rfl

theorem stopDone_pendingOn (hM : isMember s e = false) (hR : stopReady s e = true) (hSt : (getEng s e).st = .pendingOn) :
    stopDone s e =
      offEng ((together s e).foldl (fun s x => modEng s x fun c => { c with offCycle := true }) s) e true := by
  unfold stopDone
  dsimp only
  rw [hM, hR, hSt]
  rfl

/-- The engines that act together leave the one cycle of OFF. -/
def leaveCycle (s : State) (e : Eng) : State :=
  (together s e).foldl (fun s x => modEng s x fun c => { c with offCycle := false }) s

theorem getEng_leaveCycle (s : State) (e : Eng) : getEng (leaveCycle s e) e = { getEng s e with offCycle := false } :=
  getEng_foldl_mem (fun c => { c with offCycle := false }) (fun _ => rfl) (mem_together s e) s

theorem heldEnable_free (hM : isMember s e = false) (hC : (getEng s e).offCycle = true)
    (hB : startBlocked (leaveCycle s e) e = false) :
    heldEnable s e = startEng (leaveCycle s e) e (getEng s e).heldOps := by
  unfold heldEnable
  rw [if_pos (by simp [hC, hM])]
  exact if_neg (ne_true_of_eq_false hB)

theorem heldEnable_blocked (hM : isMember s e = false) (hC : (getEng s e).offCycle = true)
    (hB : startBlocked (leaveCycle s e) e = true) :
    getEng (heldEnable s e) e = { getEng s e with offCycle := false, reqRejected := true, heldOps := [] } := by
  unfold heldEnable
  rw [if_pos (by simp [hC, hM])]
  refine (congrArg (getEng · e) (if_pos hB)).trans ?_
  rw [getEng_congr (engines_of_frame ((idleCheck_frame _).trans (finishAll_frame _ _ _))), getEng_modEng_same,
    getEng_congr (engines_of_frame (noteSpans_frame _ _)), getEng_rejectReq]
  exact congrArg (fun c : EngCore => { c with reqRejected := true, heldOps := [] }) (getEng_leaveCycle s e)

end

/-- Settles O17, by what the end of STARTING, the end of STOPPING and a held enable make of the engine's core. -/
theorem startsAndStopsEnd : Obligations.StartsAndStopsEnd := by
  intro s e hM
  refine ⟨fun hSt hR => ⟨_, rfl, ?_⟩, fun hR hSt hC => ⟨_, rfl, ?_⟩, fun hR hSt => ⟨_, rfl, ?_⟩, fun hC u hu => ⟨_, rfl, ?_⟩⟩
  · rw [getEng_congr (engines_of_frame (bootHook_frame _ _)), getEng_startDone_self hSt hM hR]
    exact ⟨rfl, rfl⟩
  · rw [getEng_congr (closeCheck_engines _), stopDone_stopping hM hR hSt,
      getEng_congr (engines_of_frame (idleCheck_frame _)), getEng_offEng_self]
    exact ⟨rfl, hC, rfl⟩
  · rw [getEng_congr (closeCheck_engines _), stopDone_pendingOn hM hR hSt, getEng_offEng_self,
      getEng_foldl_mem (fun c => { c with offCycle := true }) (fun _ => rfl) (mem_together s e)]
    exact ⟨rfl, rfl, rfl, rfl⟩
  · obtain rfl : u = leaveCycle s e := hu
    rw [getEng_congr (closeCheck_engines _)]
    cases hB : startBlocked (leaveCycle s e) e with
    | false =>
      rw [heldEnable_free hM hC hB, getEng_startEng_self]
      exact ⟨rfl, rfl, fun _ => ⟨rfl, rfl⟩, Bool.noConfusion⟩
    | true =>
      rw [heldEnable_blocked hM hC hB]
      exact ⟨rfl, rfl, Bool.noConfusion, fun _ => ⟨rfl, rfl⟩⟩

/-! ### Timeouts and link sets -/

section
variable {s : State} {e : Eng}

/-- The codes with which a timeout of an engine faults those that act together with it. -/
def timeoutCodes (s : State) (e : Eng) : List (Eng × BitVec 8) :=
  (together s e).map fun x => (x, if x = e then fcTimeout else fcLinkSet)

theorem mem_timeoutCodes {x : Eng × BitVec 8} :
    x ∈ timeoutCodes s e ↔ x.1 ∈ together s e ∧ x.2 = if x.1 = e then fcTimeout else fcLinkSet := by
  constructor
  · intro h
    obtain ⟨y, hy, rfl⟩ := List.mem_map.mp h
    exact ⟨hy, rfl⟩
  · rintro ⟨h, h2⟩
    exact List.mem_map.mpr ⟨x.1, h, Prod.ext rfl h2.symm⟩

theorem engTimeout_engines (hM : isMember s e = false) {starting : Bool}
    (hDue : (if starting then (getEng s e).st == .starting else (getEng s e).st == .stopping || (getEng s e).st == .pendingOn)
      = true) :
    engines (engTimeout s e starting) = engines (faultCores s (faulted s (timeoutCodes s e)) eTimeout) := by
  unfold engTimeout
  rw [if_pos (Bool.and_eq_true_iff.mpr ⟨hDue, by rw [hM]; rfl⟩)]
  exact faultMany_engines _ _ _ _

/-- A named engine enters FAULT, or stands in it. -/
theorem faulted_named_fault {es : List (Eng × BitVec 8)} (st : BitVec 8) {x : Eng × BitVec 8} (hx : x ∈ es) :
    (getEng (faultCores s (faulted s es) st) x.1).st = .fault := by
  refine faultCores_fault _ _ _ _ ?_
  by_cases h : (getEng s x.1).st = .fault
  · exact Or.inl h
  · exact Or.inr ⟨x, mem_faulted_of_named hx h, rfl⟩

theorem engTimeout_fault (hM : isMember s e = false) {starting : Bool} {x : Eng}
    (hDue : (if starting then (getEng s e).st == .starting else (getEng s e).st == .stopping || (getEng s e).st == .pendingOn)
      = true) (hx : x ∈ together s e) : (getEng (engTimeout s e starting) x).st = .fault := by
  rw [getEng_congr (engTimeout_engines hM hDue)]
  have hNamed : (x, if x = e then fcTimeout else fcLinkSet) ∈ timeoutCodes s e := mem_timeoutCodes.mpr ⟨hx, rfl⟩
  exact faulted_named_fault _ hNamed

theorem engTimeout_inFault (hM : isMember s e = false) {starting : Bool}
    (hDue : (if starting then (getEng s e).st == .starting else (getEng s e).st == .stopping || (getEng s e).st == .pendingOn)
      = true) (hF : (getEng s e).st ≠ .fault) : (getEng (engTimeout s e starting) e).InFault fcTimeout eTimeout := by
  rw [getEng_congr (engTimeout_engines hM hDue)]
  have hNamed : (e, fcTimeout) ∈ timeoutCodes s e := mem_timeoutCodes.mpr ⟨mem_together s e, (if_pos rfl).symm⟩
  refine faultCores_inFault _ _ (mem_faulted_of_named hNamed hF) (fun x hx hxe => ?_) s
  obtain ⟨-, hCode⟩ := mem_timeoutCodes.mp (mem_faulted_named hNamed hx hxe)
  exact hCode.trans (if_pos hxe)

end

/-- A timeout puts an engine outside link sets into FAULT with TIMEOUT (R43). -/
theorem timeouts_fault (s : State) (e : Eng) (hM : isMember s e = false) :
    ((getEng s e).st = .starting → ∃ t, exec (.startTimeout e) s = .next t ∧ (getEng t e).st = .fault ∧
      (getEng t e).timedOut = true ∧ (getEng t e).faultCode = fcTimeout ∧ (getEng t e).startOps = [] ∧
      (getEng t e).heldOps = []) ∧
    ((getEng s e).st = .stopping ∨ (getEng s e).st = .pendingOn → ∃ t, exec (.stopTimeout e) s = .next t ∧
      (getEng t e).st = .fault ∧ (getEng t e).timedOut = true ∧ (getEng t e).faultCode = fcTimeout ∧
      (getEng t e).startOps = [] ∧ (getEng t e).heldOps = []) := by
  refine ⟨fun hSt => ⟨_, rfl, ?_⟩, fun hSt => ⟨_, rfl, ?_⟩⟩
  · rw [getEng_congr (engines_of_frame (bootHook_frame _ _))]
    obtain ⟨h1, h2, h3, h4, h5⟩ := engTimeout_inFault (starting := true) hM (by simp [hSt]) (by simp [hSt])
    exact ⟨h1, h3 rfl rfl, h2, h4, h5⟩
  · obtain ⟨h1, h2, h3, h4, h5⟩ := engTimeout_inFault (starting := false) hM (by simpa using hSt)
      (by obtain h | h := hSt <;> simp [h])
    exact ⟨h1, h3 rfl rfl, h2, h4, h5⟩

section
variable {s : State} {p : Fin 16}

theorem startBlocked_of_setBad (h : setBad s p = true) : startBlocked s (.plaza p) = true := by
  simp [startBlocked, h]

/-- An enable of a set that is not valid starts nothing (R26). -/
theorem enableEng_setBad (hM : isMember s (.plaza p) = false) (hSt : (getEng s (.plaza p)).st = .off)
    (hC : (getEng s (.plaza p)).offCycle = false) (hB : setBad s p = true) :
    engines (enableEng s (.plaza p) none .alone) = engines (rejectReq s (.plaza p)) := by
  cases hA : alwaysBlocked s (.plaza p) with
  | true => rw [enableEng_barred hM Meet.noConfusion hA]
  | false =>
    obtain ⟨-, hReject, -⟩ := enableEng_free hM (m := .alone) Meet.noConfusion hA
    rw [hReject hSt hC (startBlocked_of_setBad hB)]
    exact engines_of_frame (noteSpans_frame _ _)

/-- A FAULT of a Plaza of a set whose leader is not OFF follows on the others (R27). -/
theorem mem_faulted_of_set {q r : Fin 16} {code : BitVec 8} (hp : (s.plz[p]).cfg.linked = false) (hq : q ∈ setOf s p)
    (hr : r ∈ setOf s p) (hqF : (getEng s (.plaza q)).st ≠ .fault) (hOn : (getEng s (.plaza p)).st ≠ .off)
    (hrq : r ≠ q) (hrF : (getEng s (.plaza r)).st ≠ .fault) :
    (.plaza r, fcLinkSet) ∈ faulted s [(.plaza q, code)] := by
  have hNow : [(Eng.plaza q, code)].filter (fun x => (getEng s x.1).st != .fault) = [(Eng.plaza q, code)] := by
    simp [hqF]
  have hHead : headOf s (.plaza q) = .plaza p := congrArg Eng.plaza (leaderOf_of_mem_setOf hp hq)
  refine List.mem_append_right _ (List.mem_map.mpr ⟨.plaza r, ?_, rfl⟩)
  rw [hNow]
  refine List.mem_filter.mpr ⟨List.mem_eraseDups.mpr (List.mem_flatMap.mpr ⟨.plaza p, ?_, plaza_mem_together.mpr hr⟩), ?_⟩
  · refine List.mem_filter.mpr ⟨List.mem_eraseDups.mpr (List.mem_map.mpr ⟨_, List.mem_singleton.mpr rfl, hHead⟩), ?_⟩
    simp [hOn]
  · simp [hrF, Ne.symm hrq]

theorem faultEng_set {q : Fin 16} (code : BitVec 8) (hp : (s.plz[p]).cfg.linked = false) (hq : q ∈ setOf s p)
    (hqF : (getEng s (.plaza q)).st ≠ .fault) (hOn : (getEng s (.plaza p)).st ≠ .off) :
    (∀ r ∈ setOf s p, (getEng (faultEng s (.plaza q) code) (.plaza r)).st = .fault) ∧
    (getEng (faultEng s (.plaza q) code) (.plaza q)).faultCode = code ∧
    ∀ r ∈ setOf s p, r ≠ q → (getEng s (.plaza r)).st ≠ .fault →
      (getEng (faultEng s (.plaza q) code) (.plaza r)).faultCode = fcLinkSet := by
  have hNamed : (Eng.plaza q, code) ∈ [(Eng.plaza q, code)] := List.mem_singleton.mpr rfl
  have hCores (x : Eng) := getEng_congr (faultMany_engines s [(.plaza q, code)] eAborted fun _ => true) x
  have hq' : (getEng (faultEng s (.plaza q) code) (.plaza q)).InFault code eAborted := by
    rw [faultEng, hCores]
    refine faultCores_inFault _ _ (mem_faulted_of_named hNamed hqF) (fun y hy hye => ?_) s
    exact congrArg Prod.snd (List.mem_singleton.mp (mem_faulted_named hNamed hy hye))
  have hr' (r : Fin 16) (hr : r ∈ setOf s p) (hrq : r ≠ q) (hrF : (getEng s (.plaza r)).st ≠ .fault) :
      (getEng (faultEng s (.plaza q) code) (.plaza r)).InFault fcLinkSet eAborted := by
    rw [faultEng, hCores]
    refine faultCores_inFault _ _ (mem_faulted_of_set hp hq hr hqF hOn hrq hrF) (fun y hy hye => ?_) s
    refine faulted_code_of_not_named hy fun hy => hrq ?_
    rw [List.mem_singleton.mp hy] at hye
    exact (Eng.plaza.inj hye).symm
  obtain ⟨hqSt, hqCode, -⟩ := hq'
  refine ⟨fun r hr => ?_, hqCode, fun r hr hrq hrF => ?_⟩
  by_cases hrF : (getEng s (.plaza r)).st = .fault
  · rw [faultEng, hCores]
    exact faultCores_fault _ _ _ _ (Or.inl hrF)
  · by_cases hrq : r = q
    · exact hrq ▸ hqSt
    · obtain ⟨hSt, -⟩ := hr' r hr hrq hrF
      exact hSt
  · obtain ⟨-, hCode, -⟩ := hr' r hr hrq hrF
    exact hCode

end

/-- Settles O18, by the state in which each request, end and timeout leaves every engine of the set. -/
theorem engineTimeoutsFault : Obligations.EngineTimeoutsFault := by
  refine ⟨timeouts_fault, fun s p hp => ?_⟩
  have hM : isMember s (.plaza p) = false := hp
  intro all
  refine ⟨fun hBars hSt hC => ⟨fun hB => ?_, fun hB => ?_⟩, fun hBars hSt => ?_,
    fun hSt => ⟨⟨_, rfl, fun q hq => ?_⟩, ⟨_, rfl, fun q hq => ?_⟩⟩,
    fun hSt => ⟨⟨_, rfl, fun q hq => ?_⟩, ⟨_, rfl, fun q hq => ?_⟩⟩,
    fun q hq code hqF hOn => ⟨_, rfl, faultEng_set code hp hq hqF hOn⟩⟩
  · refine ⟨_, exec_ctlEnable hBars _ _, fun q hq => ?_⟩
    have hA : alwaysBlocked s (.plaza p) = false := by
      rw [Bool.eq_false_iff]
      exact fun h => ne_true_of_eq_false hB (startBlocked_of_alwaysBlocked h)
    obtain ⟨hStart, -⟩ := enableEng_free hM (m := .alone) Meet.noConfusion hA
    rw [hStart hSt hC hB]
    exact startEng_starting _ (plaza_mem_together.mpr hq)
  · have hE := enableEng_setBad hM hSt hC hB
    refine ⟨_, exec_ctlEnable hBars _ _, ?_, fun q _ => ?_⟩
    · rw [getEng_congr hE, getEng_rejectReq]
    · rw [getEng_congr hE, rejectReq_st]
  · refine ⟨_, exec_ctlDisable hBars _ _, fun q hq => ?_⟩
    obtain ⟨-, -, hStop, -⟩ := disableEng_none .alone hM
    rw [getEng_congr (closeCheck_engines _), hStop hSt.symm]
    exact stopEng_stopping _ (plaza_mem_together.mpr hq)
  · rw [getEng_congr (engines_of_frame (bootHook_frame _ _))]
    exact startDone_on hSt hM rfl (plaza_mem_together.mpr hq)
  · rw [getEng_congr (engines_of_frame (bootHook_frame _ _))]
    exact engTimeout_fault hM (by simp [hSt]) (plaza_mem_together.mpr hq)
  · rw [getEng_congr (closeCheck_engines _), stopDone_stopping hM rfl hSt,
      getEng_congr (engines_of_frame (idleCheck_frame _))]
    exact offEng_off _ (plaza_mem_together.mpr hq)
  · exact engTimeout_fault hM (by simp [hSt]) (plaza_mem_together.mpr hq)

end Sys2Proof.Machine
end

section
/-! The obligation of the link's resets (02_host_rings, R59 and R62), with what the end of the host's work leaves of the
host interface and the rings. -/

namespace Sys2Proof.Machine

/-! ### The host interface and the rings -/

/-- The host-interface registers, and whether no ring is attached. -/
def link (s : State) : Hif × Bool := (s.hif, s.rings.isEmpty)

theorem link_of_frame {s t : State} (h : frame t = frame s) : link t = link s :=
  congrArg (fun F : Frame => (F.hif, F.rings.isEmpty)) h

@[simp] theorem modEng_link (s : State) (e : Eng) (f : EngCore → EngCore) : link (modEng s e f) = link s := by
  cases e <;> rfl

theorem link_foldl {α : Type} (g : State → α → State) (h : ∀ s x, link (g s x) = link s) (l : List α) (s : State) :
    link (l.foldl g s) = link s :=
  foldl_keeps link h l s

/-! ### A disable -/

theorem stopEng_link (s : State) (e : Eng) (ops : List OpId) : link (stopEng s e ops) = link s := by
  refine (link_of_frame (frame_foldl _ stopActs_frame _ _)).trans ?_
  have hCore (t : State) : link (finishAll t (getEng s e).startOps eAborted) = link t :=
    link_of_frame (finishAll_frame _ _ _)
  split
  · exact (link_of_frame (leaveOn_frame _ _)).trans ((hCore _).trans ((modEng_link _ _ _).trans
      (link_foldl _ (fun _ _ => modEng_link _ _ _) _ _)))
  · exact (hCore _).trans ((modEng_link _ _ _).trans (link_foldl _ (fun _ _ => modEng_link _ _ _) _ _))

theorem offEng_link (s : State) (e : Eng) (b : Bool) : link (offEng s e b) = link s :=
  (link_of_frame ((finishAll_frame _ _ _).trans (frame_foldl _ (fun _ _ => offActs_frame _ _ _) _ _))).trans
    ((modEng_link _ _ _).trans (link_foldl _ (fun _ _ => modEng_link _ _ _) _ _))

theorem offFaulted_link (s : State) (e : Eng) : link (offFaulted s e) = link s := by
  refine link_foldl _ (fun s x => ?_) _ _
  split
  · exact (link_of_frame (offActs_frame _ _ _)).trans (modEng_link _ _ _)
  · rfl

theorem idleCheck_link (s : State) : link (idleCheck s) = link s := link_of_frame (idleCheck_frame s)

theorem finishAll_link (s : State) (ids : List OpId) (st : BitVec 8) : link (finishAll s ids st) = link s :=
  link_of_frame (finishAll_frame s ids st)

theorem absorbReq_link (s : State) (e : Eng) (m : Meet) : link (absorbReq s e m) = link s := by
  unfold absorbReq
  split <;> simp

theorem disableEng_link (s : State) (e : Eng) (op : Option OpId) (m : Meet) : link (disableEng s e op m) = link s := by
  have hFold (f : EngCore → EngCore) (t : State) :
      link ((together s e).foldl (fun s x => modEng s x f) t) = link t :=
    link_foldl _ (fun _ _ => modEng_link _ _ _) _ _
  unfold disableEng
  dsimp only
  split
  · exact (finishAll_link _ _ _).trans (modEng_link _ _ _)
  split
  · split
    · simp only [idleCheck_link, finishAll_link, modEng_link, hFold]
    · simp only [idleCheck_link, finishAll_link, offFaulted_link, absorbReq_link]
  · exact stopEng_link _ _ _
  · exact stopEng_link _ _ _
  · exact (modEng_link _ _ _).trans (absorbReq_link _ _ _)
  · exact (finishAll_link _ _ _).trans ((modEng_link _ _ _).trans (hFold _ _))
  · split
    · exact (finishAll_link _ _ _).trans (absorbReq_link _ _ _)
    · exact (idleCheck_link _).trans ((offEng_link _ _ _).trans (modEng_link _ _ _))

theorem endDisable_link (s : State) (e : Eng) : link (endDisable s e) = link s := by
  unfold endDisable
  split
  · rfl
  · exact disableEng_link _ _ _ _

/-! ### Operations that end -/

@[simp] theorem freeRange_frame (s : State) (a n : Nat) : frame (freeRange s a n) = frame s :=
  takeFree_frame s (8 * n)

@[simp] theorem endWrite_eng (A : Awg) (w : Fin 256) (id : OpId) : (endWrite A w id).eng = A.eng := by
  unfold endWrite
  dsimp only
  split
  · exact refetch_eng _
  · rfl

/-- Only an abandoned RING_DETACH touches a ring. -/
theorem abandon_frame {o : Op} (s : State) (st : BitVec 8) (h : opcodeOf o.cur ≠ 0x07) :
    frame (abandon s o st) = frame s := by
  unfold abandon
  dsimp only
  split
  · contradiction
  all_goals (repeat' split) <;> simp

theorem abandon_link (s : State) (o : Op) (st : BitVec 8) : link (abandon s o st) = link s := by
  by_cases h : opcodeOf o.cur = 0x07
  · unfold abandon
    dsimp only
    rw [h]
    exact (link_of_frame (finishOp_frame _ _ _ _)).trans (by simp [link])
  · exact link_of_frame (abandon_frame s st h)

theorem abortOp_link (s : State) (id : OpId) (st : BitVec 8) : link (abortOp s id st) = link s := by
  unfold abortOp
  split
  · rfl
  · split
    · rfl
    · dsimp only
      split
      · exact abandon_link _ _ _
      · exact link_of_frame (completeOp_frame _ _ _ _)

theorem abortLoose_link (s : State) (ops : List Op) : link (abortLoose s ops) = link s := by
  refine link_foldl _ (fun s o => ?_) _ _
  split
  · split
    · exact abortOp_link _ _ _
    · rfl
  · rfl

theorem abortCtx_link (s : State) (c : CtxId) : link (abortCtx s c) = link s := by
  refine (abortLoose_link _ _).trans ((link_foldl _ endDisable_link _ _).trans ((abortLoose_link _ _).trans
    ((link_of_frame (closeAcqs_frame _ _ _)).trans (link_of_frame ((frame_foldl _ (fun s o => ?_) _ _).trans
      (dropSteps_frame _ _))))))
  split
  · exact completeOp_frame _ _ _ _
  · rfl

/-! ### Rings and contexts that end -/

theorem detachRing_hif (s : State) (n : RingId) : (detachRing s n).hif = s.hif :=
  congrArg Frame.hif (detachRing_frame s n)

theorem detachRing_rings (s : State) (n : RingId) : (detachRing s n).rings = s.rings.filter fun x => x.num != n :=
  congrArg Frame.rings (detachRing_frame s n)

theorem detachAll_rings (l : List RingId) (s : State) :
    (l.foldl detachRing s).rings = s.rings.filter fun r => !l.contains r.num := by
  induction l generalizing s with
  | nil => simp
  | cons n l ih =>
    rw [List.foldl_cons, ih, detachRing_rings, List.filter_filter]
    refine List.filter_congr fun r _ => ?_
    rw [List.contains_cons, Bool.not_or, Bool.and_comm]
    rfl

/-- Every ring is detached, the registers stay. -/
theorem detachAll_link (s : State) : link ((s.rings.map (·.num)).foldl detachRing s) = (s.hif, true) := by
  refine Prod.ext (foldl_keeps State.hif detachRing_hif _ _) ?_
  refine List.isEmpty_iff.mpr ((detachAll_rings _ _).trans (List.filter_eq_nil_iff.mpr fun r hr => ?_))
  simpa using ⟨r, hr, rfl⟩

theorem dropHost_link (s : State) : link (dropHost s) = (s.hif, true) := by
  unfold dropHost
  extract_lets s1 s2 s3 s4
  have h1 : link s1 = (s.hif, true) := detachAll_link s
  have h2 : link s2 = (s.hif, true) := (link_of_frame (dropSteps_frame s1 _)).trans h1
  have h3 : link s3 = (s.hif, true) := (link_foldl _ abortCtx_link _ s2).trans h2
  have h4 : link s4 = (s.hif, true) := (link_of_frame (frame_foldl _ dropEq_frame _ s3)).trans h3
  clear_value s4
  exact h4

theorem closeEngines_link (s : State) (c : CtxId) (op : Option OpId) (hit : List Eng) :
    link (closeEngines s c op hit) = link s :=
  (link_foldl _ endDisable_link _ _).trans (link_of_frame (modCtx_frame _ _ _))

theorem finishClose_link {s : State} {h : Hif} (hs : link s = (h, true)) (x : Ctx) (op : Option OpId) :
    link (finishClose s x op) = (h, true) := by
  have hNone : s.rings = [] := List.isEmpty_iff.mp (congrArg Prod.snd hs)
  refine Eq.trans ?_ hs
  unfold finishClose
  extract_lets s1 dram s2 s3 s4
  have h1 : link s1 = link s := by
    simp only [s1, hNone]
    split <;> rfl
  have h2 : link s2 = link s := by
    refine Eq.trans ?_ h1
    simp only [s2]
    split
    · rfl
    · exact link_of_frame (moveEq_frame _ _)
  have h4 : link s4 = link s := (link_of_frame (frame_foldl _ releaseRes_frame x.held s2)).trans h2
  split
  · exact (link_of_frame (completeOp_frame _ _ _ _)).trans h4
  · exact h4

theorem closeCheck_link {s : State} {h : Hif} (hs : link s = (h, true)) : link (closeCheck s) = (h, true) := by
  refine List.foldlRecOn (motive := fun t => link t = (h, true)) s.ctxs _ hs fun t ht x _ => ?_
  split
  · split
    · exact finishClose_link ht _ _
    · exact ht
  · exact ht

theorem endContexts_link {s : State} {h : Hif} (hs : link s = (h, true)) (hit : List Eng) :
    link (endContexts s hit) = (h, true) := by
  refine closeCheck_link (Eq.trans (link_foldl _ (fun s c => ?_) _ _) hs)
  split
  · split
    · rfl
    · exact closeEngines_link _ _ _ _
  · rfl

/-! ### The obligation -/

/-- An FLR resets the registers of a state that has the old ones and no ring. -/
theorem flrNow_eq (s : State) : ∃ t, link t = (s.hif, true) ∧ flrNow s = resetHif t :=
  ⟨_, endContexts_link (dropHost_link s) _, rfl⟩

theorem flrNow_spec (s : State) : (flrNow s).rings = [] ∧ (flrNow s).hif.adminEn = false ∧
    (flrNow s).hif.adminOn = false ∧ (flrNow s).hif.agreedF1 = false ∧ (flrNow s).hif.agreedF2 = false ∧
    (flrNow s).hif.rtLo = s.hif.rtLo ∧ (flrNow s).hif.rtHi = s.hif.rtHi ∧ (flrNow s).hif.qwait = s.hif.qwait ∧
    ∀ e ∈ (flrNow s).msix, e.masked = true := by
  obtain ⟨t, ht, hF⟩ := flrNow_eq s
  have hHif : t.hif = s.hif := congrArg Prod.fst ht
  rw [hF, ← hHif]
  refine ⟨List.isEmpty_iff.mp (congrArg Prod.snd ht), rfl, rfl, rfl, rfl, rfl, rfl, rfl, fun e he => ?_⟩
  obtain ⟨x, -, rfl⟩ := List.mem_map.mp he
  rfl

/-- Settles O22, by what the end of the host's work leaves of the host interface and the rings. -/
theorem linkResetsDetachEverything : Obligations.LinkResetsDetachEverything := by
  intro s
  obtain ⟨hRings, hEn, hOn, hF1, hF2, hLo, hHi, hQw, hMsix⟩ := flrNow_spec s
  refine ⟨fun hA c hc => ?_, fun hB hE => ?_⟩
  · have hNoted : exec c s = .next (flrNoted s) := by
      obtain rfl | rfl : c = .flr ∨ c = .dlDown := by simpa using hc
      · exact congrArg Host.Outcome.next (if_pos hA)
      · exact congrArg Host.Outcome.next (if_pos hA)
    unfold flrNoted at hNoted
    generalize flrNow s = t at *
    exact ⟨_, hNoted, hRings, hEn, hOn, hF1, hF2, hLo, hHi, hQw, hMsix, rfl⟩
  · have hClear : exec .adminEnClear s = .next (flrNow s) :=
      congrArg Host.Outcome.next (if_pos (Bool.and_eq_true_iff.mpr ⟨hB, hE⟩))
    exact ⟨_, hClear, hRings, hEn, hOn, hF1, hF2, hLo, hHi, hQw, hMsix⟩

end Sys2Proof.Machine
end
